-- ==== Sys2Proof/Word.lean ====
section
/-! DEFINITION. The words of the Mbavel (R3, R4): a word is 8 bytes, bits numbered from 0. -/

namespace Sys2Proof

/-- An unqualified word is 8 bytes (R4). -/
abbrev Word := BitVec 64

/-- A byte is 8 bits (R4). -/
abbrev Byte := BitVec 8

/-- A 32-bit value: an FP32 encoding, a thread counter, a block address. -/
abbrev Half := BitVec 32

/-- A 6-bit operand code of R47: 0 is z, 1 is q, 2 to 9 are o0 to o7, 10 to 63 are g0 to g53. -/
abbrev Reg := BitVec 6

/-- The constant zero register z (R47). -/
def Reg.z : Reg := 0

/-- The last-result latch q (R47). -/
def Reg.q : Reg := 1

/-- Operand file register o_n (R47). -/
def Reg.o (n : Nat) : Reg := BitVec.ofNat 6 (n + 2)

/-- Main file register g_n (R47). -/
def Reg.g (n : Nat) : Reg := BitVec.ofNat 6 (n + 10)

end Sys2Proof
end

