-- ==== Sys2Proof/Machine/Bits.lean ====
section
/-! DEFINITION. Bit fields, byte order and the other small operations on words that decoding and the meanings share. -/

namespace Sys2Proof.Machine

/-- Bits [lo + n - 1 : lo] of a bit vector. -/
def bits {w : Nat} (lo n : Nat) (x : BitVec w) : BitVec n := x.extractLsb' lo n

/-- Bits [lo + n - 1 : lo] of a word as a number. -/
def natBits {w : Nat} (lo n : Nat) (x : BitVec w) : Nat := (bits lo n x).toNat

/-- One bit of a bit vector. -/
def bit {w : Nat} (i : Nat) (x : BitVec w) : Bool := x.getLsbD i

/-- Sign extension to a word. -/
def sext {w : Nat} (x : BitVec w) : Word := x.signExtend 64

/-- Zero extension to a word. -/
def zext {w : Nat} (x : BitVec w) : Word := x.setWidth 64

/-- The little-endian bytes of a number (R3). -/
def bytesOf : Nat → Nat → List Byte
  | 0, _ => []
  | n + 1, v => BitVec.ofNat 8 v :: bytesOf n (v / 256)

/-- The number that little-endian bytes hold (R3). -/
def ofBytes : List Byte → Nat
  | [] => 0
  | b :: r => b.toNat + 256 * ofBytes r

/-- Number of set bits. -/
def popcount {w : Nat} (x : BitVec w) : Nat := (List.range w).countP (fun i => x.getLsbD i)

/-- The lowest set bit, or the width when there is none. -/
def lowest {w : Nat} (x : BitVec w) : Nat := ((List.range w).find? (fun i => x.getLsbD i)).getD w

/-- The numbers of the set bits, rising. -/
def setBits {w : Nat} (x : BitVec w) : List Nat := (List.range w).filter (fun i => x.getLsbD i)

/-- The bit vector with one bit set as told. -/
def withBit {w : Nat} (x : BitVec w) (i : Nat) (b : Bool) : BitVec w :=
  if b then x ||| BitVec.ofNat w (2 ^ i) else x &&& ~~~ BitVec.ofNat w (2 ^ i)

/-- A mask of bits [lo + n - 1 : lo]. -/
def maskAt (w lo n : Nat) : BitVec w := BitVec.ofNat w ((2 ^ n - 1) * 2 ^ lo)

/-- A word with a field replaced. -/
def putBits {w : Nat} (x : BitVec w) (lo n : Nat) (v : Nat) : BitVec w :=
  (x &&& ~~~ maskAt w lo n) ||| (BitVec.ofNat w (v * 2 ^ lo) &&& maskAt w lo n)

end Sys2Proof.Machine
end

