-- ==== Sys2Proof/Machine/Flags.lean ====
section
/-! DEFINITION. The floating-point status flags (R72), in the order in which s.rmode holds them from bit 8 up. -/

namespace Sys2Proof.Machine

/-- A set of flags: bit 0 NV, 1 DZ, 2 OF, 3 UF, 4 NX, 5 SAT (R72, s.rmode[13:8]). -/
abbrev Flags := BitVec 6

namespace Flags

/-- No flag. -/
def none : Flags := 0
/-- Invalid operation (R71). -/
def nv : Flags := 1
/-- Division by zero. -/
def dz : Flags := 2
/-- Overflow (R69). -/
def of : Flags := 4
/-- Underflow (R70). -/
def uf : Flags := 8
/-- Inexact (R70). -/
def nx : Flags := 16
/-- Saturation to an integer or mantissa extreme (R69). -/
def sat : Flags := 32

/-- A flag under a condition. -/
def when (c : Bool) (f : Flags) : Flags := if c then f else 0

end Flags

/-- s.rmode with flags ORed in (R72). -/
def orFlags (rmode : Word) (f : Flags) : Word := rmode ||| (f.setWidth 64 <<< 8)

/-- The bits of s.rmode that software can write (R72): RM and the six flags. -/
def rmodeMask : Word := 0x3F03

end Sys2Proof.Machine
end

