-- ==== Sys2Proof/Machine/Tables.lean ====
section
/-! DEFINITION. The four tables of R80, as FP32 encodings. Each literal is the formula of R80 rounded to nearest even;
Sys2Proof/Laws/Num.lean brackets the entries of ExpT, RcpT and RsqT against their formulas. -/

namespace Sys2Proof.Machine

/-- Part of expT (R80). -/
def expT0 : List Nat :=
  [0x3F800000, 0x3F8164D2, 0x3F82CD87, 0x3F843A29, 0x3F85AAC3, 0x3F871F62, 0x3F88980F, 0x3F8A14D5,
   0x3F8B95C2, 0x3F8D1ADF, 0x3F8EA43A, 0x3F9031DC, 0x3F91C3D3, 0x3F935A2B, 0x3F94F4F0, 0x3F96942D]

/-- Part of expT (R80). -/
def expT1 : List Nat :=
  [0x3F9837F0, 0x3F99E046, 0x3F9B8D3A, 0x3F9D3EDA, 0x3F9EF532, 0x3FA0B051, 0x3FA27043, 0x3FA43516,
   0x3FA5FED7, 0x3FA7CD94, 0x3FA9A15B, 0x3FAB7A3A, 0x3FAD583F, 0x3FAF3B79, 0x3FB123F6, 0x3FB311C4]

/-- Part of expT (R80). -/
def expT2 : List Nat :=
  [0x3FB504F3, 0x3FB6FD92, 0x3FB8FBAF, 0x3FBAFF5B, 0x3FBD08A4, 0x3FBF179A, 0x3FC12C4D, 0x3FC346CD,
   0x3FC5672A, 0x3FC78D75, 0x3FC9B9BE, 0x3FCBEC15, 0x3FCE248C, 0x3FD06334, 0x3FD2A81E, 0x3FD4F35B]

/-- Part of expT (R80). -/
def expT3 : List Nat :=
  [0x3FD744FD, 0x3FD99D16, 0x3FDBFBB8, 0x3FDE60F5, 0x3FE0CCDF, 0x3FE33F89, 0x3FE5B907, 0x3FE8396A,
   0x3FEAC0C7, 0x3FED4F30, 0x3FEFE4BA, 0x3FF28177, 0x3FF5257D, 0x3FF7D0DF, 0x3FFA83B3, 0x3FFD3E0C]

/-- 2^(i/64), i from 0 to 63, rounded RNE to FP32 (R80). -/
def expT (i : Nat) : Nat := (expT0 ++ expT1 ++ expT2 ++ expT3).getD i 0

/-- Part of logT (R80). -/
def logT0 : List Nat :=
  [0x00000000, 0x3CB73CB4, 0x3D35D69C, 0x3D8759C5, 0x3DB31FB8, 0x3DDE4212, 0x3E0462C4, 0x3E19574F,
   0x3E2E00D2, 0x3E42615F, 0x3E567AF1, 0x3E6A4F72, 0x3E7DE0B6, 0x3E88983F, 0x3E92203D, 0x3E9B8926]

/-- Part of logT (R80). -/
def logT1 : List Nat :=
  [0x3EA4D3C2, 0x3EAE00D2, 0x3EB7110E, 0x3EC0052B, 0x3EC8DDD4, 0x3ED19BB0, 0x3EDA3F60, 0x3EE2C97D,
   0x3EEB3A9F, 0x3EF39355, 0x3EFBD42B, 0x3F01FED4, 0x3F060828, 0x3F0A0650, 0x3F0DF989, 0x3F11E20F]

/-- Part of logT (R80). -/
def logT2 : List Nat :=
  [0x3F15C01A, 0x3F1993E3, 0x3F1D5DA0, 0x3F211D84, 0x3F24D3C2, 0x3F28808C, 0x3F2C2411, 0x3F2FBE80,
   0x3F335004, 0x3F36D8CB, 0x3F3A58FF, 0x3F3DD0C8, 0x3F41404F, 0x3F44A7BA, 0x3F480731, 0x3F4B5ED7]

/-- Part of logT (R80). -/
def logT3 : List Nat :=
  [0x3F4EAED0, 0x3F51F740, 0x3F553848, 0x3F587209, 0x3F5BA4A4, 0x3F5ED039, 0x3F61F4E5, 0x3F6512C7,
   0x3F6829FB, 0x3F6B3A9F, 0x3F6E44CD, 0x3F7148A1, 0x3F744636, 0x3F773DA4, 0x3F7A2F04, 0x3F7D1A71]

/-- log2(1 + i/64), i from 0 to 63, rounded RNE to FP32 (R80). -/
def logT (i : Nat) : Nat := (logT0 ++ logT1 ++ logT2 ++ logT3).getD i 0

/-- Part of rcpT (R80). -/
def rcpT0 : List Nat :=
  [0x3F800000, 0x3F7C0FC1, 0x3F783E10, 0x3F74898D, 0x3F70F0F1, 0x3F6D7304, 0x3F6A0EA1, 0x3F66C2B4,
   0x3F638E39, 0x3F607038, 0x3F5D67C9, 0x3F5A740E, 0x3F579436, 0x3F54C77B, 0x3F520D21, 0x3F4F6475]

/-- Part of rcpT (R80). -/
def rcpT1 : List Nat :=
  [0x3F4CCCCD, 0x3F4A4588, 0x3F47CE0C, 0x3F4565C8, 0x3F430C31, 0x3F40C0C1, 0x3F3E82FA, 0x3F3C5264,
   0x3F3A2E8C, 0x3F381703, 0x3F360B61, 0x3F340B41, 0x3F321643, 0x3F302C0B, 0x3F2E4C41, 0x3F2C7692]

/-- Part of rcpT (R80). -/
def rcpT2 : List Nat :=
  [0x3F2AAAAB, 0x3F28E83F, 0x3F272F05, 0x3F257EB5, 0x3F23D70A, 0x3F2237C3, 0x3F20A0A1, 0x3F1F1166,
   0x3F1D89D9, 0x3F1C09C1, 0x3F1A90E8, 0x3F191F1A, 0x3F17B426, 0x3F164FDA, 0x3F14F209, 0x3F139A86]

/-- Part of rcpT (R80). -/
def rcpT3 : List Nat :=
  [0x3F124925, 0x3F10FDBC, 0x3F0FB824, 0x3F0E7835, 0x3F0D3DCB, 0x3F0C08C1, 0x3F0AD8F3, 0x3F09AE41,
   0x3F088889, 0x3F0767AB, 0x3F064B8A, 0x3F053408, 0x3F042108, 0x3F03126F, 0x3F020821, 0x3F010204]

/-- 1/(1 + i/64), i from 0 to 63, rounded RNE to FP32 (R80). -/
def rcpT (i : Nat) : Nat := (rcpT0 ++ rcpT1 ++ rcpT2 ++ rcpT3).getD i 0

/-- Part of rsqT (R80). -/
def rsqT0 : List Nat :=
  [0x3F800000, 0x3F7E05EC, 0x3F7C1764, 0x3F7A33F9, 0x3F785B42, 0x3F768CDC, 0x3F74C867, 0x3F730D8A,
   0x3F715BEF, 0x3F6FB345, 0x3F6E133E, 0x3F6C7B90, 0x3F6AEBF5, 0x3F69642A, 0x3F67E3ED, 0x3F666B02]

/-- Part of rsqT (R80). -/
def rsqT1 : List Nat :=
  [0x3F64F92E, 0x3F638E39, 0x3F6229ED, 0x3F60CC16, 0x3F5F7483, 0x3F5E2305, 0x3F5CD76E, 0x3F5B9193,
   0x3F5A514A, 0x3F59166B, 0x3F57E0CF, 0x3F56B051, 0x3F5584CD, 0x3F545E22, 0x3F533C2E, 0x3F521ED0]

/-- Part of rsqT (R80). -/
def rsqT2 : List Nat :=
  [0x3F5105EC, 0x3F4FF162, 0x3F4EE116, 0x3F4DD4ED, 0x3F4CCCCD, 0x3F4BC89B, 0x3F4AC83F, 0x3F49CBA2,
   0x3F48D2AB, 0x3F47DD45, 0x3F46EB5A, 0x3F45FCD6, 0x3F4511A3, 0x3F4429AF, 0x3F4344E6, 0x3F426337]

/-- Part of rsqT (R80). -/
def rsqT3 : List Nat :=
  [0x3F41848F, 0x3F40A8DE, 0x3F3FD012, 0x3F3EFA1C, 0x3F3E26EB, 0x3F3D5671, 0x3F3C889F, 0x3F3BBD67,
   0x3F3AF4BA, 0x3F3A2E8C, 0x3F396ACE, 0x3F38A975, 0x3F37EA74, 0x3F372DBF, 0x3F36734A, 0x3F35BB09]

/-- Part of rsqT (R80). -/
def rsqT4 : List Nat :=
  [0x3F3504F3, 0x3F339F19, 0x3F32416A, 0x3F30EB96, 0x3F2F9D53, 0x3F2E565C, 0x3F2D166C, 0x3F2BDD46,
   0x3F2AAAAB, 0x3F297E62, 0x3F285835, 0x3F2737F0, 0x3F261D5F, 0x3F250855, 0x3F23F8A2, 0x3F22EE1D]

/-- Part of rsqT (R80). -/
def rsqT5 : List Nat :=
  [0x3F21E89B, 0x3F20E7F5, 0x3F1FEC04, 0x3F1EF4A4, 0x3F1E01B3, 0x3F1D130E, 0x3F1C2896, 0x3F1B422C,
   0x3F1A5FB2, 0x3F19810C, 0x3F18A61F, 0x3F17CED0, 0x3F16FB06, 0x3F162AA9, 0x3F155DA2, 0x3F1493D9]

/-- Part of rsqT (R80). -/
def rsqT6 : List Nat :=
  [0x3F13CD3A, 0x3F1309AF, 0x3F124925, 0x3F118B87, 0x3F10D0C3, 0x3F1018C6, 0x3F0F6381, 0x3F0EB0E0,
   0x3F0E00D5, 0x3F0D534F, 0x3F0CA83F, 0x3F0BFF97, 0x3F0B5948, 0x3F0AB544, 0x3F0A137D, 0x3F0973E8]

/-- Part of rsqT (R80). -/
def rsqT7 : List Nat :=
  [0x3F08D677, 0x3F083B1E, 0x3F07A1D2, 0x3F070A87, 0x3F067532, 0x3F05E1C7, 0x3F05503E, 0x3F04C08B,
   0x3F0432A5, 0x3F03A682, 0x3F031C1A, 0x3F029362, 0x3F020C52, 0x3F0186E2, 0x3F01030A, 0x3F0080C1]

/-- 1/sqrt(1 + j/64) for j below 64, 1/sqrt(2 + (j - 64)/32) from there, rounded RNE to FP32 (R80). -/
def rsqT (i : Nat) : Nat := (rsqT0 ++ rsqT1 ++ rsqT2 ++ rsqT3 ++ rsqT4 ++ rsqT5 ++ rsqT6 ++ rsqT7).getD i 0

end Sys2Proof.Machine
end

