-- ==== Sys2Proof/Syntax.lean ====
section
/-! DEFINITION. The abstract terms: the coded sub-fields of R54 and one constructor of Instr for each row of
spec/opcode_table.json, the instructions with their fields and the events of the device with what they act on. -/

set_option linter.constructorNameAsVariable false

namespace Sys2Proof

/-- Memory space, F[2:0] of the M format (R54, R145). -/
inductive Space where
  | gl | sp | wb | ab | cb | cx
deriving DecidableEq, Repr

/-- Access size, F[4:3] of the M format (R54). -/
inductive Size where
  | b8 | b16 | b32 | b64
deriving DecidableEq, Repr

/-- Scope, IMM[26:24] of the M format (R54, R258). -/
inductive Scope where
  | th | core | span | gang | dev | sys
deriving DecidableEq, Repr

/-- Operation of AMO, IMM[30:27] (R54). -/
inductive AmoOp where
  | add | and | or | xor | min | max | minu | maxu | swap
deriving DecidableEq, Repr

/-- Rounding sub-field (R54): the mode of s.rmode, or a named mode. -/
inductive Rnd where
  | mode | rne | rz | rup | rdn
deriving DecidableEq, Repr

/-- Integer condition of CMP and CMPI (R54). -/
inductive ICond where
  | eq | ne | lt | ge | ltu | geu
deriving DecidableEq, Repr

/-- Floating-point condition of FCMP and VCMP (R54). -/
inductive FCond where
  | eq | ne | lt | le | un
deriving DecidableEq, Repr

/-- Scalar format codes of R140. -/
inductive Fmt where
  | f32 | bf16 | e4m3 | e5m2 | i8 | i32
deriving DecidableEq, Repr

/-- Part of a table entry, IMM[7:6] of the K format (R50). -/
inductive Part where
  | key | mask | act
deriving DecidableEq, Repr

/-- Entry index of the K format (R50): IMM[5:0], or the register in B. -/
inductive KIdx where
  | imm (i : BitVec 6)
  | reg (b : Reg)
deriving DecidableEq, Repr

/-- Store hint of ST, IMM[28:27]; code 3 is reserved (chapter 08, ST). -/
inductive Hint where
  | normal | nt | wc
deriving DecidableEq, Repr

/-- Special registers of R101. -/
inductive SReg where
  | tid | core | span | gang | kern | step | tenant | group | sib | drawkey | clock | cause | tpc | tval | rmode
deriving DecidableEq, Repr

/-- Operation of VBITS, F[5:3] (chapter 09). -/
inductive BitOp where
  | set | add | mul | max | min
deriving DecidableEq, Repr

/-- Variants of ARDK other than .clr (R205). -/
inductive ArdkVar where
  | topk | csel | stat
deriving DecidableEq, Repr

/-- What a patrol scrub read finds (R21). -/
inductive ScrubResult where
  | clean
  | correctable
  | uncorrectable
deriving DecidableEq, Repr

/-- A counter post under way (R233) by its place in the list of posts, or one that a CXL agent makes with the tenant of its mapping
(R296). -/
inductive PostSrc where
  | underWay (k : Nat)
  | outside (tenant core idx : Nat) (inc : BitVec 32)
deriving DecidableEq, Repr

/-- One constructor for each row of spec/opcode_table.json. Rows in the table's order, but those without operands last: what
they act on stands in the state (the running thread, the list walker, the board). -/
inductive Instr where
  -- events of the device
  | patrolScrubRead (pa : Nat) (res : ScrubResult)
  | recalibration (unit : Nat)
  | powerInterval (pred : List Nat) (temps : List Nat) (watts : Nat)
  | mailboxArrival (k : Nat)
  | counterPost (src : PostSrc)
  | trapDelivery (core ctx : Nat)
  | asyncTrapTake (core ctx : Nat)
  | registerFill (core ctx n : Nat)
  | contextRelease (core ctx : Nat)
  | tableRefreshEnd (core tbl : Nat)
  | debugHalt (core ctx : Nat)
  | ringWaitStart (core ctx : Nat)
  | vectorComplete (core : Nat)
  | matrixAccept (core ctx : Nat)
  | matrixComplete (core : Nat) (epilogue : Bool)
  | brotStep (core : Nat) (latch : Bool)
  | brotTimeout (core : Nat) (latch : Bool)
  | mma2GroupOp (core : Nat)
  | mma2Timeout (core : Nat)
  | mailboxReserve (core ctx : Nat)
  | streamerRequestStart (span : Nat)
  | streamerCompletion (span k : Nat)
  | remoteRequest (port : Nat) (hdr : List Word) (data : List Byte)
  | remoteAck (port : Nat) (w0 w1 : Word)
  | flitReceive (port : Nat) (bytes : List Byte)
  | portSignalDetect (port : Nat)
  | laneAligned (port : Nat)
  | deskewTimeout (port : Nat)
  | equaliseSettled (port : Nat)
  | equaliseTimeout (port : Nat)
  | capabilityRecord (port : Nat) (w0 : Word)
  | signalLoss (port : Nat)
  | portEnWrite (port : Nat) (en : Bool)
  | portRetrain (port : Nat)
  | hostMemRead (pa : Nat) (bytes : Nat)
  | hostMemWrite (pa : Nat) (data : List Byte)
  | queueEnableWrite (q : Nat) (v : Word)
  | qprodWrite (q : Nat) (v : Word)
  | queueErrClear (q : Nat)
  | recordFetch (q : Nat)
  | recordReserving (seq : Nat)
  | gangStart (h : Nat)
  | copyRecordRun (seq : Nat)
  | gangRetire (h : Nat)
  | preemptHalt (h : Nat)
  | swapOut (h : Nat)
  | swapIn (h : Nat)
  | gangStall (h : Nat)
  | evtwaitTimeout (core ctx : Nat)
  | spanReport (span : Nat)
  | collectiveComplete (h : Nat)
  | rollback (h : Nat)
  | rollbackRestore (h : Nat)
  | cancelArrival (core : Nat)
  | drawAccept (core ctx : Nat)
  | tlbinvComplete (k : Nat)
  | pageReleaseComplete (k : Nat)
  | attcmdWrite (v : Word)
  | pcapWrite (v : Word)
  | scrWrite (v : BitVec 4)
  | rclWrite (v : BitVec 4)
  | registerWrite (off : Nat) (v : Word)
  -- chapter 05 and 06
  | next (tb : BitVec 3) (a : Reg)
  | tstart (d a : Reg) (blk : Half)
  | trap (code : Half)
  | brk (code : Half)
  | tret (skip : Bool)
  | srd (d : Reg) (n : SReg)
  | swr (n : SReg) (a : Reg)
  | gdead (half : Bool) (mask : Half)
  | tbw (tb : BitVec 3) (idx : KIdx) (part : Part) (a : Reg)
  | tbr (d : Reg) (tb : BitVec 3) (idx : KIdx) (part : Part)
  | tbcommit (d : Reg) (tb : BitVec 3)
  | tbclr (tb : BitVec 3)
  | tblook (d : Reg) (tb : BitVec 3) (a : Reg)
  | tbgen (d : Reg) (tb : BitVec 3)
  -- chapter 07
  | add (d a b : Reg)
  | addi (d a : Reg) (imm : Half)
  | sub (d a b : Reg)
  | mul (d a b : Reg)
  | mulh (d a b : Reg)
  | mulhu (d a b : Reg)
  | div (d a b : Reg)
  | divu (d a b : Reg)
  | rem (d a b : Reg)
  | remu (d a b : Reg)
  | and (d a b : Reg)
  | andi (d a : Reg) (imm : Half)
  | or (d a b : Reg)
  | ori (d a : Reg) (imm : Half)
  | xor (d a b : Reg)
  | xori (d a : Reg) (imm : Half)
  | shl (d a b : Reg)
  | shli (d a : Reg) (n : BitVec 6)
  | shr (d a b : Reg)
  | shri (d a : Reg) (n : BitVec 6)
  | sar (d a b : Reg)
  | sari (d a : Reg) (n : BitVec 6)
  | rol (d a b : Reg)
  | roli (d a : Reg) (n : BitVec 6)
  | min (d a b : Reg)
  | minu (d a b : Reg)
  | max (d a b : Reg)
  | maxu (d a b : Reg)
  | abs (d a : Reg)
  | clz (d a : Reg)
  | ctz (d a : Reg)
  | popc (d a : Reg)
  | brev (d a : Reg)
  | bswap (d a : Reg)
  | extr (d a : Reg) (sign : Bool) (pos : BitVec 6) (width : BitVec 7)
  | insr (d a b : Reg) (pos : BitVec 6) (width : BitVec 7)
  | clmul (d a b : Reg)
  | clmulh (d a b : Reg)
  | li (d : Reg) (imm : Half)
  | lih (d a : Reg) (imm : Half)
  | lea (d a b : Reg) (sh : BitVec 2) (disp : Half)
  | cmp (cond : ICond) (p : BitVec 3) (a b : Reg)
  | cmpi (cond : ICond) (p : BitVec 3) (a : Reg) (imm : Half)
  | sel (d a b : Reg) (p : BitVec 3)
  | plog (pd pa pb : BitVec 3) (table : BitVec 4)
  | pmovGet (d : Reg)
  | pmovSet (a : Reg) (mask : BitVec 8)
  | cset (c : BitVec 2) (a : Reg) (imm : Half)
  | crd (d : Reg) (c : BitVec 2)
  | cadd (d : Reg) (c : BitVec 2) (imm : Half)
  | fadd (d a b : Reg) (rm : Rnd)
  | fsub (d a b : Reg) (rm : Rnd)
  | fmul (d a b : Reg) (rm : Rnd)
  | ffma (d a b : Reg) (rm : Rnd)
  | fmin (d a b : Reg)
  | fmax (d a b : Reg)
  | fcmp (cond : FCond) (p : BitVec 3) (a b : Reg)
  | fcvt (d a : Reg) (rm : Rnd) (src dst : Fmt) (sat : Bool)
  | fclass (d a : Reg)
  | fexp2 (d a : Reg)
  | flog2 (d a : Reg)
  | frcp (d a : Reg)
  | frsq (d a : Reg)
  | fscale (d a b : Reg) (rm : Rnd)
  -- chapter 08
  | ld (d a : Reg) (sp : Space) (sz : Size) (disp : BitVec 24) (sext : Bool)
  | lda (d a : Reg) (sp : Space) (sz : Size) (disp : BitVec 24) (scope : Scope) (sext : Bool)
  | st (a b : Reg) (sp : Space) (sz : Size) (disp : BitVec 24) (hint : Hint)
  | stl (a b : Reg) (sp : Space) (sz : Size) (disp : BitVec 24) (scope : Scope)
  | take (d a : Reg) (sp : Space) (disp : BitVec 24)
  | fill (a b : Reg) (sp : Space) (disp : BitVec 24)
  | trytake (p : BitVec 3) (d a : Reg) (sp : Space) (disp : BitVec 24)
  | amo (op : AmoOp) (d a b : Reg) (sp : Space) (sz : Size) (disp : BitVec 24) (scope : Scope)
  | amocas (d a b : Reg) (sp : Space) (sz : Size) (disp : BitVec 24) (scope : Scope)
  | fence (scope : Scope) (set : BitVec 4)
  | pref (a : Reg) (disp : BitVec 24) (core : Bool)
  -- chapter 09
  | ring (h : BitVec 4) (a : Reg)
  | radv (h : BitVec 4) (n : BitVec 16) (b : Reg)
  | rrel (h : BitVec 4) (n : BitVec 16) (b : Reg)
  | rstat (d : Reg) (h : BitVec 4) (desc : Bool)
  | vadd (ho ha hb : BitVec 4) (n : BitVec 16) (b : Reg) (rm : Rnd)
  | vsub (ho ha hb : BitVec 4) (n : BitVec 16) (b : Reg) (rm : Rnd)
  | vmul (ho ha hb : BitVec 4) (n : BitVec 16) (b : Reg) (rm : Rnd)
  | vfma (ho ha hb hc : BitVec 4) (n : BitVec 16) (b : Reg) (rm : Rnd)
  | vmax (ho ha hb : BitVec 4) (n : BitVec 16) (b : Reg) (rm : Rnd)
  | vmin (ho ha hb : BitVec 4) (n : BitVec 16) (b : Reg) (rm : Rnd)
  | vexp2 (ho ha : BitVec 4) (n : BitVec 16) (b : Reg) (rm : Rnd)
  | vrcp (ho ha : BitVec 4) (n : BitVec 16) (b : Reg) (rm : Rnd)
  | vrsq (ho ha : BitVec 4) (n : BitVec 16) (b : Reg) (rm : Rnd)
  | vcvt (ho ha : BitVec 4) (n : BitVec 16) (b : Reg) (rm : Rnd)
  | vscale (ho ha : BitVec 4) (n : BitVec 16) (b : Reg) (rm : Rnd)
  | vredsum (d : Reg) (ha : BitVec 4) (n : BitVec 16) (b : Reg) (rm : Rnd)
  | vredmax (d : Reg) (ha : BitVec 4) (n : BitVec 16) (b : Reg)
  | vcmp (d : Reg) (cond : FCond) (ho ha hb : BitVec 4) (a : Reg) (n : BitVec 16) (b : Reg)
  | vsel (ho ha hb hc : BitVec 4) (n : BitVec 16) (b : Reg) (rm : Rnd)
  | vbits (op : BitOp) (ho ha hb : BitVec 4) (a : Reg) (n : BitVec 16) (b : Reg) (rm : Rnd)
  | vgath (ho ha : BitVec 4) (a : Reg) (sp : Bool) (n : BitVec 16) (b : Reg)
  | vscat (add : Bool) (ha hb : BitVec 4) (a : Reg) (sp : Bool) (n : BitVec 16) (b : Reg) (rm : Rnd)
  | vfillc (isInt : Bool) (ho : BitVec 4) (a : Reg) (n : BitVec 16) (b : Reg) (rm : Rnd)
  | viota (ho : BitVec 4) (a b : Reg) (n : BitVec 16) (rm : Rnd)
  -- chapter 10
  | mfmt (fa fb : BitVec 3) (a : Reg)
  | bload (l : Bool) (a : Reg)
  | brot (l : Bool)
  | mma (t : BitVec 2) (l : Bool) (slot : BitVec 8) (ver : BitVec 16)
  | mmas (t : BitVec 2) (l : Bool) (slot : BitVec 8) (a : Reg) (ver : BitVec 16)
  | mma2 (d : Reg) (t : BitVec 2) (l : Bool) (slot : BitVec 8) (ver : BitVec 16)
  | azero (t : BitVec 2) (ver : BitVec 16)
  | aver (d : Reg) (t : BitVec 2)
  | awaitv (t : BitVec 2) (ver : BitVec 16)
  | aepi (ty : Fmt) (sat bias : Bool) (t : BitVec 2) (slot : BitVec 8) (b : Reg) (ver : BitVec 16)
  | atopkInit (a : Reg)
  | atopkAcc (t : BitVec 2) (a b : Reg) (ver : BitVec 16)
  | acselInit (a : Reg)
  | acselAcc (t : BitVec 2) (a b : Reg) (ver : BitVec 16)
  | ardk (d a : Reg) (var : ArdkVar)
  | ardkClr (d a : Reg)
  -- chapter 11
  | xcopy (d a : Reg) (sp : BitVec 2) (tag : BitVec 16)
  | xconv (d a : Reg) (sp : BitVec 2) (tag : BitVec 16)
  | xscript (d a : Reg) (sp : BitVec 2) (tag : BitVec 16)
  | xsela (d a b : Reg) (init : Bool) (sp : BitVec 2) (tag : BitVec 16)
  | xremPut (d a : Reg) (sp : BitVec 2) (tag : BitVec 16)
  | xremAddmx (d a : Reg) (sp : BitVec 2) (tag : BitVec 16)
  | msend (d a b : Reg) (tag : BitVec 16)
  | mwait (d a : Reg)
  | mrecv (d e a : Reg)
  | cpost (a b : Reg) (imm : BitVec 16)
  | cwait (d a b : Reg) (sub : Bool)
  | crdc (d a b : Reg)
  | xdrain (d : Reg)
  -- chapter 13
  | evarr (d : Reg) (n : BitVec 4)
  | evwait (d b : Reg) (n : BitVec 4) (line : Bool)
  | evtwait (d a b : Reg) (n : BitVec 4) (line : Bool)
  | mtxlock (d : Reg) (n : BitVec 4)
  | mtxrel (n : BitVec 4)
  | evsigSig (d : Reg) (n : BitVec 4)
  | evsigCfg (a b : Reg) (n : BitVec 4)
  | gbar (d : Reg)
  | sstep (d : Reg) (replay : Bool)
  -- chapters 15, 20, 21
  | launch (d a : Reg) (nb : Bool)
  | gballot (d a : Reg) (wait : Bool)
  | gcancel (d a : Reg)
  | gstat (d a : Reg) (var : BitVec 3)
  | draw (d a b : Reg) (raw : Bool)
  | pgref (d a : Reg)
  | pgrel (d a : Reg)
  -- supervisor instructions, chapters 16, 18, 20, 24
  | tlbinvPage (a b : Reg) (post : Bool)
  | tlbinvAll (a b : Reg) (post : Bool)
  | tlbinvCode (a b : Reg) (post : Bool)
  | pgmap (d a b : Reg) (lvl : BitVec 3) (wake : Bool)
  | ctxsaveThr (d a : Reg)
  | ctxsaveGang (d a b : Reg) (post : Bool)
  | ctxloadThr (d a : Reg)
  | ctxloadGang (d a b : Reg) (post : Bool)
  | injectPsn (d a : Reg)
  | injectClr (d a : Reg)
  | injectSig (d a : Reg)
  | injectTclr (d a : Reg)
  | injectHalt (d a : Reg)
  | sretRes (d a : Reg)
  | sretSkip (d a : Reg)
  | sretUser (d a : Reg)
  | sretAbort (d a : Reg)
  | sretAbortGang (d a : Reg)
  | tensetSet (d a b : Reg)
  | tensetClr (d a : Reg)
  | locsetSet (d a b : Reg)
  | locsetInv (d a : Reg)
  -- the last event rows of the table
  | accessPerformed (core ctx k : Nat)
  | thermalLimitReached (die : Nat)
  -- rows without operands, whatever their chapter
  | resetRelease
  | fwverify
  | memtrain
  | sraminit
  | linkup
  | ready
  | powerLoss
  | supervisorNotification
  | admission
  | schedulerPreempt
  | listLaunch
  | listWaitc
  | listSkipif
  | listJump
  | listCall
  | listRet
  | listPost
  | listFence
  | listTable
  | quoteComplete
  | elogRead
  | stop
  | tyield
  | nop
  | ltrig
  | decodeFailure
  | cxlLinkDown
deriving DecidableEq, Repr

end Sys2Proof
end

