-- ==== Sys2Proof/Machine/Num.lean ====
section
/-! DEFINITION. Number formats and exact arithmetic (spec/04): exact values, Round, conversions, the transcendental
functions. Every operation computes an exact value and rounds it where the rule says so. -/

set_option linter.constructorNameAsVariable false

namespace Sys2Proof.Machine

/-- Rounding modes (R68) with the codes of s.rmode[1:0]. -/
inductive RMode where
  | rne | rz | rup | rdn
deriving DecidableEq, Repr

/-- The mode of a code of s.rmode[1:0] (R72). -/
def RMode.ofBits (c : BitVec 2) : RMode :=
  match c.toNat with
  | 0 => .rne
  | 1 => .rz
  | 2 => .rup
  | _ => .rdn

/-- An exact value: a NaN and whether delivering it sets NV (R71), an infinity, or a sign, a magnitude and a power of two. The
sign of a zero is kept. -/
inductive Num where
  | nan (nv : Bool)
  | inf (neg : Bool)
  | fin (neg : Bool) (m : Nat) (e : Int)
deriving DecidableEq, Repr

/-- A floating-point encoding (R63, R64): fraction bits, exponent of the smallest subnormal, the encoding of the largest
finite value, whether Ex all ones stands for infinity and NaN, and the canonical NaN. -/
structure FFmt where
  width : Nat
  fr    : Nat
  emin  : Int
  maxBits : Nat
  ieee  : Bool
  nan   : Nat
deriving DecidableEq, Repr

namespace FFmt
/-- FP32 (R63, R64). -/
def fp32 : FFmt := ⟨32, 23, -149, 0x7F7FFFFF, true, 0x7FC00000⟩
/-- BF16. -/
def bf16 : FFmt := ⟨16, 7, -133, 0x7F7F, true, 0x7FC0⟩
/-- E4M3. -/
def e4m3 : FFmt := ⟨8, 3, -9, 0x7E, false, 0x7F⟩
/-- E5M2. -/
def e5m2 : FFmt := ⟨8, 2, -16, 0x7B, true, 0x7E⟩
end FFmt

/-- Exponent arithmetic: 2^n for an integer that is not negative, else 1. -/
def pow2 (n : Int) : Nat := 2 ^ n.toNat

namespace Num

/-- Positive zero. -/
def zero : Num := .fin false 0 0

/-- An integer. -/
def ofInt (i : Int) : Num := .fin (decide (i < 0)) i.natAbs 0

/-- The exact value of an encoding (R63, R64). A NaN of FP32 or BF16 whose top fraction bit is 0 is signalling (R71). -/
def ofBits (f : FFmt) (x : Nat) : Num :=
  let neg := x / 2 ^ (f.width - 1) % 2 == 1
  let mag := x % 2 ^ (f.width - 1)
  let ex := mag / 2 ^ f.fr
  let fr := mag % 2 ^ f.fr
  if mag > f.maxBits then
    if f.ieee && mag == f.maxBits + 1 then .inf neg
    else .nan (f.width ≥ 16 && fr / 2 ^ (f.fr - 1) == 0)
  else if ex = 0 then .fin neg fr f.emin
  else .fin neg (2 ^ f.fr + fr) (f.emin + ex - 1)

/-- The value with its sign changed. -/
def negate : Num → Num
  | .nan s => .nan s
  | .inf n => .inf (!n)
  | .fin n m e => .fin (!n) m e

/-- The value times a power of two. -/
def scale (k : Int) : Num → Num
  | .nan s => .nan s
  | .inf n => .inf n
  | .fin n m e => .fin n m (e + k)

/-- The exact product; 0 times infinity is invalid (R71). -/
def mul : Num → Num → Num
  | .nan s, .nan t => .nan (s || t)
  | .nan s, _ => .nan s
  | _, .nan t => .nan t
  | .inf n, .inf k => .inf (n != k)
  | .inf n, .fin k m _ => if m = 0 then .nan true else .inf (n != k)
  | .fin n m _, .inf k => if m = 0 then .nan true else .inf (n != k)
  | .fin n m e, .fin k m' e' => .fin (n != k) (m * m') (e + e')

/-- A magnitude as a multiple of 2^lo. -/
def scaled (m : Nat) (e lo : Int) : Nat := m * pow2 (e - lo)

/-- The exact sum; the sign of an exact zero sum of opposite signs is minus under RDN only (R68 step 5). -/
def add (mode : RMode) : Num → Num → Num
  | .nan s, .nan t => .nan (s || t)
  | .nan s, _ => .nan s
  | _, .nan t => .nan t
  | .inf n, .inf k => if n = k then .inf n else .nan true
  | .inf n, .fin _ _ _ => .inf n
  | .fin _ _ _, .inf k => .inf k
  | .fin n m e, .fin k m' e' =>
    let lo := if e ≤ e' then e else e'
    let x := scaled m e lo
    let y := scaled m' e' lo
    if n = k then .fin n (x + y) lo
    else if x = y then .fin (decide (mode = .rdn)) 0 0
    else if x > y then .fin n (x - y) lo
    else .fin k (y - x) lo

/-- Order of values that are not NaN, with minus zero equal to plus zero. -/
def lt : Num → Num → Bool
  | .nan _, _ => false
  | _, .nan _ => false
  | .inf n, .inf k => n && !k
  | .inf n, .fin _ _ _ => n
  | .fin _ _ _, .inf k => !k
  | .fin n m e, .fin k m' e' =>
    let lo := if e ≤ e' then e else e'
    let x : Int := if n then -(scaled m e lo : Int) else scaled m e lo
    let y : Int := if k then -(scaled m' e' lo : Int) else scaled m' e' lo
    decide (x < y)

/-- A NaN. -/
def isNan : Num → Bool
  | .nan _ => true
  | _ => false

/-- A NaN whose delivery sets NV: a signalling input (R71). -/
def isSig : Num → Bool
  | .nan s => s
  | _ => false

/-- Neither NaN nor infinite. -/
def isFin : Num → Bool
  | .fin _ _ _ => true
  | _ => false

/-- A zero of either sign. -/
def isZero : Num → Bool
  | .fin _ m _ => m == 0
  | _ => false

/-- The sign. -/
def neg : Num → Bool
  | .nan _ => false
  | .inf n => n
  | .fin n _ _ => n

/-- Equality of values that are not NaN, with minus zero equal to plus zero. -/
def eq (a b : Num) : Bool := !a.isNan && !b.isNan && !lt a b && !lt b a

/-- Floor(Log2 |v|) of a finite value that is not zero. -/
def exponent : Num → Int
  | .fin _ m e => e + (Nat.log2 m : Int)
  | _ => 0

end Num

/-- Whether a magnitude that lies between q and q + 1 quanta is rounded up (R68 step 2): the quotient's parity, the remainder
as against half a quantum, and the step 3 tie at the largest finite value. -/
def roundsUp (mode : RMode) (neg odd : Bool) (rem unit : Nat) (top : Bool) : Bool :=
  match mode with
  | .rne => decide (2 * rem > unit) || (decide (2 * rem = unit) && (odd || top))
  | .rz => false
  | .rup => decide (rem ≠ 0) && !neg
  | .rdn => decide (rem ≠ 0) && neg

/-- A finite magnitude m · 2^e in units of 2^q, and whether it is inexact; top tells the quotient at which a tie goes away from
zero. -/
def quantise (mode : RMode) (neg : Bool) (m : Nat) (e q : Int) (top : Nat → Bool) : Nat × Bool :=
  if q ≤ e then (m * pow2 (e - q), false)
  else
    let unit := pow2 (q - e)
    let quo := m / unit
    let rem := m % unit
    (if roundsUp mode neg (quo % 2 == 1) rem unit (top quo) then quo + 1 else quo, decide (rem ≠ 0))

/-- The encoding of a magnitude of k quanta of 2^q: the exponent field counts from the smallest subnormal. -/
def magBits (f : FFmt) (k : Nat) (q : Int) : Nat := k + (q - f.emin).toNat * 2 ^ f.fr

/-- The quantum of a magnitude in a format whose exponent is not bounded above (R68 step 2). -/
def quantum (f : FFmt) (m : Nat) (e : Int) : Int :=
  let q := e + (Nat.log2 m : Int) - f.fr
  if q ≤ f.emin then f.emin else q

/-- Tininess after rounding: the value rounded with the exponent unbounded below is less than the smallest normal (R70). -/
def isTiny (f : FFmt) (mode : RMode) (neg : Bool) (m : Nat) (e : Int) : Bool :=
  let q := e + (Nat.log2 m : Int) - f.fr
  let k := (quantise mode neg m e q (fun _ => false)).1
  decide (q + (Nat.log2 k : Int) < f.emin + f.fr)

/-- The sign bit of an encoding. -/
def signBit (f : FFmt) (neg : Bool) : Nat := if neg then 2 ^ (f.width - 1) else 0

/-- An overflowed value: its encoding (R69). -/
def overflowBits (f : FFmt) (sat : Bool) (mode : RMode) (neg : Bool) : Nat :=
  let away := if f.ieee then signBit f neg + f.maxBits + 1 else f.nan
  let max := signBit f neg + f.maxBits
  if sat then max
  else match mode with
    | .rne => away
    | .rz => max
    | .rup => if neg then max else away
    | .rdn => if neg then away else max

/-- Round (R68 to R71) into a floating-point format, saturating or not. -/
def roundF (f : FFmt) (sat : Bool) (mode : RMode) : Num → Nat × Flags
  | .nan s => (f.nan, Flags.when s .nv)
  | .inf n =>
    if sat then (signBit f n + f.maxBits, .of ||| .nx)
    else if f.ieee then (signBit f n + f.maxBits + 1, .none)
    else (f.nan, .nv)
  | .fin n m e =>
    if m = 0 then (signBit f n, .none)
    else
      let q := quantum f m e
      let r := quantise mode n m e q (fun k => magBits f k q == f.maxBits)
      if magBits f r.1 q > f.maxBits then (overflowBits f sat mode n, .of ||| .nx)
      else (signBit f n + magBits f r.1 q, Flags.when r.2 .nx ||| Flags.when (r.2 && isTiny f mode n m e) .uf)

/-- Round to an integer between -lo and hi, which saturates (R69, R73). With top the tie of R68 step 3 is taken at each sign's
extreme, as R74 does for a mantissa; an INT8 or INT32 target is rounded to an integer and then saturated (R73, R141; log 32). -/
def roundI (top : Bool) (lo hi : Nat) (mode : RMode) : Num → Int × Flags
  | .nan _ => (0, .nv)
  | .inf n => (if n then -(lo : Int) else hi, .nv)
  | .fin n m e =>
    let lim := if n then lo else hi
    let r := quantise mode n m e 0 (fun k => top && k == lim)
    let sg (k : Nat) : Int := if n then -(k : Int) else k
    if r.1 > lim then (sg lim, .sat ||| .nx) else (sg r.1, Flags.when r.2 .nx)

/-- RoundInt under RNE of a finite value, unbounded (R74, R82). -/
def roundInt : Num → Int
  | .fin n m e =>
    let k := (quantise .rne n m e 0 (fun _ => false)).1
    if n then -(k : Int) else k
  | _ => 0

/-! ## Scalar formats (R140) -/

/-- Bytes of an element. -/
def fmtBytes : Fmt → Nat
  | .f32 => 4
  | .bf16 => 2
  | .e4m3 => 1
  | .e5m2 => 1
  | .i8 => 1
  | .i32 => 4

/-- An integer format. -/
def fmtIsInt : Fmt → Bool
  | .i8 => true
  | .i32 => true
  | .f32 => false
  | .bf16 => false
  | .e4m3 => false
  | .e5m2 => false

/-- The signed value of the low n bits. -/
def signedNat (n x : Nat) : Int :=
  let y := x % 2 ^ n
  if y < 2 ^ (n - 1) then y else (y : Int) - (2 ^ n : Nat)

/-- The exact value of an element's bits (R63). -/
def fmtValue (t : Fmt) (x : Nat) : Num :=
  match t with
  | .f32 => Num.ofBits .fp32 (x % 2 ^ 32)
  | .bf16 => Num.ofBits .bf16 (x % 2 ^ 16)
  | .e4m3 => Num.ofBits .e4m3 (x % 2 ^ 8)
  | .e5m2 => Num.ofBits .e5m2 (x % 2 ^ 8)
  | .i8 => Num.ofInt (signedNat 8 x)
  | .i32 => Num.ofInt (signedNat 32 x)

/-- The low n bits of an integer in two's complement. -/
def twos (n : Nat) (i : Int) : Nat := (i % (2 ^ n : Nat)).toNat

/-- Round (R68, R69, R73) into an element type; sat selects the saturating rule of an FP8 target. -/
def fmtRound (t : Fmt) (sat : Bool) (mode : RMode) (v : Num) : Nat × Flags :=
  match t with
  | .f32 => roundF .fp32 false mode v
  | .bf16 => roundF .bf16 false mode v
  | .e4m3 => roundF .e4m3 sat mode v
  | .e5m2 => roundF .e5m2 sat mode v
  | .i8 => let r := roundI false 128 127 mode v; (twos 8 r.1, r.2)
  | .i32 => let r := roundI false (2 ^ 31) (2 ^ 31 - 1) mode v; (twos 32 r.1, r.2)

/-! ## FP32 arithmetic (R79, R137, R138, R139, R142, R144) -/

/-- The value of an FP32 encoding. -/
def f32 (x : Nat) : Num := Num.ofBits .fp32 x

/-- Round to FP32. -/
def toF32 (mode : RMode) (v : Num) : Nat × Flags := roundF .fp32 false mode v

/-- FADD of encodings. -/
def fpAdd (mode : RMode) (a b : Nat) : Nat × Flags := toF32 mode ((f32 a).add mode (f32 b))

/-- FSUB of encodings. -/
def fpSub (mode : RMode) (a b : Nat) : Nat × Flags := toF32 mode ((f32 a).add mode (f32 b).negate)

/-- FMUL of encodings. -/
def fpMul (mode : RMode) (a b : Nat) : Nat × Flags := toF32 mode ((f32 a).mul (f32 b))

/-- FFMA of encodings: a · b + c rounded once. -/
def fpFma (mode : RMode) (a b c : Nat) : Nat × Flags := toF32 mode (((f32 a).mul (f32 b)).add mode (f32 c))

/-- Whether the first is picked of two values that are not NaN; minus zero is ordered below plus zero (R138). -/
def picksFirst (max : Bool) (a b : Num) : Bool :=
  let less (x y : Num) : Bool := x.lt y || (x.isZero && y.isZero && x.neg && !y.neg)
  if max then !less a b else !less b a

/-- The smaller or the larger of two exact values (R138, R175). -/
def numMinMax (max : Bool) (a b : Num) : Num :=
  if a.isNan || b.isNan then .nan (a.isSig || b.isSig) else if picksFirst max a b then a else b

/-- FMIN and FMAX of encodings (R138). -/
def fpMinMax (max : Bool) (a b : Nat) : Nat × Flags :=
  let x := f32 a
  let y := f32 b
  if x.isNan || y.isNan then (0x7FC00000, Flags.when (x.isSig || y.isSig) .nv)
  else (if picksFirst max x y then a else b, .none)

/-- Conditions of R139 on values, with the flags. -/
def fpCond (c : FCond) (a b : Num) : Bool × Flags :=
  let un := a.isNan || b.isNan
  let sig := Flags.when (a.isSig || b.isSig) .nv
  match c with
  | .eq => (a.eq b, sig)
  | .ne => (!(a.eq b), sig)
  | .lt => (a.lt b, Flags.when un .nv)
  | .le => (!un && !(b.lt a), Flags.when un .nv)
  | .un => (un, sig)

/-- The class bit of an FP32 encoding (R142). -/
def fpClass (x : Nat) : Nat :=
  match f32 x with
  | .nan s => if s then 8 else 9
  | .inf n => if n then 0 else 7
  | .fin n m _ =>
    if m = 0 then (if n then 3 else 4)
    else if m < 2 ^ 23 then (if n then 2 else 5)
    else (if n then 1 else 6)

/-- FSCALE (R144): any n beyond ±400 gives the same result as ±400. -/
def fpScale (mode : RMode) (a : Nat) (n : Int) : Nat × Flags :=
  match f32 a with
  | .nan s => (0x7FC00000, Flags.when s .nv)
  | .inf _ => (a, .none)
  | .fin g m e =>
    if m = 0 then (a, .none)
    else
      let k : Int := if n > 400 then 400 else if n < -400 then -400 else n
      toF32 mode (.fin g m (e + k))

/-- FCVT (R141, R73): the bits written to D[31:0], as each target's column says. -/
def fpCvt (src dst : Fmt) (sat : Bool) (mode : RMode) (x : Nat) : Nat × Flags := fmtRound dst sat mode (fmtValue src x)

/-! ## Transcendental functions (R80 to R86) -/

/-- An FP32 operation inside an algorithm: RNE, no flags (R81). -/
def qFma (a b c : Nat) : Nat := (fpFma .rne a b c).1

/-- FMUL inside an algorithm (R81). -/
def qMul (a b : Nat) : Nat := (fpMul .rne a b).1

/-- FADD inside an algorithm (R81). -/
def qAdd (a b : Nat) : Nat := (fpAdd .rne a b).1

/-- The FP32 encoding with its sign changed. -/
def negBits (a : Nat) : Nat := if a < 2 ^ 31 then a + 2 ^ 31 else a - 2 ^ 31

/-- Scale(y, n) (R81). -/
def scaleF (y : Nat) (n : Int) : Nat × Flags := toF32 .rne ((f32 y).scale n)

/-- m(a) as an FP32 encoding in [1, 2) (R81). -/
def mantBits (v : Num) : Nat :=
  match v with
  | .fin _ m _ => 0x3F800000 + (m * 2 ^ 23 / 2 ^ Nat.log2 m) % 2 ^ 23
  | _ => 0

/-- Idx(a) (R81). -/
def idxOf (v : Num) : Nat := mantBits v / 2 ^ 17 % 64

/-- FEXP2 (R82). -/
def fpExp2 (x : Nat) : Nat × Flags :=
  match f32 x with
  | .nan s => (0x7FC00000, Flags.when s .nv)
  | .inf n => (if n then 0 else 0x7F800000, .none)
  | .fin n m e =>
    let v := Num.fin n m e
    if !v.lt (.ofInt 128) then (0x7F800000, .of ||| .nx)
    else if !(Num.ofInt (-160)).lt v then (0, .uf ||| .nx)
    else
      let k := roundInt (v.scale 6)
      let i := (k % 64).toNat
      let nn := k / 64
      let r := (toF32 .rne (v.add .rne ((Num.ofInt (-k)).scale (-6)))).1
      let t := qFma 0x3D635847 r 0x3E75FDF0
      let t := qFma t r 0x3F317218
      let t := qMul t r
      scaleF (qFma (expT i) t (expT i)) nn

/-- FLOG2 (R83). -/
def fpLog2 (x : Nat) : Nat × Flags :=
  match f32 x with
  | .nan s => (0x7FC00000, Flags.when s .nv)
  | .inf n => if n then (0x7FC00000, .nv) else (0x7F800000, .none)
  | .fin g m e =>
    if m = 0 then (0xFF800000, .dz)
    else if g then (0x7FC00000, .nv)
    else
      let v := Num.fin g m e
      let i := idxOf v
      let u := qFma (mantBits v) (rcpT i) 0xBF800000
      let t := qFma 0x3EF6384F u 0xBF38AA3B
      let t := qFma t u 0x3FB8AA3B
      let y := qAdd (logT i) (qMul t u)
      let n := (toF32 .rne (.ofInt v.exponent)).1
      -- the result is log2 x exactly only at a power of two; elsewhere it is not exact (R83, R70)
      (qAdd n y, Flags.when (decide (mantBits v ≠ 0x3F800000)) .nx)

/-- One Newton pass of R84. -/
def rcpPass (mm y : Nat) : Nat := qFma y (qFma (negBits mm) y 0x3F800000) y

/-- FRCP (R84). -/
def fpRcp (x : Nat) : Nat × Flags :=
  match f32 x with
  | .nan s => (0x7FC00000, Flags.when s .nv)
  | .inf n => (if n then 0x80000000 else 0, .none)
  | .fin g m e =>
    if m = 0 then (if g then 0xFF800000 else 0x7F800000, .dz)
    else
      let v := Num.fin g m e
      let mm := mantBits v
      let r := scaleF (rcpPass mm (rcpPass mm (rcpT (idxOf v)))) (-v.exponent)
      (if g then r.1 + 2 ^ 31 else r.1, r.2)

/-- One pass of R85. -/
def rsqPass (mm y : Nat) : Nat :=
  let d := qFma (negBits mm) (qMul y y) 0x3F800000
  qFma (qMul y 0x3F000000) d y

/-- FRSQ (R85). -/
def fpRsq (x : Nat) : Nat × Flags :=
  match f32 x with
  | .nan s => (0x7FC00000, Flags.when s .nv)
  | .inf n => if n then (0x7FC00000, .nv) else (0, .none)
  | .fin g m e =>
    if m = 0 then (if g then 0xFF800000 else 0x7F800000, .dz)
    else if g then (0x7FC00000, .nv)
    else
      let v := Num.fin g m e
      let n := v.exponent
      let odd := n % 2 == 1
      let mm := if odd then mantBits v + 2 ^ 23 else mantBits v
      let n := if odd then n - 1 else n
      let j := if odd then 64 + idxOf v else idxOf v
      scaleF (rsqPass mm (rsqPass mm (rsqT j))) (-(n / 2))

end Sys2Proof.Machine
end

