-- ==== Sys2Proof/Config.lean ====
section
/-! DEFINITION. What an implementation fixes and the values the manual leaves open. A free value is an opaque constant:
nothing can be proved of it but its type, so a claim holds whatever it is. -/

namespace Sys2Proof.Config

/-- The free values (log 11): applied to the counter State.fresh, which the step reads and advances. -/
opaque freeWord : Nat → Word

/-- How far the count that a core reads as s.clock stands behind the device's count, at most 16 cycles (R101, log 4). -/
opaque clockSkew : Nat → Fin 17

/-- The SM2 signature (r, s) of a digest made with the device key, which never leaves the module (R387, log 7). -/
opaque sm2Sign : List Byte → BitVec 256 × BitVec 256

/-- The payload of a credit flit that a port sends, whose form R372 does not give (log 34). -/
opaque creditPayload : Nat → List Byte

/-- What the payload of a credit flit says: how many of the oldest flits not yet accepted it accepts, and whether it asks for a
retry from the first not accepted (R372, log 34). -/
opaque creditMeaning : List Byte → Nat × Bool

/-- The end of HBM: 768 GB, decimal (R1 and "Numbers, bits and units"). -/
def hbmEnd : Nat := 768000000000

/-- Second tier, 1.5 TiB (R156). -/
def tier2Base : Nat := 0x020000000000

/-- First address past the second tier (R156). -/
def tier2End : Nat := 0x038000000000

/-- Counter window, 32 MiB (R156, R161). -/
def cwinBase : Nat := 0x040000000000

/-- First address past the counter window (R156). -/
def cwinEnd : Nat := 0x040002000000

/-- Host memory over CXL.cache (R383). -/
def hostBase : Nat := 0x080000000000

/-- First address past host memory (R383). -/
def hostEnd : Nat := 0x100000000000

/-- WBUF, ABUF, CBUF, scratchpad and context space sizes (R145). -/
def wbSize : Nat := 40960
/-- ABUF size (R145). -/
def abSize : Nat := 20480
/-- CBUF size (R145). -/
def cbSize : Nat := 16384
/-- Scratchpad size (R145). -/
def spSize : Nat := 1835008
/-- Context space size (R145). -/
def cxSize : Nat := 65536

/-- Where the body of the firmware image stands in HBM (R92). -/
def fwBase : Nat := 0x1000

end Sys2Proof.Config
end

