-- ==== Sys2Proof/Machine/SMap.lean ====
section
/-! DEFINITION. Finite maps as plain data: lists of (key, value) pairs sorted by key. A map with a default value lists no
entry equal to the default, so that equal maps are equal lists. -/

namespace Sys2Proof.Machine

/-- A map from numbers, as a list sorted by key. -/
abbrev SMap (α : Type) := List (Nat × α)

namespace SMap

/-- The value at a key, or the default d. -/
def get {α : Type} (d : α) : SMap α → Nat → α
  | [], _ => d
  | (k, v) :: r, i => if k = i then v else get d r i

/-- The value at a key, if one is listed. -/
def find? {α : Type} : SMap α → Nat → Option α
  | [], _ => none
  | (k, v) :: r, i => if k = i then some v else find? r i

/-- The map without its entries at a key. -/
def erase {α : Type} : SMap α → Nat → SMap α
  | [], _ => []
  | (k, v) :: r, i => if k = i then erase r i else (k, v) :: erase r i

/-- The map with an entry put in before the first greater key. -/
def insert {α : Type} : SMap α → Nat → α → SMap α
  | [], i, a => [(i, a)]
  | (k, v) :: r, i, a => if i < k then (i, a) :: (k, v) :: r else (k, v) :: insert r i a

/-- The map with the value at a key replaced. -/
def put {α : Type} (m : SMap α) (i : Nat) (a : α) : SMap α := insert (erase m i) i a

/-- The map with the value at a key replaced, listing nothing where the value is the default d. -/
def set {α : Type} [DecidableEq α] (d : α) (m : SMap α) (i : Nat) (a : α) : SMap α :=
  if a = d then erase m i else put m i a

/-- Every key of a list is above a bound, rising strictly, and no value is the default. -/
def wfAbove {α : Type} [DecidableEq α] (d : α) : Nat → SMap α → Bool
  | _, [] => true
  | lo, (k, v) :: r => decide (lo ≤ k) && decide (v ≠ d) && wfAbove d (k + 1) r

/-- The canonical form: keys strictly rising, no entry equal to the default. -/
def wf {α : Type} [DecidableEq α] (d : α) (m : SMap α) : Bool := wfAbove d 0 m

/-- Every value changed by a function of its key. -/
def mapVals {α β : Type} (f : Nat → α → β) : SMap α → SMap β
  | [] => []
  | (k, v) :: r => (k, f k v) :: mapVals f r

end SMap

end Sys2Proof.Machine
end

