-- ==== Sys2Proof/Machine/State.lean ====
section
/-! DEFINITION. The state of the whole device as plain data, the reasons a step can stop, and the state after reset. -/

set_option linter.constructorNameAsVariable false

namespace Sys2Proof.Machine

/-- Why the machine stops. None of the traps of R314 is here: a trap is a next state. -/
inductive Fault where
  /-- Raised by step when the device has no power or stands in FAIL and a thread is asked to issue: nothing runs (R385,
  R390). Safe: the manual says nothing runs. -/
  | nothingRuns
deriving DecidableEq, Repr

/-- Why a step is refused. -/
inductive Refusal where
  /-- The arm of an instruction that has no meaning yet. Safe. -/
  | notModelled (mnemonic : String)
deriving DecidableEq, Repr

/-- A register value with its poison bit (R93). -/
structure Val where
  v : Word
  p : Bool
deriving DecidableEq, Repr

/-- Zero with poison clear. -/
def Val.zero : Val := ⟨0, false⟩

/-- Context states with the codes of R87. -/
inductive TStat where
  | free | ready | issued | parked | trapped | halted | done
deriving DecidableEq, Repr

/-- Whose team a context or a table is assigned to (R90, R92, R102). -/
inductive Owner where
  | none
  | sup
  | gang (h : Nat)
deriving DecidableEq, Repr

/-- One memory: bytes (unlisted bytes read 0, log 1) and the poison bit of each 8-byte word (R158). -/
structure Memory where
  bytes : SMap Byte
  psn   : SMap Bool
deriving DecidableEq, Repr

/-- An empty memory. -/
def Memory.empty : Memory := ⟨[], []⟩

/-- What an outstanding access does when it is performed (R257). -/
inductive AccKind where
  | load (sext : Bool)
  | store
  | amo (op : AmoOp)
  | cas
deriving DecidableEq, Repr

/-- An access that a thread has issued and the memory has not performed (R256 to R265; log 5). -/
structure Access where
  kind  : AccKind
  /-- space, and the core or span number it belongs to (0 for global) -/
  space : Space
  place : Nat
  /-- physical address for global memory, byte offset otherwise -/
  addr  : Nat
  bytes : Nat
  /-- base and size of the page whose translation a global access used (R339) -/
  page  : Nat × Nat
  /-- destination of a load or atomic, and whether q still takes its result -/
  dest  : Reg
  toQ   : Bool
  /-- data of a store, operand of an atomic -/
  data  : Val
  /-- expected value of AMOCAS -/
  cmp   : Word
  acq   : Bool
  rel   : Bool
  /-- the scope of an acquire or a release (R258) -/
  scope : Scope
  /-- the scope within which the access counts as made before every later one of its thread: an agent that the scope covers and
  that meets its bytes has it performed first (R259, R265, R267, log 5) -/
  guard : Option Scope
  /-- the result is written with poison (R320, R321) -/
  taint : Bool
deriving DecidableEq, Repr

/-- What an ISSUED thread that has not retired is held by. -/
inductive Stall where
  /-- an outstanding load of a register the instruction names (R262 rows 4 to 6) -/
  | register
  /-- earlier accesses that a fence or a release waits for (R167, R267) -/
  | order
  /-- a refresh or clear of a table (R112) -/
  | table
  /-- a version, or a ring transfer that fixes a latch tag, before acceptance (R181, R184); AWAITV -/
  | version
  /-- a fifth array-path instruction (R180) -/
  | limit
  /-- completion of the thread's own accepted epilogue instruction (R182) -/
  | epilogue
  /-- an accepted BROT that waits for its ring (R187), or MMA2 for its group (R189) -/
  | partner
  /-- a mailbox entry for a kick (R209) -/
  | mailroom
  /-- the answer of an MSEND (R230) -/
  | answer
  /-- RING: started instructions that name the handle (chapter 09) -/
  | ring
  /-- a running vector instruction (R174) -/
  | vector
  /-- a seventeenth invalidation (R339) -/
  | inval
  /-- a register that the register cache does not hold (R95) -/
  | miss
  /-- the fetch of the next word, with no instruction left to retire (R87, R88) -/
  | fetch
deriving DecidableEq, Repr

/-- What a thread waits for, with the operands it read at issue (R7, R87). -/
inductive Wait where
  | none
  | stall (why : Stall)
  | mailbox (d : Reg) (tag mask : Nat)
  | counter (d : Reg) (idx : Nat) (tg : Half) (sub : Bool)
  | bar (d : Reg) (n p : Nat) (deadline : Option Nat)
  | line (d : Reg) (n : Nat) (t : Half) (deadline : Option Nat)
  | mutex (d : Reg) (n : Nat)
  | collective (d : Reg) (want : Option Bool)
  /-- GBALLOT.wait, and whether its vote was counted (R351, R362) -/
  | ballot (d : Reg) (counted : Bool)
  | ring
  | take (d : Reg) (addr : Nat)
  | fill (addr : Nat) (v : Val)
  | draw
  /-- XDRAIN, in ISSUED, until the thread's kicks have posted; the count at issue (R235) -/
  | drain (d : Reg) (n : Nat)
deriving DecidableEq, Repr

/-- A context (R87, R93, R97). -/
structure Thread where
  stat    : TStat
  owner   : Owner
  priv    : Bool
  /-- q, o0 to o7 and g0 to g53 by operand code; an unlisted register is 0 with poison clear -/
  regs    : SMap Val
  preds   : BitVec 8
  c0      : Half
  c1      : Half
  c2      : Half
  c3      : Half
  /-- thread poison flag (R94) -/
  tp      : Bool
  /-- in the user trap block (R114) -/
  ih      : Bool
  /-- tainted by a successor-class failure (R321) -/
  tnt     : Bool
  pcBlk   : Half
  pcOff   : Nat
  cause   : BitVec 8
  tpc     : Word
  tval    : Word
  rmode   : Word
  drawkey : Word
  /-- cycle of the device at which the thread last entered READY, from which its age counts (R100), retired an instruction and waits for
  its next word, raised a trap that is not delivered yet, or began to wait for a table (R17, R112) -/
  age     : Nat
  /-- header words of the block, as read on entry (R61) -/
  hdr0    : Word
  hdr1    : Word
  /-- the header words are those of the block the thread stands in; false after a resumption or a fault on entry, until the
  next issue reads them (R61, R331) -/
  loaded  : Bool
  /-- the successor mask of a NEXT whose entry has not read its header yet (R321) -/
  entering : Option (BitVec 16)
  /-- the next instruction word of a READY or PARKED thread, as it was fetched (R62, R87); none where that fetch faulted -/
  code    : Option Word
  /-- the instruction register of an ISSUED or PARKED thread -/
  word    : Word
  held    : Option Instr
  wait    : Wait
  /-- signature checker (R319): the running hash, whether it is unbroken, a forced mismatch, the registers written -/
  hash    : Half
  hashOk  : Bool
  forceMis : Bool
  written : Word
  /-- where the thread halted, if it may continue there with its hash (R319) -/
  haltAt  : Option (Half × Nat)
  /-- accesses issued and not performed, oldest first (log 5) -/
  out     : List Access
  /-- a pending asynchronous trap: cause and s.tval (R316) -/
  async   : Option (BitVec 8 × Word)
  /-- a halt requested by INJECT.halt (R330) -/
  haltReq : Bool
  /-- LTRIG done (R284), or done inside a replayable superstep (R291) -/
  trig    : Bool
  trigHeld : Bool
  /-- tickets of kicks that have not posted their completion (R235) -/
  kicks   : List Half
  /-- the superstep in which the context was started, for rollback (R326) -/
  born    : Nat
deriving DecidableEq, Repr

/-- A FREE context that nothing claims. -/
def Thread.free : Thread :=
  { stat := .free, owner := .none, priv := false, regs := [], preds := 0, c0 := 0, c1 := 0, c2 := 0, c3 := 0,
    tp := false, ih := false, tnt := false, pcBlk := 0, pcOff := 0, cause := 0, tpc := 0, tval := 0, rmode := 0,
    drawkey := 0, age := 0, hdr0 := 0, hdr1 := 0, loaded := false, entering := none, code := none, word := 0, held := none, wait := .none, hash := 0x2545F491#32,
    hashOk := true, forceMis := false, written := 0, haltAt := none, out := [], async := none, haltReq := false,
    trig := false, trigHeld := false, kicks := [], born := 0 }

/-- A table entry: key value, mask and action (R105). -/
structure TEntry where
  key  : Word
  mask : Word
  act  : Word
deriving DecidableEq, Repr

/-- The never-matching entry (R103). -/
def TEntry.never : TEntry := ⟨0x8000000000000000#64, 0x8000000000000000#64, 0⟩

/-- A physical match table (R103): unlisted entries are never-matching; busy until a refresh or clear ends (R112). -/
structure Table where
  owner  : Owner
  active : SMap TEntry
  shadow : SMap TEntry
  gen    : Half
  /-- the cycle at which a refresh or clear in progress ends, and whether it is a refresh -/
  busy   : Option (Nat × Bool)
deriving DecidableEq, Repr

/-- An unassigned table. -/
def Table.free : Table := ⟨.none, [], [], 0, none⟩

/-- A ring handle: descriptor and pointers (R169). -/
structure Ring where
  desc : Word
  p    : Half
  c    : Half
deriving DecidableEq, Repr

/-- A vector instruction that has started: its instruction and its operands (R171, R174). -/
structure VecJob where
  ctx  : Nat
  ins  : Instr
  n    : Nat
  /-- the scalar operands A and B as read at issue -/
  a    : Val
  b    : Val
  /-- the handles named, as they stood at the start, by number -/
  rings : SMap Ring
deriving DecidableEq, Repr

/-- A B latch: its image bytes with poison, and its format tag, 0 BF16 and 1 to 7 BFP2 to BFP8 (R179, R196). -/
structure Latch where
  img : Memory
  tag : BitVec 3
deriving DecidableEq, Repr

/-- An accepted matrix instruction with its operands (R180). -/
inductive MatOp where
  | mfmt (fa fb : BitVec 3) (scale : Half)
  | bload (l : Bool) (ba : Nat)
  | brot (l : Bool)
  | mma (t : Nat) (l : Bool) (slot : Nat) (ver : BitVec 16)
  | mmas (t : Nat) (l : Bool) (slot : Nat) (ofs : Nat) (ver : BitVec 16)
  | mma2 (d : Reg) (t : Nat) (l : Bool) (slot : Nat) (ver : BitVec 16)
  | azero (t : Nat) (ver : BitVec 16)
  | aepi (ty : Fmt) (sat : Bool) (bias : Option Nat) (t slot : Nat) (scale : Half)
  | atopkInit (cfg : Word)
  | atopkAcc (t base : Nat) (dead : Half)
  | acselInit (cfg : Word)
  | acselAcc (t base : Nat) (dead : Half)
  | ardk (d : Reg) (var : ArdkVar) (rank row : Nat)
  | ardkClr (d : Reg) (mask : Word)
deriving DecidableEq, Repr

/-- An entry of the matrix sequence: the accepting context, the operation, the gang's count of cycles without a HALTED
thread when it was accepted (R187, R189), and whether the thread that accepted it has left its context (R91, R324). -/
structure MatJob where
  ctx : Nat
  op  : MatOp
  at_ : Nat
  gone : Bool
deriving DecidableEq, Repr

/-- A top-k or select entry (R193). -/
structure SelEntry where
  val : Half
  idx : Nat
  psn : Bool
deriving DecidableEq, Repr

/-- The empty entry: index 0xFFFF, value minus infinity (R179). -/
def SelEntry.empty : SelEntry := ⟨0xFF800000#32, 0xFFFF, false⟩

/-- The matrix unit's state (R179) except the tiles, which are CBUF (R147). -/
structure Matrix where
  vc   : SMap (BitVec 16)
  vi   : SMap (BitVec 16)
  b0   : Latch
  b1   : Latch
  fa   : BitVec 3
  fb   : BitVec 3
  scale : Half
  tkCfg : Word
  tkOn  : Bool
  tk    : SMap SelEntry
  csCfg : Word
  csOn  : Bool
  cs    : SMap SelEntry
  status : BitVec 5
  /-- accepted and not completed, in acceptance order (R180) -/
  seq  : List MatJob
deriving DecidableEq, Repr

/-- The matrix state at gang start (R179): formats BFP8, S = 1.0, k = 1. -/
def Matrix.start : Matrix :=
  { vc := [], vi := [], b0 := ⟨.empty, 7⟩, b1 := ⟨.empty, 7⟩, fa := 7, fb := 7, scale := 0x3F800000#32,
    tkCfg := 1, tkOn := false, tk := [], csCfg := 1, csOn := false, cs := [], status := 0, seq := [] }

/-- A mailbox message (R211). -/
structure Msg where
  payload : Word
  header  : Word
deriving DecidableEq, Repr

/-- A cached translation (R337): the tenant, the page's base and size, and its entry. -/
structure Tlb where
  tenant : Nat
  va     : Nat
  size   : Nat
  entry  : Word
deriving DecidableEq, Repr

/-- A fetched copy of a code word (R341): the tenant, none for a supervisor thread's, the page's base and size, the word's virtual and
physical address, and the word. -/
structure CodeCopy where
  tenant : Option Nat
  page   : Nat
  size   : Nat
  va     : Nat
  pa     : Nat
  word   : Word
deriving DecidableEq, Repr

/-- A core (chapter 01, "What each level holds"). -/
structure Core where
  threads  : SMap Thread
  wbuf     : Memory
  abuf     : Memory
  cbuf     : Memory
  counters : SMap Half
  mail     : List Msg
  /-- mailbox entries reserved for completions (R209) -/
  reserved : Nat
  /-- the team's ticket counter, and the supervisor team's (R209) -/
  ticket   : Half
  supTicket : Half
  tables   : SMap Table
  /-- ring handles of the gang's team, and of the supervisor team (R169, R92) -/
  rings    : SMap Ring
  supRings : SMap Ring
  /-- vector instructions in the order in which they started; the head runs (R174) -/
  vec      : List VecJob
  mx       : Matrix
  /-- a cancel has reached the core for the sibling that holds it (R353) -/
  cancel   : Bool
  /-- contention predictor and ownership buffer (R159) -/
  predictor : SMap (BitVec 2)
  owned    : List Nat
  tlb      : List Tlb
  /-- fetched copies of code words (R341, R344) -/
  icache   : List CodeCopy
  /-- g registers that the register cache holds, as 64·context + n, newest first (R95) -/
  resident : List Nat
  /-- g registers that it has written back to their records and not filled or written since (R96) -/
  evicted  : List Nat
  /-- the convoy that issues, in ascending context number, and its members that have not issued yet (R98) -/
  convoy   : List Nat
  unissued : List Nat
  /-- contexts whose DRAW waits for the draw unit (R363) -/
  drawQ    : List Nat
  /-- journalled units of the core share (R322) -/
  journal  : List Nat
  /-- messages and posts kept over a rollback: those from outside the gang since the snapshot (R323) -/
  keptMail : List Msg
  keptPost : SMap Half
deriving DecidableEq, Repr

/-- A core as bring-up leaves it. -/
def Core.idle : Core :=
  { threads := [], wbuf := .empty, abuf := .empty, cbuf := .empty, counters := [], mail := [], reserved := 0,
    ticket := 0, supTicket := 0, tables := [], rings := [], supRings := [], vec := [], mx := .start, cancel := false,
    predictor := [], owned := [], tlb := [], icache := [], resident := [], evicted := [],
    convoy := [], unissued := [], drawQ := [], journal := [], keptMail := [],
    keptPost := [] }

/-- A deferred slot of a scratchpad bank, or a place in its overflow order (R152, R153). -/
structure Slot where
  addr : Nat
  core : Nat
  ctx  : Nat
  /-- the value a FILL brings; none for a TAKE -/
  val  : Option Val
deriving DecidableEq, Repr

/-- A named barrier (R238). -/
structure Bar where
  mask  : Word
  count : Nat
  p     : BitVec 16
  arr   : Nat
deriving DecidableEq, Repr

/-- A mutex (R238): its owner and its queue as (core, context), and whether the last holder became DONE (R244). -/
structure Mutex where
  owner : Option (Nat × Nat)
  queue : List (Nat × Nat)
  broken : Bool
deriving DecidableEq, Repr

/-- The kind of a streamer request (R206, R229). -/
inductive ReqKind where
  | copy | conv | script
  | sela (init : Bool)
  | remPut | remAddmx
deriving DecidableEq, Repr

/-- A request to a pier streamer (R206): the copied block and what the kick read. -/
structure Req where
  kind   : ReqKind
  blk    : List Word
  ticket : Half
  tag    : BitVec 16
  core   : Nat
  ctx    : Nat
  gang   : Option Nat
  /-- tenant whose translation serves it; none for physical addresses (R92) -/
  tenant : Option Nat
  rm     : BitVec 2
  sc     : Half
  /-- the launch record of a host copy (R279) -/
  host   : Option Nat
  /-- the superstep in which it was issued (R323) -/
  step   : Nat
deriving DecidableEq, Repr

/-- A span (chapter 01, "What each level holds"). -/
structure Span where
  gang    : Option Nat
  tenant  : Option Nat
  sp      : Memory
  /-- words that are empty; an unlisted word is full (R151) -/
  empties : SMap Bool
  slots   : List Slot
  overflow : List Slot
  bars    : SMap Bar
  mutexes : SMap Mutex
  lines   : SMap Half
  /-- the span has reported its arrivals to the north-west event unit (R245) -/
  reported : Bool
  /-- the pier streamer: requests queued and in execution (R210) -/
  queue   : List Req
  running : List Req
  tlb     : List Tlb
  journal : List Nat
deriving DecidableEq, Repr

/-- A span as bring-up leaves it. -/
def Span.idle : Span :=
  { gang := none, tenant := none, sp := .empty, empties := [], slots := [], overflow := [], bars := [], mutexes := [],
    lines := [], reported := false, queue := [], running := [], tlb := [], journal := [] }

/-- Gang states with the codes of R299. -/
inductive GStat where
  | starting | running | halting | swapping | swapped | restoring | draining | aborting | retired
deriving DecidableEq, Repr

/-- The cores and spans of a gang as they stood at a moment: a snapshot (R246) or a swap image (R305). A snapshot gathers the
words of context records that write-backs of the register cache have changed since, by physical address, as they stood before
(R96, R322). -/
structure Image where
  cores : SMap Core
  spans : SMap Span
  recs  : SMap Word
deriving DecidableEq, Repr

/-- A page on a gang's reference list (R342): its virtual base and size and the physical address of its entry. -/
structure PageRef where
  va    : Nat
  size  : Nat
  entry : Nat
deriving DecidableEq, Repr

/-- A gang (R292, R298, R299). -/
structure Gang where
  stat   : GStat
  launch : Nat
  index  : Nat
  tenant : Nat
  /-- north-west span and size in spans -/
  sx     : Nat
  sy     : Nat
  gw     : Nat
  gh     : Nat
  /-- contexts claimed and reserved on each core, and threads created on each (R90) -/
  ctx    : Nat
  start  : Nat
  tbls   : Nat
  mxu    : Bool
  paired : Bool
  /-- truss ring length L (R11) -/
  ring   : Nat
  kern   : Nat
  entry  : Half
  trap   : Half
  arg    : Word
  cwin   : Nat
  dkey   : Word
  rm     : BitVec 2
  prio   : Nat
  debug  : Bool
  /-- superstep number and whether the open superstep is replayable (R246, R324) -/
  step   : Nat
  replay : Bool
  replays : Nat
  snap   : Option Image
  /-- a rollback has been requested, and the gang's cores are halted for it (R326) -/
  rolling : Bool
  /-- the pre-emption was accepted as a rollback ended, so that its halt adds no second one (R329) -/
  rolled : Bool
  /-- stall monitor: its timer and its threshold (R248) -/
  stall  : Nat
  stallT : Nat
  /-- cycles in which no thread of the gang was HALTED (R187, R189, R249) -/
  live   : Nat
  /-- device queue of records not yet admitted, as sequence numbers of the pool (R286) -/
  devq   : List Nat
  /-- requests, records held until the sealing collective (R218, R290) -/
  held   : List Req
  heldRec : List (List Word)
  refs   : List PageRef
  group  : Option Nat
  sib    : Nat
  /-- a cancel recorded while the gang was swapped out (R357) -/
  cxlLate : Bool
  /-- abort requested while swapping or restoring (R310) -/
  abortLate : Bool
  /-- counters to post when the pending pre-emption or restore ends (R309) -/
  post   : List Nat
  image  : Option Image
  /-- caisson slots held: span numbers (R306) -/
  slots  : List Nat
  /-- physical base and size of its context records and swap reserve in the pool (R294, R306) -/
  recs   : Nat × Nat
  reserve : Nat × Nat
  extra  : List (Nat × Nat)
  /-- table images to be committed at gang start: the table and the image's 192 words (R288) -/
  images : List (Nat × List Word)
  /-- cycle at which it was admitted, for R303 -/
  born   : Nat
deriving DecidableEq, Repr

/-- A launch (R277, R282). -/
structure Launch where
  id     : Nat
  words  : List Word
  tenant : Nat
  prio   : Nat
  handles : List Nat
  /-- gangs that have not yet started -/
  waiting : List Nat
  trigged : Bool
  aborted : Bool
deriving DecidableEq, Repr

/-- A record that has been fetched or submitted and not admitted (R274, R280). -/
structure FRec where
  seq    : Nat
  /-- the host queue and index it came from; the gang whose device queue holds it; the list that submitted it -/
  q      : Option (Nat × Nat)
  dev    : Option Nat
  list   : Option Nat
  words  : List Word
  tenant : Nat
  prio   : Nat
  /-- its wait condition has passed its test (R280) -/
  passed : Bool
  /-- cycle at which it was first considered, and whether it is reserving (R281) -/
  since  : Option Nat
  reserving : Bool
  images : List (Nat × List Word)
  /-- its request has been sent to a streamer (R279) -/
  sent   : Bool
deriving DecidableEq, Repr

/-- A host launch queue's registers (R273). -/
structure HostQueue where
  qbase  : Nat
  logsz  : Nat
  tenant : Nat
  pcap   : Nat
  en     : Bool
  qprod  : Half
  qcons  : Half
  err    : Bool
  code   : Nat
  eidx   : Half
deriving DecidableEq, Repr

/-- A queue at reset (R273). -/
def HostQueue.reset : HostQueue := ⟨0, 0, 0, 0, false, 0, 0, false, 0, 0⟩

/-- A command list being walked (R287, R288). -/
structure Walker where
  id     : Nat
  q      : Nat
  idx    : Nat
  words  : List Word
  tenant : Nat
  prio   : Nat
  pc     : Nat
  stack  : List Nat
  images : List (Nat × List Word)
  /-- sequence numbers of the launches it has submitted that have not completed -/
  subs   : List Nat
deriving DecidableEq, Repr

/-- Ballot group states with the codes of R349. -/
inductive BStat where
  | free | opened | decided | nodecision
deriving DecidableEq, Repr

/-- A group slot of the ballot unit (R348, R351, R355). -/
structure Group where
  stat    : BStat
  closed  : Bool
  n       : Nat
  t       : Nat
  /-- hashes of counted votes that are not spoiled, by sibling -/
  votes   : SMap Word
  voted   : Half
  spoiled : Half
  kept    : Half
  cxl     : Half
  retired : Half
  winner  : Word
  blk     : SMap Nat
  cyc     : SMap Nat
  byt     : SMap Nat
deriving DecidableEq, Repr

/-- A slot never used (R349). -/
def Group.free : Group := ⟨.free, false, 0, 0, [], 0, 0, 0, 0, 0, 0, [], [], []⟩

/-- Port states with the codes of R369. -/
inductive PStat where
  | down | deskew | equalise | exchange | active
deriving DecidableEq, Repr

/-- A request a port has sent and not had acknowledged (R373): the span whose streamer runs it, and the status and payload of
a source that failed part of the way (R213). -/
structure PortReq where
  num  : Half
  req  : Req
  span : Nat
  late : Option (Nat × Word)
deriving DecidableEq, Repr

/-- An acknowledgement that a port owes its partner once a forward has been acknowledged (R381): the number that the forward
carries, the port and the number of the request that came in, its address word, which a failure names (R373, R376), and the
status and address word of a stream that was bad part of the way (R213, R374). -/
structure Forward where
  num  : Half
  port : Nat
  orig : Half
  addr : Word
  late : Option (Nat × Word)
deriving DecidableEq, Repr

/-- A viaduct port (R369, R371, R372). -/
structure Port where
  stat   : PStat
  since  : Nat
  cmp    : Bool
  mx     : Bool
  /-- bit 37 of the capability record that the port sent last (R370) -/
  offered : Bool
  pdev   : BitVec 16
  pport  : BitVec 5
  en     : Bool
  cmpen  : Bool
  retries : Nat
  downev : Bool
  tmapv  : BitVec 16
  tmap   : Word
  /-- sequence numbers of the next flit sent and the next accepted; flits refused in a row -/
  txSeq  : Nat
  rxSeq  : Nat
  fails  : Nat
  /-- request number of the next request; requests unacknowledged, oldest first -/
  next   : Half
  reqs   : List PortReq
  /-- flits sent, newest last, each of 64 bytes -/
  sent   : List (List Byte)
  /-- flits sent that the partner has not accepted yet, oldest first (R372) -/
  unacked : List (List Byte)
  /-- the partner's capability record has been accepted (R369, R370) -/
  capOk  : Bool
  fwd    : List Forward
  /-- a request whose data is still coming in: its header words and its data so far -/
  rxHdr  : Option (List Word)
  rxData : List Byte
  /-- requests, acknowledgements and capability words that have come in whole and wait for the port, oldest first -/
  inReqs : List (List Word × List Byte)
  inAcks : List (Word × Word)
  inCaps : List Word
deriving DecidableEq, Repr

/-- A port after device reset (R371). -/
def Port.reset : Port :=
  { stat := .down, since := 0, cmp := false, mx := false, offered := false, pdev := 0, pport := 0, en := true, cmpen := true, retries := 0,
    downev := false, tmapv := 0, tmap := 0, txSeq := 0, rxSeq := 0, fails := 0, next := 0, reqs := [], sent := [], unacked := [], capOk := false, fwd := [],
    rxHdr := none, rxData := [], inReqs := [], inAcks := [], inCaps := [] }

/-- A tenant's record (R294) with the parts of its context pool that are in use, as (offset, size). -/
structure Tenant where
  sx    : Nat
  sy    : Nat
  sw    : Nat
  sh    : Nat
  pre   : Bool
  dbg   : Bool
  root  : Nat
  cpool : Nat
  cpmb  : Nat
  stallt : Nat
  used  : List (Nat × Nat)
deriving DecidableEq, Repr

/-- A message under way to a mailbox (R230). -/
structure MsgFlight where
  core   : Nat
  ctx    : Nat
  sup    : Bool
  gang   : Option Nat
  tenant : Option Nat
  target : Nat
  msg    : Msg
deriving DecidableEq, Repr

/-- A post under way to a counter (R233): its tenant, none for a supervisor thread's, the gang it came from and the thread; or the launch,
copy record or list that posts it, by the sequence number of its record (R282, R284, R288). -/
structure PostFlight where
  tenant : Option Nat
  gang   : Option Nat
  by_    : Option (Nat × Nat)
  rec_   : Option Nat
  core   : Nat
  idx    : Nat
  inc    : Half
deriving DecidableEq, Repr

/-- A cancel under way to a core (R353). -/
structure CancelFlight where
  gang : Nat
  core : Nat
deriving DecidableEq, Repr

/-- A thread on the halted list of a pending page (R338): its gang, core and context. -/
structure Faulted where
  gang : Nat
  core : Nat
  ctx  : Nat
deriving DecidableEq, Repr

/-- A pending page of R338: the tenant, the 64 KiB page's base, and its halted list. -/
structure PendPage where
  tenant : Nat
  va     : Nat
  list   : List Faulted
deriving DecidableEq, Repr

/-- An invalidation in flight (R339, R343). -/
structure Inval where
  tenant : Nat
  /-- the address whose page is dropped; none for everything of the tenant -/
  page   : Option Nat
  code   : Bool
  /-- the counter target to post to -/
  post   : Option Nat
  /-- the invalidation of a RELEASED page, which notifies firmware (R343) -/
  release : Bool
deriving DecidableEq, Repr

/-- What the management controller is told over the sideband path. -/
inductive Report where
  | uncorrectable (pa : Nat)
  | dropped (core : Nat)
  | supTrap (core ctx : Nat) (cause : BitVec 8)
  | cxlRead (pa : Nat)
  | cxlWrite (pa : Nat)
  | thermal (die : Nat)
deriving DecidableEq, Repr

/-- Bring-up phases with the codes of R385; off is the module without power (R390). -/
inductive Phase where
  | off | power | fwverify | memtrain | sraminit | linkup | ready | fail
deriving DecidableEq, Repr

/-- What the board supplies (R385, R386): the flash images, the fused digests and minimum versions, the straps. -/
structure Board where
  firmware  : List Byte
  microcode : List Byte
  keyDigest : List Byte
  minFw     : Nat
  minUc     : Nat
  devnum    : BitVec 16
  /-- the memory unit that fails training, if any, and whether a CXL host is there (R385) -/
  badUnit   : Option Nat
  host      : Bool
deriving DecidableEq, Repr

/-- Management registers (R388) and the attestation unit (R387). -/
structure Mgmt where
  phase  : Phase
  berr   : Nat
  bunit  : Nat
  pcap   : Nat
  pwr    : Nat
  duty   : Nat
  temps  : List Nat
  scr    : Nat
  rcl    : Nat
  elog   : List Nat
  elost  : Nat
  cecnt  : Half
  attcmd : Nat
  busy   : Bool
  done   : Bool
  meas0  : List Byte
  meas1  : List Byte
  /-- cycle of the last power interval, and of the last recalibration pause of each unit (R389, R19) -/
  powerAt : Nat
  recalAt : SMap Nat
  /-- the sideband alarm of R389 -/
  alarm  : Bool
deriving DecidableEq, Repr

/-- A choice of what happens next (the model's own, log 3). -/
inductive Act where
  /-- a thread issues, or tries again what it is stalled on -/
  | issue (core ctx : Nat)
  /-- an event of the device or of the outside -/
  | event (e : Instr)
  /-- an event of the list walker with an identifier -/
  | list (walker : Nat) (e : Instr)
  /-- time passes -/
  | tick (n : Nat)
deriving DecidableEq, Repr

/-- The whole device. -/
structure State where
  /-- cycles since device reset (R101, R385) -/
  clock   : Nat
  /-- the model's own: choices still to be made, oldest first (log 3) -/
  agenda  : List Act
  /-- the model's own: the core and context whose instruction runs (log 3) -/
  core    : Nat
  ctx     : Nat
  /-- the model's own: the list walker a list event acts on (log 3) -/
  walker  : Nat
  /-- the model's own: counter of free values (log 11) -/
  fresh   : Nat
  board   : Board
  mgmt    : Mgmt
  devnum  : BitVec 16
  cxlUp   : Bool
  /-- physical memory (R156) -/
  mem     : Memory
  cores   : SMap Core
  spans   : SMap Span
  tenants : SMap Tenant
  gangs   : SMap Gang
  launches : List Launch
  queues  : SMap HostQueue
  pool    : List FRec
  copies  : List FRec
  walkers : List Walker
  /-- sequence number of the next fetched record -/
  seq     : Nat
  /-- group slots by 64·tenant + slot (R347) -/
  groups  : SMap Group
  ports   : SMap Port
  /-- expert location table, two words an entry (R380); every port's copy is equal (R382) -/
  loc0    : SMap Word
  loc1    : SMap Word
  msgs    : List MsgFlight
  posts   : List PostFlight
  cancels : List CancelFlight
  supMail : List Msg
  /-- notifications that wait in the scheduler for room (R232) -/
  notes   : List Msg
  pend    : List PendPage
  invals  : List Inval
  reports : List Report
  /-- the last answer to a host read: its bytes and its poison mark (R383) -/
  reply   : List Byte × Bool
deriving DecidableEq, Repr

/-- The management registers at reset (R388). -/
def Mgmt.reset : Mgmt :=
  { phase := .power, berr := 0, bunit := 0, pcap := 4200, pwr := 0, duty := 16, temps := [0, 0, 0, 0], scr := 10,
    rcl := 10, elog := [], elost := 0, cecnt := 0, attcmd := 0, busy := false, done := false,
    meas0 := List.replicate 32 0, meas1 := List.replicate 32 0, powerAt := 0, recalAt := [], alarm := false }

/-- A board whose flash and fuses hold nothing (log 8). -/
def Board.empty : Board := ⟨[], [], [], 0, 0, 0, none, false⟩

/-- The machine right after reset is released: phase POWER (R385), every register at its reset value. -/
def State.reset : State :=
  { clock := 0, agenda := [], core := 0, ctx := 63, walker := 0, fresh := 0, board := .empty, mgmt := .reset, devnum := 0,
    cxlUp := false, mem := .empty, cores := [], spans := [], tenants := [], gangs := [], launches := [], queues := [],
    pool := [], copies := [], walkers := [], seq := 0, groups := [], ports := [], loc0 := [], loc1 := [], msgs := [],
    posts := [], cancels := [], supMail := [], notes := [], pend := [], invals := [], reports := [], reply := ([], false) }

end Sys2Proof.Machine
end

