-- ==== Sys2Proof/Machine/Access.lean ====
section
/-! DEFINITION. The parts of the state by name: cores, threads, spans, gangs, the bytes and poison of a memory, physical
memory, and the context record of a thread (R97). -/

set_option linter.constructorNameAsVariable false

namespace Sys2Proof.Machine

/-- What an instruction or a step answers. -/
abbrev Out := Host.Outcome State Fault Refusal

/-! ## Places (R10) -/

/-- The span of a core. -/
def spanOf (core : Nat) : Nat := core / 128 / 8 * 16 + core % 128 / 8

/-- The offset of a core in its span: y first, then x (R150). -/
def coreOffset (core : Nat) : Nat := core / 128 % 8 * 8 + core % 128 % 8

/-- The core at an offset of a span. -/
def coreOfSpan (span off : Nat) : Nat := (span / 16 * 8 + off / 8) * 128 + span % 16 * 8 + off % 8

/-- The cores of a span by ascending offset. -/
def spanCores (span : Nat) : List Nat := (List.range 64).map (coreOfSpan span)

/-- The home slice of a physical address (R156). -/
def homeSlice (pa : Nat) : Nat := (pa / 4096 % 256) ^^^ (pa / 2 ^ 20 % 256) ^^^ (pa / 2 ^ 28 % 256)

/-! ## Maps of the state -/

namespace State

/-- A core. -/
def coreAt (s : State) (c : Nat) : Core := s.cores.get Core.idle c

/-- The state with a core replaced. -/
def setCore (s : State) (c : Nat) (x : Core) : State := { s with cores := s.cores.put c x }

/-- The state with a core changed. -/
def modCore (s : State) (c : Nat) (f : Core → Core) : State := s.setCore c (f (s.coreAt c))

/-- A context of a core. -/
def thread (s : State) (c k : Nat) : Thread := (s.coreAt c).threads.get Thread.free k

/-- The state with a context replaced. -/
def setThread (s : State) (c k : Nat) (t : Thread) : State :=
  s.modCore c (fun x => { x with threads := x.threads.put k t })

/-- The state with a context changed. -/
def modThread (s : State) (c k : Nat) (f : Thread → Thread) : State := s.setThread c k (f (s.thread c k))

/-- The context whose instruction runs. -/
def me (s : State) : Thread := s.thread s.core s.ctx

/-- The state with the running context changed. -/
def modMe (s : State) (f : Thread → Thread) : State := s.modThread s.core s.ctx f

/-- The core whose thread runs. -/
def myCore (s : State) : Core := s.coreAt s.core

/-- The state with the running thread's core changed. -/
def modMyCore (s : State) (f : Core → Core) : State := s.modCore s.core f

/-- A span. -/
def spanAt (s : State) (n : Nat) : Span := s.spans.get Span.idle n

/-- The state with a span replaced. -/
def setSpan (s : State) (n : Nat) (x : Span) : State := { s with spans := s.spans.put n x }

/-- The state with a span changed. -/
def modSpan (s : State) (n : Nat) (f : Span → Span) : State := s.setSpan n (f (s.spanAt n))

/-- The gang of a handle, if the handle is not free. -/
def gangAt (s : State) (h : Nat) : Option Gang := s.gangs.find? h

/-- The state with a gang changed, if there is one. -/
def modGang (s : State) (h : Nat) (f : Gang → Gang) : State :=
  match s.gangAt h with
  | some g => { s with gangs := s.gangs.put h (f g) }
  | none => s

/-- The gang that holds a core (R297). -/
def holder (s : State) (c : Nat) : Option Nat := (s.spanAt (spanOf c)).gang

/-- A tenant's record, if the tenant is defined. -/
def tenantAt (s : State) (t : Nat) : Option Tenant := s.tenants.find? t

/-- A value for something the manual leaves open, and the state with the counter advanced (log 11). -/
def freeValue (s : State) : Word × State := (Config.freeWord s.fresh, { s with fresh := s.fresh + 1 })

end State

/-- The gang of an owner. -/
def Owner.gang? : Owner → Option Nat
  | .gang h => some h
  | .none => Option.none
  | .sup => Option.none

/-- The gang handle of a thread. -/
def Thread.gang? (t : Thread) : Option Nat := t.owner.gang?

/-- The gang of a thread. -/
def State.gangOf (s : State) (t : Thread) : Option Gang := t.gang?.bind s.gangAt

/-- The tenant of a thread; a supervisor thread has none (R92). -/
def State.tenantOf (s : State) (t : Thread) : Option Nat := (s.gangOf t).map (·.tenant)

/-- A core of a tenant's sub-mesh (R294). -/
def Tenant.holdsSpan (t : Tenant) (span : Nat) : Bool :=
  decide (t.sx ≤ span % 16) && decide (span % 16 < t.sx + t.sw) && decide (t.sy ≤ span / 16) && decide (span / 16 < t.sy + t.sh)

/-- Whether a core lies in the sub-mesh of a tenant; none stands for supervisor threads, which skip the check (R92). -/
def State.inSubmesh (s : State) (tenant : Option Nat) (core : Nat) : Bool :=
  match tenant with
  | none => true
  | some n => match s.tenantAt n with
    | some t => decide (core < 16384) && t.holdsSpan (spanOf core)
    | none => false

/-- The spans of a gang's rectangle by ascending number. -/
def Gang.spans (g : Gang) : List Nat :=
  (List.range g.gh).flatMap (fun y => (List.range g.gw).map (fun x => (g.sy + y) * 16 + g.sx + x))

/-- The cores of a gang. -/
def Gang.cores (g : Gang) : List Nat := g.spans.flatMap spanCores

/-- Whether a gang's rectangle holds a span. -/
def Gang.holdsSpan (g : Gang) (span : Nat) : Bool := g.spans.contains span

/-! ## Memories -/

namespace Memory

/-- A byte. -/
def byte (m : Memory) (a : Nat) : Byte := m.bytes.get 0 a

/-- The memory with a byte replaced. -/
def setByte (m : Memory) (a : Nat) (b : Byte) : Memory := { m with bytes := m.bytes.set 0 a b }

/-- The little-endian number in n bytes (R3). -/
def read (m : Memory) (a : Nat) : Nat → Nat
  | 0 => 0
  | n + 1 => (m.byte a).toNat + 256 * read m (a + 1) n

/-- The memory with n bytes replaced by the little-endian bytes of a number (R3). -/
def write (m : Memory) (a : Nat) : Nat → Nat → Memory
  | 0, _ => m
  | n + 1, v => write (m.setByte a (BitVec.ofNat 8 v)) (a + 1) n (v / 256)

/-- The poison bit of the 8-byte word that holds a byte (R158). -/
def poison (m : Memory) (a : Nat) : Bool := m.psn.get false (a / 8)

/-- The memory with that poison bit set as told. -/
def setPoison (m : Memory) (a : Nat) (p : Bool) : Memory := { m with psn := m.psn.set false (a / 8) p }

/-- A store within one word (R158): poisoned data poisons the word; clean data of 8 bytes clears it; less leaves it. -/
def store (m : Memory) (a n v : Nat) (p : Bool) : Memory :=
  let w := m.write a n v
  if p then w.setPoison a true else if n = 8 then w.setPoison a false else w

/-- The bytes from an address on. -/
def readBytes (m : Memory) (a : Nat) : Nat → List Byte
  | 0 => []
  | n + 1 => m.byte a :: readBytes m (a + 1) n

/-- The memory with bytes written from an address on. -/
def writeBytes (m : Memory) (a : Nat) : List Byte → Memory
  | [] => m
  | b :: r => writeBytes (m.setByte a b) (a + 1) r

/-- Whether any word that holds one of n bytes is poisoned. -/
def anyPoison (m : Memory) (a n : Nat) : Bool :=
  (List.range ((a + n + 7) / 8 - a / 8)).any (fun i => m.psn.get false (a / 8 + i))

/-- The canonical form: addresses strictly rising, no entry equal to what an unlisted address reads as. -/
def wf (m : Memory) : Bool := m.bytes.wf 0 && m.psn.wf false

end Memory

/-- The local memory of a space at a place: a span number for the scratchpad, a core number for the buffers. The context
space is read through recordWord. -/
def State.localMem (s : State) (sp : Space) (place : Nat) : Memory :=
  match sp with
  | .gl => s.mem
  | .sp => (s.spanAt place).sp
  | .wb => (s.coreAt place).wbuf
  | .ab => (s.coreAt place).abuf
  | .cb => (s.coreAt place).cbuf
  | .cx => .empty

/-- The state with the memory of a space at a place replaced. -/
def State.setLocalMem (s : State) (sp : Space) (place : Nat) (m : Memory) : State :=
  match sp with
  | .gl => { s with mem := m }
  | .sp => s.modSpan place (fun x => { x with sp := m })
  | .wb => s.modCore place (fun x => { x with wbuf := m })
  | .ab => s.modCore place (fun x => { x with abuf := m })
  | .cb => s.modCore place (fun x => { x with cbuf := m })
  | .cx => s

/-- The number of bytes of a space (R145). -/
def spaceSize : Space → Nat
  | .gl => 2 ^ 48
  | .sp => Config.spSize
  | .wb => Config.wbSize
  | .ab => Config.abSize
  | .cb => Config.cbSize
  | .cx => Config.cxSize

/-! ## The context record (R97) -/

/-- State code of R87. -/
def TStat.code : TStat → Nat
  | .free => 0
  | .ready => 1
  | .issued => 2
  | .parked => 3
  | .trapped => 4
  | .halted => 5
  | .done => 6

/-- Park reason of R87. -/
def Wait.reason : Wait → Nat
  | .none => 0
  | .stall _ => 0
  | .mailbox _ _ _ => 0
  | .counter _ _ _ _ => 1
  | .bar _ _ _ _ => 2
  | .line _ _ _ _ => 2
  | .mutex _ _ => 2
  | .collective _ _ => 2
  | .ballot _ _ => 2
  | .ring => 3
  | .take _ _ => 4
  | .fill _ _ => 4
  | .draw => 5
  | .drain _ _ => 0

/-- A register by operand code, whatever the code of z holds. -/
def Thread.raw (t : Thread) (code : Nat) : Val := t.regs.get Val.zero code

/-- A PC value: block address and offset (R97, R101). -/
def pcWord (blk : Half) (off : Nat) : Word := zext blk ||| BitVec.ofNat 64 (off % 1024 * 2 ^ 32)

/-- Poison bits of registers from a code on, as a number. -/
def poisonBits (t : Thread) (first : Nat) : Nat → Nat
  | 0 => 0
  | n + 1 => (if (t.raw first).p then 1 else 0) + 2 * poisonBits t (first + 1) n

/-- Word POIS (R97). -/
def Thread.poisWord (t : Thread) : Word :=
  BitVec.ofNat 64 (poisonBits t 10 54 + poisonBits t 1 1 * 2 ^ 54 + poisonBits t 2 8 * 2 ^ 55 + (if t.tp then 2 ^ 63 else 0))

/-- Word TST (R97). -/
def Thread.tstWord (t : Thread) : Word :=
  BitVec.ofNat 64 (t.preds.toNat + t.stat.code * 2 ^ 8 + (if t.stat = .parked then t.wait.reason * 2 ^ 11 else 0)
    + (if t.ih then 2 ^ 14 else 0) + (if t.priv then 2 ^ 15 else 0) + (if t.tnt then 2 ^ 16 else 0))

/-- A word of the context record (R97). -/
def Thread.recordWord (t : Thread) (i : Nat) : Word :=
  if i < 54 then (t.raw (i + 10)).v
  else if i = 54 then (t.raw 1).v
  else if i = 55 then t.poisWord
  else if i < 64 then (t.raw (i - 56 + 2)).v
  else if i = 64 then t.tstWord
  else if i = 65 then t.c1 ++ t.c0
  else if i = 66 then t.c3 ++ t.c2
  else if i = 67 then t.rmode
  else if i = 68 then pcWord t.pcBlk t.pcOff
  else if i = 69 then zext t.cause
  else if i = 70 then t.tpc
  else if i = 71 then t.tval
  else if i = 72 then t.drawkey
  else 0

/-- The poison that a load of a record word returns: that of the register it holds, for the register words (R97, R158). -/
def Thread.recordPoison (t : Thread) (i : Nat) : Bool :=
  if i < 54 then (t.raw (i + 10)).p
  else if i = 54 then (t.raw 1).p
  else if 56 ≤ i ∧ i < 64 then (t.raw (i - 56 + 2)).p
  else false

/-- A thread with the fields that CTXLOAD.thr and a restore take from a record (R309): not STATE, PARK or PRIV. -/
def Thread.loadRecord (t : Thread) (w : Nat → Word) : Thread :=
  let val (i pbit : Nat) : Val := ⟨w i, bit pbit (w 55)⟩
  let gs := (List.range 54).map (fun n => (n + 10, val n n))
  let os := (List.range 8).map (fun n => (n + 2, val (56 + n) (55 + n)))
  { t with
    regs := ((1, val 54 54) :: os ++ gs).filter (fun e => e.2 ≠ Val.zero)
    tp := bit 63 (w 55), preds := bits 0 8 (w 64), ih := bit 14 (w 64), tnt := bit 16 (w 64)
    c0 := bits 0 32 (w 65), c1 := bits 32 32 (w 65), c2 := bits 0 32 (w 66), c3 := bits 32 32 (w 66)
    rmode := w 67 &&& rmodeMask, pcBlk := bits 0 32 (w 68), pcOff := natBits 32 10 (w 68)
    cause := bits 0 8 (w 69), tpc := w 70 &&& 0x3FFFFFFFFFF, tval := w 71, drawkey := w 72, loaded := false }

end Sys2Proof.Machine
end

