-- ==== Sys2Proof/Machine/Translate.lean ====
section
/-! DEFINITION. Address translation (spec/20): entries, walks, rights, cached translations; and physical reads. -/

set_option linter.constructorNameAsVariable false

namespace Sys2Proof.Machine

/-- Causes of R314. -/
def Cause.illegalOp : BitVec 8 := 0x01
/-- NO_MATCH (R314). -/
def Cause.noMatch : BitVec 8 := 0x02
/-- MISALIGNED (R314). -/
def Cause.misaligned : BitVec 8 := 0x03
/-- ACCESS (R314). -/
def Cause.access : BitVec 8 := 0x04
/-- PAGE_FAULT (R314). -/
def Cause.pageFault : BitVec 8 := 0x05
/-- POISON_CONSUMED (R314). -/
def Cause.poisonConsumed : BitVec 8 := 0x06
/-- RING_CONFIG (R314). -/
def Cause.ringConfig : BitVec 8 := 0x07
/-- TABLE_IDX (R314). -/
def Cause.tableIdx : BitVec 8 := 0x08
/-- RANGE (R314). -/
def Cause.range : BitVec 8 := 0x09
/-- GANG_STALL (R314). -/
def Cause.gangStall : BitVec 8 := 0x0A
/-- PAIR_TIMEOUT (R314). -/
def Cause.pairTimeout : BitVec 8 := 0x0B
/-- SEL_SHORT (R314). -/
def Cause.selShort : BitVec 8 := 0x0C
/-- JOURNAL_FULL (R314). -/
def Cause.journalFull : BitVec 8 := 0x0D
/-- REPLAY_STORE (R314). -/
def Cause.replayStore : BitVec 8 := 0x0E
/-- BREAKPOINT (R314). -/
def Cause.breakpoint : BitVec 8 := 0x0F
/-- SOFTWARE (R314). -/
def Cause.software : BitVec 8 := 0x10
/-- PRIVILEGED (R314). -/
def Cause.privileged : BitVec 8 := 0x11
/-- FABRIC (R314). -/
def Cause.fabric : BitVec 8 := 0x12
/-- QUEUE_FULL (R314). -/
def Cause.queueFull : BitVec 8 := 0x13
/-- TENANT (R314). -/
def Cause.tenant : BitVec 8 := 0x14
/-- REPLAY_LIMIT (R314). -/
def Cause.replayLimit : BitVec 8 := 0x15

/-- A cause that goes to the user trap block (R314, column Route). -/
def userRecoverable (c : BitVec 8) : Bool := c ≠ Cause.pageFault && c ≠ Cause.replayLimit

/-- In the counter window (R156, R161). -/
def inCwin (pa : Nat) : Bool := decide (Config.cwinBase ≤ pa) && decide (pa < Config.cwinEnd)

/-- In host memory reached over CXL.cache (R383). -/
def inHost (pa : Nat) : Bool := decide (Config.hostBase ≤ pa) && decide (pa < Config.hostEnd)

/-- A populated physical address (R156; R383 for host memory while the link is up). -/
def State.populated (s : State) (pa : Nat) : Bool :=
  decide (pa < Config.hbmEnd) || (decide (Config.tier2Base ≤ pa) && decide (pa < Config.tier2End)) || inCwin pa ||
    (s.cxlUp && inHost pa)

/-- Every byte of a range is populated. Ranges of R156 and R383 are separated by holes, so the ends decide for a range shorter
than a hole. -/
def State.populatedRange (s : State) (pa n : Nat) : Bool := s.populated pa && s.populated (pa + n - 1)

/-- The byte of the counter window at an address: the low half of each 8-byte word is a counter, the high half 0 (R161). -/
def State.cwinByte (s : State) (pa : Nat) : Byte :=
  let off := pa - Config.cwinBase
  let core := off / 2048
  let v := (s.coreAt core).counters.get 0 (off / 8 % 256)
  if off % 8 < 4 then bits (8 * (off % 8)) 8 v else 0

/-- A byte of physical memory, the counter window included. -/
def State.physByte (s : State) (pa : Nat) : Byte := if inCwin pa then s.cwinByte pa else s.mem.byte pa

/-- The little-endian number in n bytes of physical memory. -/
def State.physRead (s : State) (pa : Nat) : Nat → Nat
  | 0 => 0
  | n + 1 => (s.physByte pa).toNat + 256 * physRead s (pa + 1) n

/-- A word of physical memory. -/
def State.physWord (s : State) (pa : Nat) : Word := BitVec.ofNat 64 (s.physRead pa 8)

/-- Poison of the physical word that holds an address; a counter has none. -/
def State.physPoison (s : State) (pa : Nat) : Bool := if inCwin pa then false else s.mem.poison pa

/-! ## Page entries (R335) -/

/-- PA field of an entry, as an address. -/
def entryPa (e : Word) : Nat := natBits 8 40 e * 256

/-- The size of what a page entry at a level maps. -/
def pageSize (level : Nat) : Nat := if level = 3 then 2 ^ 21 else 2 ^ 16

/-- The alignment of the table that an entry at a level names (R334). -/
def tableAlign (level : Nat) : Nat := if level = 3 then 256 else 4096

/-- An entry that is malformed at a level (R335). -/
def State.malformed (s : State) (e : Word) (level : Nat) : Bool :=
  let t := natBits 0 2 e
  decide (t = 3) || decide (bits 6 2 e ≠ 0) ||
  (if t = 1 then decide (level ≥ 4) || decide (entryPa e % tableAlign level ≠ 0) || decide (bits 2 4 e ≠ 0) ||
      decide (bits 48 16 e ≠ 0)
   else if t = 2 then decide (level < 3) || decide (entryPa e % pageSize level ≠ 0) ||
      !s.populatedRange (entryPa e) (pageSize level) || (decide (natBits 4 2 e ≠ 1) && decide (bits 48 16 e ≠ 0))
   else decide (natBits 4 2 e ≠ 1) && decide (bits 48 16 e ≠ 0))

/-- Index of an address at a level (R334). -/
def levelIndex (level va : Nat) : Nat :=
  match level with
  | 1 => va / 2 ^ 39 % 512
  | 2 => va / 2 ^ 30 % 512
  | 3 => va / 2 ^ 21 % 512
  | _ => va / 2 ^ 16 % 32

/-- The page a walk ended at: the address of its entry, its level and the entry. -/
structure PageHit where
  addr  : Nat
  level : Nat
  entry : Word
deriving DecidableEq, Repr

/-- A walk through the remaining levels from a table (R334); an entry that is malformed counts as T = 0 (R335). -/
def State.walkFrom (s : State) (va : Nat) : List Nat → Nat → Option PageHit
  | [], _ => none
  | l :: ls, tbl =>
    let a := tbl + 8 * levelIndex l va
    let e := s.physWord a
    if s.malformed e l then none
    else if natBits 0 2 e = 1 then walkFrom s va ls (entryPa e)
    else if natBits 0 2 e = 2 then some ⟨a, l, e⟩
    else none

/-- A walk from a tenant's ROOT (R334). -/
def State.walk (s : State) (tenant va : Nat) : Option PageHit :=
  match s.tenantAt tenant with
  | some t => s.walkFrom va [1, 2, 3, 4] t.root
  | none => none

/-- The address of the entry of a level, if the entries above it lead there (R345). -/
def State.entryAddr (s : State) (va : Nat) : List Nat → Nat → Nat → Option Nat
  | [], _, _ => none
  | l :: ls, target, tbl =>
    let a := tbl + 8 * levelIndex l va
    if l = target then some a
    else
      let e := s.physWord a
      if natBits 0 2 e = 1 && !s.malformed e l then entryAddr s va ls target (entryPa e) else none

/-- Kinds of access as translation sees them. -/
inductive Rights where
  | read | write | fetch
deriving DecidableEq, Repr

/-- What a page's state and rights refuse an access with (R336). -/
def refusal (r : Rights) (e : Word) : Option (BitVec 8) :=
  let st := natBits 4 2 e
  if st = 3 then some Cause.pageFault
  else match r with
    | .read => none
    | .write => if st = 2 then some Cause.pageFault else if bit 2 e then none else some Cause.access
    | .fetch => if bit 3 e then none else some Cause.access

/-- The cached translation of an address of a tenant (R337). -/
def tlbFind (tlb : List Tlb) (tenant va : Nat) : Option Tlb :=
  tlb.find? (fun x => decide (x.tenant = tenant) && decide (x.va ≤ va) && decide (va < x.va + x.size))

/-- A cache of translations with one put in; the oldest of more than a limit falls out (log 10). -/
def tlbAdd (limit : Nat) (tlb : List Tlb) (x : Tlb) : List Tlb :=
  ((x :: tlb.filter (fun y => !(decide (y.tenant = x.tenant) && decide (y.va = x.va))))).take limit

/-- Physical address through an entry. -/
def pageAddr (entry : Word) (size va : Nat) : Nat := entryPa entry / size * size + va % size

/-- Translation of an address through a cache: the cause it faults with, or the physical address and the cache afterwards. A
cached translation that refuses the access is walked again before it faults (R337, log 10). -/
def State.translate (s : State) (limit : Nat) (tlb : List Tlb) (tenant va : Nat) (r : Rights) :
    Except (BitVec 8) (Nat × List Tlb) :=
  let walked : Except (BitVec 8) (Nat × List Tlb) :=
    match s.walk tenant va with
    | none => .error Cause.pageFault
    | some h =>
      match refusal r h.entry with
      | some c => .error c
      | none =>
        let size := pageSize h.level
        .ok (pageAddr h.entry size va, tlbAdd limit tlb ⟨tenant, va / size * size, size, h.entry⟩)
  match tlbFind tlb tenant va with
  | some x => match refusal r x.entry with
    | none => .ok (pageAddr x.entry x.size va, tlb)
    | some _ => walked
  | none => walked

/-- Translation by a core for one of its threads: physical for a supervisor thread (R92), through the core's cache for a user
thread (R337). -/
def State.coreTranslate (s : State) (core : Nat) (tenant : Option Nat) (va : Nat) (r : Rights) :
    Except (BitVec 8) (Nat × State) :=
  match tenant with
  | none => if s.populated va then .ok (va, s) else .error Cause.access
  | some t =>
    match s.translate 64 (s.coreAt core).tlb t va r with
    | .error c => .error c
    | .ok (pa, tlb) => .ok (pa, s.modCore core (fun x => { x with tlb := tlb }))

/-- Translation by the engines of a span (R337). -/
def State.spanTranslate (s : State) (span : Nat) (tenant : Option Nat) (va : Nat) (r : Rights) :
    Except (BitVec 8) (Nat × State) :=
  match tenant with
  | none => if s.populated va then .ok (va, s) else .error Cause.access
  | some t =>
    match s.translate 2048 (s.spanAt span).tlb t va r with
    | .error c => .error c
    | .ok (pa, tlb) => .ok (pa, s.modSpan span (fun x => { x with tlb := tlb }))

end Sys2Proof.Machine
end

