-- ==== Sys2Proof/Machine/Ops.lean ====
section
/-! DEFINITION. The shared operations over registers, threads, journals and mailboxes; fetching; entering a block; taking an
exception, delivering it and returning from it. -/

set_option linter.constructorNameAsVariable false

namespace Sys2Proof.Machine

/-! ## Registers (R47, R93, R321) -/

/-- An access whose result a later write of a register overtakes: it no longer writes that register, nor q (R47). -/
def Access.overtaken (r : Reg) (x : Access) : Access :=
  { x with toQ := false, dest := if x.dest = r ∨ x.dest = 1 then 0 else x.dest }

namespace Thread

/-- The value and poison of an operand: z reads 0 with poison clear (R47). -/
def reg (t : Thread) (r : Reg) : Val := if r = 0 then Val.zero else t.raw r.toNat

/-- A result written to a register: z discards it and leaves q; any other register also writes q (R47). A tainted thread
writes every register with poison (R321). -/
def setReg (t : Thread) (r : Reg) (v : Val) : Thread :=
  if r = 0 then t
  else
    let x : Val := ⟨v.v, v.p || t.tnt⟩
    { t with
      regs := (t.regs.set Val.zero r.toNat x).set Val.zero 1 x
      written := withBit (withBit t.written r.toNat true) 1 true
      out := t.out.map (Access.overtaken r) }

/-- o_n written with q (R108 step 2). -/
def setO (t : Thread) (n : Nat) (v : Val) : Thread := t.setReg (Reg.o n) v

/-- The thread poison flag set when a predicate, a counter or a special register is written from a poisoned operand (R94). -/
def taintFlag (t : Thread) (p : Bool) : Thread := { t with tp := t.tp || p }

/-- Flags of an instruction ORed into s.rmode (R72). -/
def addFlags (t : Thread) (f : Flags) : Thread := { t with rmode := orFlags t.rmode f }

/-- One of c0 to c3 (R93). -/
def counter (t : Thread) (n : Nat) : Half :=
  match n with
  | 0 => t.c0
  | 1 => t.c1
  | 2 => t.c2
  | _ => t.c3

/-- A counter written. -/
def setCounter (t : Thread) (n : Nat) (v : Half) : Thread :=
  match n with
  | 0 => { t with c0 := v }
  | 1 => { t with c1 := v }
  | 2 => { t with c2 := v }
  | _ => { t with c3 := v }

/-- A predicate (R93). -/
def pred (t : Thread) (n : Nat) : Bool := bit n t.preds

/-- A predicate written. -/
def setPred (t : Thread) (n : Nat) (b : Bool) : Thread := { t with preds := withBit t.preds n b }

/-- Block length in the header as read (R61). -/
def blockLen (t : Thread) : Nat := natBits 54 10 t.hdr0

/-- Whether a g register of an operand code is live under a live-in mask; other registers always are (R95). -/
def liveCode (mask : Word) (code : Nat) : Bool := decide (code < 10) || bit (code - 10) mask

/-- Registers outside a live-in mask become dead: they read 0 with poison clear, and a load still under way to one has no
destination left (R95, R96). -/
def applyLive (t : Thread) (mask : Word) : Thread :=
  { t with
    regs := t.regs.filter (fun e => liveCode mask e.1)
    out := t.out.map (fun a => if liveCode mask a.dest.toNat then a else { a with dest := 0 }) }

/-- The thread enters READY before the instruction that it had issued, whose word is fetched; its age starts again (R87, R100). -/
def readied (t : Thread) (clock : Nat) : Thread :=
  { t with stat := .ready, code := some t.word, held := none, wait := .none, age := clock }

/-- The thread goes on (R87, R88): out of ISSUED it stays there until its next word has been fetched; from any other state it is READY,
and its age starts. -/
def onward (t : Thread) (clock : Nat) : Thread :=
  { t with stat := if t.stat = .issued then .issued else .ready
           wait := if t.stat = .issued then .stall .fetch else .none
           code := if t.stat = .issued then none else t.code
           held := none, age := clock }

/-- A thread of a gang that is neither FREE nor DONE (R324). -/
def livesIn (t : Thread) (h : Nat) : Bool := decide (t.owner = .gang h) && decide (t.stat ≠ .free) && decide (t.stat ≠ .done)

end Thread

/-- OP of a word. -/
def opOf (w : Word) : BitVec 8 := bits 56 8 w

/-- The registers that a word writes: D, and the second destination of MRECV. -/
def dests (w : Word) : List Reg := bits 50 6 w :: (if opOf w = 0xA7 then [bits 38 6 w] else [])

/-- The physical address of the context record of a context, given the gang's contexts on its core (R97, R294). -/
def Gang.recordAddr (g : Gang) (ctxs : List Nat) (c k : Nat) : Nat :=
  g.recs.1 + 1024 * (g.cores.idxOf c * g.ctx + ctxs.idxOf k)

/-- One step of the block signature (R40, R319). -/
def foldHash (h : Half) (w : Word) : Half :=
  let v : Half := BitVec.ofNat 32 (natBits 60 4 w * 2 ^ 18 + natBits 50 6 w * 2 ^ 12 + natBits 44 6 w * 2 ^ 6 + natBits 38 6 w)
  let x := (h ^^^ v) * 0x01000193
  x ^^^ (x >>> 15)

/-- The hash that a block starts with (R40). -/
def hashStart : Half := 0x2545F491

namespace State

/-- Operand of the running thread. -/
def reg (s : State) (r : Reg) : Val := s.me.reg r

/-! ## Journal (R322, R324) -/

/-- The gang that holds a core, when its open superstep is replayable. -/
def replaying (s : State) (span : Nat) : Option (Nat × Gang) :=
  match (s.spanAt span).gang with
  | some h => match s.gangAt h with
    | some g => if g.replay then some (h, g) else none
    | none => none
  | none => none

/-- A pending asynchronous trap set on a context that has none (R316). -/
def setAsync (s : State) (c k : Nat) (cause : BitVec 8) (tval : Word) : State :=
  s.modThread c k (fun t => if t.async.isNone then { t with async := some (cause, tval) } else t)

/-- The lowest-numbered context of a gang on a core that is neither FREE nor DONE (R324). -/
def liveContext (s : State) (h c : Nat) : Option Nat :=
  ((s.coreAt c).threads.filter (fun e => e.2.livesIn h)).head?.map (·.1)

/-- The thread behind a change that happens apart from its instruction (an access performed, a post, engine work), while its context
still holds it (R324). -/
def liveBy (s : State) (by_ : Option (Nat × Nat)) : Option (Nat × Nat) :=
  by_.filter (fun x => decide ((s.thread x.1 x.2).stat ≠ .free) && decide ((s.thread x.1 x.2).stat ≠ .done))

/-- A journal share overflows: the superstep becomes non-replayable and a thread receives JOURNAL_FULL, the one behind the change if
there is one, else the lowest live context of the gang on the first of its cores that holds one (R324). -/
def journalFull (s : State) (h : Nat) (share : Nat) (cores : List Nat) (by_ : Option (Nat × Nat)) : State :=
  let s := s.modGang h (fun g => { g with replay := false })
  match by_.or (cores.findSome? (fun c => (s.liveContext h c).map (fun k => (c, k)))) with
  | some (c, k) => s.setAsync c k Cause.journalFull (BitVec.ofNat 64 share)
  | none => s

/-- A journal unit of a core is state of a gang: the units of a context are those of the context's owner, and those of a table of the
table's (R322, R326). -/
def unitOfGang (s : State) (c h u : Nat) : Bool :=
  if 304 ≤ u ∧ u < 432 then decide ((s.thread c ((u - 304) / 2)).owner = .gang h)
  else if 432 ≤ u ∧ u < 496 then decide ((s.thread c (u - 432)).owner = .gang h)
  else if 496 ≤ u ∧ u < 608 then decide (((s.coreAt c).tables.get Table.free ((u - 496) / 14)).owner = .gang h)
  else if 640 ≤ u ∧ u < 896 then decide ((s.thread c ((u - 640) / 4)).owner = .gang h)
  else true

/-- A change to a unit of a core's state by a thread, or by no thread, is journalled (R322). -/
def touchCore (s : State) (c : Nat) (units : List Nat) (by_ : Option (Nat × Nat)) : State :=
  match s.replaying (spanOf c) with
  | none => s
  | some (h, _) =>
    let new := (units.filter (fun u => s.unitOfGang c h u && !(s.coreAt c).journal.contains u)).eraseDups
    if new.isEmpty then s
    else if (s.coreAt c).journal.length + new.length ≤ 96 then
      s.modCore c (fun x => { x with journal := x.journal ++ new })
    else s.journalFull h 0 [c] by_

/-- A change to a unit of a span's state is journalled (R322). -/
def touchSpan (s : State) (n : Nat) (units : List Nat) (by_ : Option (Nat × Nat)) : State :=
  match s.replaying n with
  | none => s
  | some (h, _) =>
    let new := (units.filter (fun u => !(s.spanAt n).journal.contains u)).eraseDups
    if new.isEmpty then s
    else if (s.spanAt n).journal.length + new.length ≤ 2048 then
      s.modSpan n (fun x => { x with journal := x.journal ++ new })
    else s.journalFull h 1 (spanCores n) by_

end State

/-- Journal unit of a byte of WBUF, ABUF or CBUF (R322). -/
def unitOfBuffer (sp : Space) (a : Nat) : Nat :=
  match sp with
  | .wb => a / 256
  | .ab => 160 + a / 256
  | .cb => 240 + a / 256
  | .gl => 0
  | .sp => 0
  | .cx => 0

/-- Journal unit of a g register of a context: 32 entries of the register cache (R322). -/
def unitOfReg (ctx n : Nat) : Nat := 304 + 2 * ctx + n / 32

/-- Journal unit of a byte of a context record: one quarter of the record (R322). -/
def unitOfRecord (ctx byte : Nat) : Nat := 640 + 4 * ctx + byte / 256

/-- Journal unit of the per-thread state of a context (R322). -/
def unitOfThread (ctx : Nat) : Nat := 432 + ctx

/-- Journal units of a bank of a table; bank 0 is the active one and carries the generation (R322). -/
def unitsOfBank (tbl bank : Nat) : List Nat := (List.range 7).map (fun i => 496 + (tbl * 2 + bank) * 7 + i)

/-- Journal unit of an entry of a bank (R322). -/
def unitOfEntry (tbl bank entry : Nat) : Nat := 496 + (tbl * 2 + bank) * 7 + entry / 10

/-- Journal unit of a counter of the counter file (R322). -/
def unitOfCounter (idx : Nat) : Nat := 608 + idx / 64

/-- Journal units of a mailbox with its reservations and ticket counters (R322). -/
def unitsOfMailbox : List Nat := [612, 613, 614, 615]

/-- Journal unit of the ring handles (R322). -/
def unitOfRings : Nat := 616

/-- Journal units of the matrix state (R322). -/
def unitsOfMatrix : List Nat := (List.range 20).map (617 + ·)

/-- Journal unit of the event unit of a span (R322); the scratchpad lines are units 0 to 7,167. -/
def unitOfEvents : Nat := 7168

namespace State

/-- A result written to a register of a context. -/
def setRegAt (s : State) (c k : Nat) (r : Reg) (v : Val) : State :=
  let s := s.modThread c k (fun t => t.setReg r v)
  if 10 ≤ r.toNat then s.touchCore c [unitOfReg k (r.toNat - 10)] (some (c, k)) else s

/-- A result written to a register of the running thread. -/
def setD (s : State) (r : Reg) (v : Val) : State := s.setRegAt s.core s.ctx r v

/-! ## The register cache (R95 to R97) -/

/-- The contexts of a gang in a core. -/
def ctxsOf (x : Core) (h : Nat) : List Nat := (x.threads.filter (fun e => decide (e.2.owner = .gang h))).map (·.1)

/-- Where the context record of a context of a gang stands; a supervisor's context has none (log 18). -/
def recordOf (s : State) (c k : Nat) : Option Nat :=
  match (s.thread c k).gang?, s.gangOf (s.thread c k) with
  | some h, some g => some (g.recordAddr (ctxsOf (s.coreAt c) h) c k)
  | _, _ => none

/-- The value and poison of a register that the cache has written back to its context record (R96). -/
def evictedVal (s : State) (c e : Nat) : Option Val :=
  if (s.coreAt c).evicted.contains e then
    (s.recordOf c (e / 64)).map (fun pa => ⟨s.physWord (pa + 8 * (e % 64)), bit (e % 64) (s.physWord (pa + 440))⟩)
  else none

/-- A context as its registers read through the register cache (R97). -/
def cachedThread (s : State) (c k : Nat) : Thread :=
  let t := s.thread c k
  { t with regs := (s.coreAt c).evicted.foldl (fun m e => match s.evictedVal c e with
      | some v => if e / 64 = k then m.set Val.zero (e % 64 + 10) v else m
      | none => m) t.regs }

/-! ## Fetching words (R61, R62, R92, R336, R341) -/

/-- A code word through a core's translation and its fetched copies (log 10). -/
def fetchCode (s : State) (c : Nat) (tenant : Option Nat) (va : Nat) : Except (BitVec 8) (Word × State) :=
  match s.coreTranslate c tenant va .fetch with
  | .error e => .error e
  | .ok (pa, s) =>
    match (s.coreAt c).icache.find? (fun x => decide (x.tenant = tenant) && decide (x.va = va) && decide (x.pa = pa)) with
    | some x => .ok (x.word, s)
    | none =>
      let w := s.physWord pa
      let page : Nat × Nat := match tenant.bind (fun t => tlbFind (s.coreAt c).tlb t va) with
        | some x => (x.va, x.size)
        | none => (va, 8)
      .ok (w, s.modCore c (fun x => { x with icache := ⟨tenant, page.1, page.2, va, pa, w⟩ :: x.icache }))

/-- The word at an offset of the block in which a context stands becomes its next word, fetched (R62, R87); none where the fetch faults:
then it is fetched again as the thread issues, in ISSUED, and faults there (R88 lists no trap out of READY). -/
def prefetch (s : State) (c k off : Nat) : State :=
  let t := s.thread c k
  match s.fetchCode c (s.tenantOf t) (8 * (t.pcBlk.toNat + 2 + off)) with
  | .ok (w, s) => s.modThread c k (fun t => { t with code := some w })
  | .error _ => s.modThread c k (fun t => { t with code := none })

/-! ## Retiring, waiting -/

/-- The instruction of a context retires (R88): its word is folded (R319), the next word stands at the next offset, and the
thread goes on. -/
def retireAt (s : State) (c k : Nat) : State :=
  let s := s.modThread c k (fun t =>
    ({ t with hash := foldHash t.hash t.word, pcOff := t.pcOff + 1, haltAt := none } : Thread).onward s.clock)
  s.touchCore c [unitOfThread k] (some (c, k))

/-- The running instruction retires. -/
def retire (s : State) : State := s.retireAt s.core s.ctx

/-- A result is written and the instruction retires. -/
def finish (s : State) (r : Reg) (v : Val) : State := (s.setD r v).retire

/-- A clean result is written to a context and its instruction retires. -/
def finishAt (s : State) (c k : Nat) (r : Reg) (v : Word) : State := (s.setRegAt c k r ⟨v, false⟩).retireAt c k

/-- The running thread parks (R88). Its next word is fetched, so that it is READY as soon as its wait ends (R87). -/
def park (s : State) (w : Wait) : State :=
  ((s.modMe (fun t => { t with stat := .parked, wait := w })).touchCore s.core [unitOfThread s.ctx] (some (s.core, s.ctx))).prefetch
    s.core s.ctx (s.me.pcOff + 1)

/-- The running thread stays in ISSUED and tries again (R87). -/
def stall (s : State) (why : Stall) : State := s.modMe (fun t => { t with stat := .issued, wait := .stall why })

/-! ## The end of a thread -/

/-- A mutex is given to the head of its queue, which gets a status, or becomes free (R244). -/
def passMutex (s : State) (span n : Nat) (status : Nat) (by_ : Option (Nat × Nat)) : State :=
  let s := s.touchSpan span [unitOfEvents] by_
  let m := (s.spanAt span).mutexes.get ⟨none, [], false⟩ n
  match m.queue with
  | [] => s.modSpan span (fun x => { x with mutexes := x.mutexes.put n ⟨none, [], status == 5⟩ })
  | (c, k) :: r =>
    let s := s.modSpan span (fun x => { x with mutexes := x.mutexes.put n ⟨some (c, k), r, false⟩ })
    match (s.thread c k).wait with
    | .mutex d _ => s.finishAt c k d (BitVec.ofNat 64 (status * 2 ^ 32))
    | _ => s

/-- Every access and every post of a context has been performed (R91). -/
def performedAll (s : State) (c k : Nat) : Bool :=
  (s.thread c k).out.isEmpty && s.posts.all (fun x => decide (x.by_ ≠ some (c, k)))

/-- The unit releases the mutexes of a holder that becomes DONE (R244). -/
def orphanMutexes (s : State) (c k : Nat) : State :=
  let span := spanOf c
  (List.range 16).foldl (fun s n =>
    if ((s.spanAt span).mutexes.get ⟨none, [], false⟩ n).owner = some (c, k) then s.passMutex span n 5 none else s) s

/-- Every context that a gang has claimed is DONE or FREE (R299 DRAINING). -/
def allDone (s : State) (h : Nat) (g : Gang) : Bool :=
  g.cores.all (fun c => (s.coreAt c).threads.all (fun e =>
    decide (e.2.owner ≠ .gang h) || decide (e.2.stat = .done) || decide (e.2.stat = .free)))

/-- A running gang whose contexts are all DONE starts draining (R299). -/
def checkDrain (s : State) (h : Nat) : State :=
  match s.gangAt h with
  | some g => if g.stat = .running && s.allDone h g then s.modGang h (fun g => { g with stat := .draining }) else s
  | none => s

/-- A post leaves for a counter target of 22 bits (R277), by a thread, by a record's launch, copy or list, or by neither. -/
def sendPostOf (s : State) (tenant gang : Option Nat) (by_ : Option (Nat × Nat)) (rec_ : Option Nat) (ct : Nat) (inc : Half) : State :=
  { s with posts := s.posts ++ [{ tenant := tenant, gang := gang, by_ := by_, rec_ := rec_, core := ct % 2 ^ 14,
                                  idx := ct / 2 ^ 14 % 256, inc := inc }] }

/-- A post that no record sends leaves for a counter target. -/
def sendPost (s : State) (tenant gang : Option Nat) (by_ : Option (Nat × Nat)) (ct : Nat) (inc : Half) : State :=
  s.sendPostOf tenant gang by_ none ct inc

/-- A post by the scheduler for a record's counter field: [lo+21:lo] the target, [lo+22] whether it is used (R277, R282). -/
def postField (s : State) (tenant id : Nat) (w : Word) (lo : Nat) : State :=
  if bit (lo + 22) w then s.sendPostOf (some tenant) none none (some id) (natBits lo 22 w) 1 else s

/-- The contexts that a gang has claimed, on its cores or in its swap image. -/
def teamThreads (s : State) (h : Nat) (g : Gang) : List Thread :=
  let cores : SMap Core := match g.image with
    | some img => img.cores
    | none => s.cores.filter (fun e => g.cores.contains e.1)
  cores.flatMap (fun e => (e.2.threads.map (·.2)).filter (fun t => decide (t.owner = .gang h)))

/-- A gang of a launch holds its trigger point back no more: every thread that is not FREE has triggered, or is DONE with its
accesses and its posts performed, so that what reads TCT sees them (R284, R285). -/
def gangTriggered (s : State) (h : Nat) : Bool :=
  match s.gangAt h with
  | some g => (s.teamThreads h g).all (fun t => decide (t.stat = .free) || (decide (t.stat = .done) && t.out.isEmpty) || t.trig) &&
      s.posts.all (fun p => decide (p.gang ≠ some h) || (match p.by_ with
        | some (c, k) => decide ((s.thread c k).stat ≠ .done) || (s.thread c k).trig
        | none => true))
  | none => true

/-- The trigger point of a launch, once every gang has started and every thread has triggered: TCT is posted (R284). An aborted
launch posts none (R302). -/
def checkTrigger (s : State) (id : Nat) : State :=
  match s.launches.find? (fun l => l.id = id) with
  | none => s
  | some l =>
    if !l.trigged && !l.aborted && l.waiting.isEmpty && l.handles.all s.gangTriggered then
      let s : State := { s with launches := s.launches.map (fun x => if x.id = id then { x with trigged := true } else x) }
      s.postField l.tenant id (l.words.getD 6 0) 32
    else s

/-- The mutexes of a context that has become DONE are released once its accesses and posts are performed, for the next taker acquires what
the holder did (R244, R264): at once, or at CONTEXT_RELEASE. -/
def leaveMutexes (s : State) (c k : Nat) : State := if s.performedAll c k then s.orphanMutexes c k else s

/-- A context becomes DONE (R88). -/
def makeDone (s : State) (c k : Nat) : State :=
  let s := s.modThread c k (fun t => { t with stat := .done, code := none, held := none, wait := .none, async := none, haltReq := false })
  let s := s.touchCore c [unitOfThread k] none
  let s := s.leaveMutexes c k
  match (s.thread c k).gang? with
  | some h =>
    let s := s.checkDrain h
    match s.gangAt h with
    | some g => s.checkTrigger g.launch
    | none => s
  | none => s

/-- The gang of a context is aborting (R302). -/
def aborting (s : State) (c k : Nat) : Bool :=
  match s.gangOf (s.thread c k) with
  | some g => decide (g.stat = .aborting)
  | none => false

/-- A cancel has reached the core of a thread of the cancelled sibling (R353). -/
def cancelled (s : State) (c k : Nat) : Bool :=
  match (s.thread c k).owner with
  | .gang _ => (s.coreAt c).cancel
  | .none => false
  | .sup => false

/-- A context becomes FREE or triggers: the launch of its gang may reach its trigger point (R284). -/
def retestTrigger (s : State) (t : Thread) : State :=
  match s.gangOf t with
  | some g => s.checkTrigger g.launch
  | none => s

/-- The running thread ends by NEXT or STOP: IH is cleared (R114) and it is DONE. -/
def endThread (s : State) : State := (s.modMe (fun t => { t with ih := false })).makeDone s.core s.ctx

/-- A context in ISSUED whose instruction is of bounded duration retires before its core is halted (R304, R326). -/
def mustRetire (t : Thread) : Bool :=
  match t.stat, t.wait with
  | .issued, .stall .register => true
  | .issued, .stall .miss => true
  | .issued, .stall .order => true
  | .issued, .stall .table => true
  | .issued, .stall .vector => true
  | .issued, .stall .ring => true
  | .issued, .stall .answer => true
  | .issued, .stall .epilogue => true
  | .issued, .stall .inval => true
  | .issued, .stall .fetch => true
  | _, _ => false

/-- A thread may issue: its gang runs or aborts and is not brought to a halt, or its instruction must retire first; a supervisor
thread has no gang (R92, R299, R302, R304, R326). -/
def mayIssue (s : State) (t : Thread) : Bool :=
  match t.owner with
  | .sup => true
  | .none => false
  | .gang _ => match s.gangOf t with
    | some g =>
      if g.rolling || decide (g.stat = .halting) then
        (decide (g.stat = .running) || decide (g.stat = .halting)) && mustRetire t
      else decide (g.stat = .running) || decide (g.stat = .aborting)
    | none => false

/-! ## Taking an exception (R114, R314 to R316, R326, R328) -/

/-- A context raises a trap: s.cause, s.tpc and s.tval are written and the thread is TRAPPED (R314, R316). A trap of an aborting
gang is dropped and the thread is DONE (R302). POISON_CONSUMED in a replayable superstep rolls the gang back instead, up to
three times, and one raised while a halt or a rollback is under way is discarded (R326, R328, R329). -/
def raiseTrapAt (s : State) (c k : Nat) (cause : BitVec 8) (tval : Word) : State :=
  let t := s.thread c k
  let trapped (cause : BitVec 8) (tval : Word) (s : State) : State :=
    (s.modThread c k (fun t => { t with stat := .trapped, cause := cause, tpc := pcWord t.pcBlk t.pcOff, tval := tval,
                                        code := none, held := none, wait := .none, age := s.clock })).touchCore c [unitOfThread k]
      (some (c, k))
  let withdrawn (s : State) : State := s.modThread c k (fun t => t.readied s.clock)
  match t.gang? with
  | none => trapped cause tval s
  | some h => match s.gangAt h with
    | none => trapped cause tval s
    | some g =>
      if g.stat = .aborting then s.makeDone c k
      else if cause = Cause.poisonConsumed && g.replay then
        if g.rolling || g.stat = .halting then withdrawn s
        else if g.replays ≥ 3 then trapped Cause.replayLimit 3 s
        else (withdrawn s).modGang h (fun g => { g with rolling := true })
      else trapped cause tval s

/-- The running thread raises a trap. -/
def raiseTrap (s : State) (cause : BitVec 8) (tval : Word) : State := s.raiseTrapAt s.core s.ctx cause tval

/-- A trap for which the manual states no s.tval: it receives a free value (log 11). -/
def raiseOpen (s : State) (cause : BitVec 8) : State := s.freeValue.2.raiseTrap cause s.freeValue.1

/-- POISON_CONSUMED where the entry states no s.tval: the instruction word (R314). -/
def raisePoison (s : State) : State := s.raiseTrap Cause.poisonConsumed s.me.word

/-! ## Counting (R355) -/

/-- The accounting counters of a context's sibling change, once a cancel has reached its core (R355). -/
def countSibling (s : State) (c k : Nat) (f : Nat → Group → Group) : State :=
  if s.cancelled c k then
    match s.gangOf (s.thread c k) with
    | some g => match g.group with
      | some slot =>
        let i := 64 * g.tenant + slot
        { s with groups := s.groups.put i (f g.sib (s.groups.get Group.free i)) }
      | none => s
    | none => s
  else s

/-- A block that a context enters is counted (R355). -/
def countBlock (s : State) (c k : Nat) : State :=
  s.countSibling c k (fun sib x => { x with blk := x.blk.put sib (min (x.blk.get 0 sib + 1) (2 ^ 32 - 1)) })

/-- Thread-cycles in ISSUED are counted (R355). -/
def countCycles (s : State) (c k n : Nat) : State :=
  s.countSibling c k (fun sib x => { x with cyc := x.cyc.put sib (min (x.cyc.get 0 sib + n) (2 ^ 32 - 1)) })

/-- Register-cache entries of a context that a live-in mask leaves out are dropped, and nothing of them is written back (R95,
R96). -/
def dropDead (s : State) (c k : Nat) (mask : Word) : State :=
  let keep (e : Nat) : Bool := decide (e / 64 ≠ k) || Thread.liveCode mask (e % 64 + 10)
  s.modCore c (fun x => { x with resident := x.resident.filter keep, evicted := x.evicted.filter keep })

/-- Journal units of the g registers of a context that a live-in mask leaves out, but of those that read as 0 already (R322). -/
def deadUnits (s : State) (c k : Nat) (mask : Word) : List Nat :=
  let written := (s.coreAt c).evicted.filter (fun e => decide (e / 64 = k))
  let codes := (s.thread c k).regs.map (·.1) ++ written.map (fun e => e % 64 + 10)
  (codes.filter (fun code => !Thread.liveCode mask code)).map (fun code => unitOfReg k (code - 10))

/-- The g registers of a context that a live-in mask leaves out become dead, and nothing of them is written back (R95, R96); the
change is a thread's, or no thread's. -/
def killRegs (s : State) (c k : Nat) (mask : Word) (by_ : Option (Nat × Nat)) : State :=
  (((s.touchCore c (s.deadUnits c k mask) by_).modThread c k (fun t => t.applyLive mask))).dropDead c k mask

/-- The header of the block in which a context stands is read (R61). A length of 0 traps ILLEGAL_OP before the offset is compared with it,
also where CTXLOAD.thr has set that offset, for which R309 names RANGE, and s.tpc names the offset as it is (DESIGN CHOICE, log 42). With mask, registers outside its live-in mask become dead
(R95); a thread moved the context there, or none did. A pending entry by NEXT is checked against the mask of the block it left (R108, R321). -/
def readHeader (s : State) (c k : Nat) (mask : Bool) (by_ : Option (Nat × Nat)) : State :=
  let t := s.thread c k
  let va := 8 * t.pcBlk.toNat
  match s.fetchCode c (s.tenantOf t) va with
  | .error e => s.raiseTrapAt c k e (BitVec.ofNat 64 va)
  | .ok (w0, s) =>
    match s.fetchCode c (s.tenantOf t) (va + 8) with
    | .error e => s.raiseTrapAt c k e (BitVec.ofNat 64 (va + 8))
    | .ok (w1, s) =>
      let s := s.modThread c k (fun t => { t with hdr0 := w0, hdr1 := w1, loaded := true, entering := none })
      let s := if mask then s.killRegs c k w0 by_ else s
      let s := match t.entering with
        | some m =>
          let bad := !bit (natBits 12 4 w1) m
          s.modThread c k (fun t => { t with tnt := bad, tp := t.tp || bad })
        | none => s
      if natBits 54 10 w0 = 0 then s.raiseTrapAt c k Cause.illegalOp w0
      else if t.pcOff ≥ natBits 54 10 w0 then s.raiseTrapAt c k Cause.range (pcWord t.pcBlk t.pcOff)
      else s

/-- The word at which a READY thread stands is fetched, and the header of its block before it where that has not been read (R87). Where
either faults, or the position is none of the block, that is left to the issue. -/
def primed (s : State) (c k : Nat) : State :=
  if (s.thread c k).stat = .ready then
    let u := if (s.thread c k).loaded then s else s.readHeader c k false (some (c, k))
    let t := u.thread c k
    if t.stat = .ready then if t.pcOff < t.blockLen then u.prefetch c k t.pcOff else u else s
  else s

/-- A context enters a block at offset 0 (R61, R95, R319), moved there by a thread or by no thread: out of ISSUED it stays there until the
word has been fetched, and from any other state it is READY with it (R87, R88). -/
def enterBlock (s : State) (c k : Nat) (blk : Half) (leaving : Option (BitVec 16)) (mask : Bool) (by_ : Option (Nat × Nat)) : State :=
  let s := s.modThread c k (fun t =>
    ({ t with pcBlk := blk, pcOff := 0, loaded := false, entering := leaving, hash := hashStart, hashOk := true,
              written := 0, haltAt := none, code := none } : Thread).onward s.clock)
  ((s.touchCore c [unitOfThread k] by_).readHeader c k mask by_).primed c k

end State

/-! ## Mailboxes (R211, R231, R232) -/

/-- A message header (R211). -/
def msgHeader (tag : BitVec 16) (status kind : Nat) (flags : BitVec 6) (pz : Bool) (origin : Nat) : Word :=
  BitVec.ofNat 64 (tag.toNat + status % 32 * 2 ^ 16 + kind % 8 * 2 ^ 21 + flags.toNat * 2 ^ 24 +
    (if pz then 2 ^ 30 else 0) + 2 ^ 31 + origin % 2 ^ 32 * 2 ^ 32)

/-- A message matches a filter (R231). -/
def Msg.matches (m : Msg) (tag mask : Nat) : Bool := decide (natBits 0 16 m.header &&& mask = tag &&& mask)

/-- Poison of a message's payload (R211 PZ). -/
def Msg.pz (m : Msg) : Bool := bit 30 m.header

namespace State

/-- The mailbox that a context reads (R232). -/
def mailFor (s : State) (c k : Nat) : List Msg :=
  match (s.thread c k).owner with
  | .sup => s.supMail
  | .none => (s.coreAt c).mail
  | .gang _ => (s.coreAt c).mail

/-- Parked MWAITs of a core test again (R231). -/
def retestMail (s : State) (c : Nat) : State :=
  (s.coreAt c).threads.foldl (fun s e =>
    let t := s.thread c e.1
    match t.stat, t.wait with
    | .parked, .mailbox d tag mask =>
      match (s.mailFor c e.1).find? (fun m => m.matches tag mask) with
      | some m => s.finishAt c e.1 d m.header
      | none => s
    | _, _ => s) s

/-- Notifications move from the scheduler into the supervisor mailbox while it has room (R232). -/
def storeNotes (s : State) : State :=
  match s.notes with
  | [] => s
  | m :: r =>
    if s.supMail.length < 64 then ({ s with supMail := s.supMail ++ [m], notes := r }).retestMail 0 else s

/-- The scheduler notifies supervisor firmware (R232). -/
def notify (s : State) (m : Msg) : State := { s with notes := s.notes ++ [m] }

/-- The notification of a trap or of a breakpoint halt (R232). -/
def notifyThread (s : State) (c k : Nat) (tag : BitVec 16) (payload : Word) : State :=
  let tenant := (s.tenantOf (s.thread c k)).getD 0
  s.notify ⟨payload, msgHeader tag 0 4 0 false (c + k * 2 ^ 14 + tenant * 2 ^ 20)⟩

/-- A management report over the sideband path (R20). -/
def report (s : State) (r : Report) : State := { s with reports := s.reports ++ [r] }

/-- A PAGE_FAULT joins the pending set (R338): the first fault on a page is notified, later ones only join its list. -/
def pageFaulted (s : State) (c k : Nat) : State :=
  let t := s.thread c k
  match s.tenantOf t, t.gang? with
  | some n, some h =>
    let va := t.tval.toNat / 2 ^ 16 * 2 ^ 16
    if s.pend.any (fun p => decide (p.tenant = n) && decide (p.va = va)) then
      { s with pend := s.pend.map (fun p =>
          if p.tenant = n ∧ p.va = va then { p with list := p.list ++ [⟨h, c, k⟩] } else p) }
    else ({ s with pend := s.pend ++ [PendPage.mk n va [⟨h, c, k⟩]] } : State).notifyThread c k 0x0005 t.tval
  | _, _ => s

/-- Delivery to supervisor firmware (R315): the thread is HALTED and the firmware notified. -/
def deliverToSupervisor (s : State) (c k : Nat) : State :=
  let t := s.thread c k
  let s := (s.modThread c k (fun t => { t with stat := .halted, haltAt := some (t.pcBlk, t.pcOff) })).touchCore c
    [unitOfThread k] (some (c, k))
  match t.owner with
  | .sup => s.report (.supTrap c k t.cause)
  | .none => s
  | .gang _ => if t.cause = Cause.pageFault then s.pageFaulted c k else s.notifyThread c k (zext t.cause |>.setWidth 16) t.tval

/-- A trap delivery at the core arbiter (R114): the user trap block with IH set, or the supervisor. -/
def deliverTrap (s : State) (c k : Nat) : State :=
  let t := s.thread c k
  if t.stat ≠ .trapped then s
  else
    match s.gangOf t with
    | some g =>
      if userRecoverable t.cause && decide (g.trap ≠ 0) && !t.ih then
        ((s.modThread c k (fun t => { t with ih := true })).countBlock c k).enterBlock c k g.trap none false (some (c, k))
      else s.deliverToSupervisor c k
    | none => s.deliverToSupervisor c k

/-! ## Returning from an exception (TRET; SRET of R331) -/

/-- The block and offset that s.tpc names (R101). -/
def tpcOf (t : Thread) (skip : Bool) : Half × Nat :=
  (bits 0 32 t.tpc, natBits 32 10 t.tpc + (if skip then 1 else 0))

/-- The length of a block, read through a thread's translation. -/
def blockLength (s : State) (c : Nat) (tenant : Option Nat) (blk : Half) : Except (BitVec 8) (Nat × State) :=
  match s.fetchCode c tenant (8 * blk.toNat) with
  | .error e => .error e
  | .ok (w, s) => .ok (natBits 54 10 w, s)

/-- A context resumes at a position with every register kept (R95). At offset 0 the running hash starts afresh; elsewhere it goes
on when the position is the one at which the thread halted, and else it is broken (R319). The successor-class check of a NEXT whose
entry could not read its header stays due where the thread resumes at that entry, and is dropped where it goes anywhere else, the
user trap block among it (R108 does not say, DESIGN CHOICE, log 42). -/
def resumeAt (s : State) (c k : Nat) (blk : Half) (off : Nat) : State :=
  ((s.modThread c k (fun t =>
    let same := decide (t.haltAt = some (blk, off))
    let t := ({ t with pcBlk := blk, pcOff := off, loaded := false, code := none, haltAt := none } : Thread).onward s.clock
    if off = 0 then { t with hash := hashStart, hashOk := true, written := 0, entering := if same then t.entering else none }
    else if same then t
    else { t with hashOk := false, entering := none })).touchCore c [unitOfThread k] (some (c, k))).primed c k

/-- TRET: back to s.tpc, or to the word after it, with IH clear. -/
def trapReturn (s : State) (skip : Bool) : State :=
  let t := s.me
  if !t.ih then s.raiseTrap Cause.illegalOp t.word
  else
    let p := tpcOf t skip
    match s.blockLength s.core (s.tenantOf t) p.1 with
    | .error e =>
      -- the header read of the block it returns to faults (R336)
      (s.modMe (fun t => { t with pcBlk := p.1, pcOff := 0, loaded := false })).raiseTrap e
        (BitVec.ofNat 64 (8 * p.1.toNat))
    | .ok (len, s) =>
      if p.2 ≥ len then s.raiseTrap Cause.range t.tpc
      else (s.modMe (fun t => { t with ih := false, haltAt := none })).resumeAt s.core s.ctx p.1 p.2

/-! ## The last word of a block (R319, R320) -/

/-- The last word of a block begins to take effect: it is folded, the hash is compared with the header, and on a mismatch
every register that the block wrote and the thread poison flag are poisoned; none of them stands in its context record any more
(R96). The word counts as retired here, so a later resumption at it finds the hash broken. -/
def lastWord (s : State) : State :=
  let bad : Bool := s.me.hashOk && (s.me.forceMis || decide (foldHash s.me.hash s.me.word ≠ bits 32 32 s.me.hdr1))
  let units := ((setBits s.me.written).filter (fun code => 10 ≤ code)).map (fun code => unitOfReg s.ctx (code - 10))
  let current (e : Nat) : Bool := decide (e / 64 ≠ s.ctx) || !bit (e % 64 + 10) s.me.written
  let s := if bad then (s.touchCore s.core (unitOfThread s.ctx :: units) (some (s.core, s.ctx))).modCore s.core (fun x =>
    { x with evicted := x.evicted.filter current }) else s
  s.modMe (fun t =>
    let t := { t with hash := foldHash t.hash t.word, hashOk := false }
    if bad then
      { t with
        forceMis := false
        tp := true
        regs := (setBits t.written).foldl (fun m code =>
          if code = 0 then m else m.set Val.zero code ⟨(m.get Val.zero code).v, true⟩) t.regs
        out := t.out.map (fun a => if bit a.dest.toNat t.written || a.toQ && bit 1 t.written then { a with taint := true } else a) }
    else t)

end State

end Sys2Proof.Machine
end

