-- ==== Sys2Proof/Machine/Operands.lean ====
section
/-! DEFINITION. Operand forms: rounding mode, immediates, effective addresses, and the shapes that scalar instructions share
(read the operands, compute, write the result with its poison, retire). -/

set_option linter.constructorNameAsVariable false

namespace Sys2Proof.Machine

/-- The mode of a rounding sub-field (R54, R118): code 0 takes s.rmode[1:0]. -/
def roundingOf (rmode : Word) : Rnd → RMode
  | .mode => RMode.ofBits (bits 0 2 rmode)
  | .rne => .rne
  | .rz => .rz
  | .rup => .rup
  | .rdn => .rdn

/-- The effective address of the M format (R146). -/
def effAddr (base : Word) (disp : BitVec 24) : Word := base + sext disp

namespace State

/-- The mode of a rounding sub-field for the running thread (R118). -/
def rounding (s : State) (m : Rnd) : RMode := roundingOf s.me.rmode m

/-- D := f(A, B); the poison of D is the OR of both (R116). -/
def binop (s : State) (f : Word → Word → Word) (d a b : Reg) : State :=
  s.finish d ⟨f (s.reg a).v (s.reg b).v, (s.reg a).p || (s.reg b).p⟩

/-- D := f(A, v) with an immediate; the poison of D is that of A (R122). -/
def immop (s : State) (f : Word → Word → Word) (d a : Reg) (v : Word) : State :=
  s.finish d ⟨f (s.reg a).v v, (s.reg a).p⟩

/-- D := f(A); the poison of D is that of A (R116). -/
def unop (s : State) (f : Word → Word) (d a : Reg) : State := s.finish d ⟨f (s.reg a).v, (s.reg a).p⟩

/-- pN := b from operands whose poison is p; q is not written (R116, R117). -/
def predop (s : State) (n : BitVec 3) (b p : Bool) : State :=
  (s.modMe (fun t => (t.setPred n.toNat b).taintFlag p)).retire

/-- Bits [31:0] of an operand, as an FP32 encoding (R118). -/
def fpReg (s : State) (r : Reg) : Nat := natBits 0 32 (s.reg r).v

/-- An FP32 result with its flags: zeros to D[63:32], flags ORed into s.rmode (R118). -/
def fpFinish (s : State) (d : Reg) (r : Nat × Flags) (p : Bool) : State :=
  (s.modMe (fun t => t.addFlags r.2)).finish d ⟨BitVec.ofNat 64 (r.1 % 2 ^ 32), p⟩

/-- D := f(A, B) in FP32 with a rounding mode (R118, R137). -/
def fpBin (s : State) (f : RMode → Nat → Nat → Nat × Flags) (d a b : Reg) (m : Rnd) : State :=
  s.fpFinish d (f (s.rounding m) (s.fpReg a) (s.fpReg b)) ((s.reg a).p || (s.reg b).p)

/-- D := f(A) in FP32 (R143). -/
def fpUn (s : State) (f : Nat → Nat × Flags) (d a : Reg) : State :=
  s.fpFinish d (f (s.fpReg a)) (s.reg a).p

end State

end Sys2Proof.Machine
end

