-- ==== Sys2Proof/Machine/Keystone.lean ====
section
/-! DEFINITION. Match tables and the keystone (spec/06): a team's tables, the key, the lookup, the action, and the K-format
instructions. -/

set_option linter.constructorNameAsVariable false

namespace Sys2Proof.Machine

namespace State

/-- A physical table of a core. -/
def tableAt (s : State) (c n : Nat) : Table := (s.coreAt c).tables.get Table.free n

/-- The state with a physical table of a core changed. -/
def modTable (s : State) (c n : Nat) (f : Table → Table) : State :=
  s.modCore c (fun x => { x with tables := x.tables.put n (f (x.tables.get Table.free n)) })

/-- The physical table that the running thread's team names tbN (R102). -/
def teamTable (s : State) (tb : Nat) : Option Nat :=
  if s.me.owner = .none then none
  else ((List.range 8).filter (fun n => decide ((s.tableAt s.core n).owner = s.me.owner)))[tb]?

/-- Goes on with the physical number of a table of the team, or traps TABLE_IDX with the table number (R102). -/
def withTable (s : State) (tb : BitVec 3) (k : Nat → State) : State :=
  match s.teamTable tb.toNat with
  | some n => k n
  | none => s.raiseTrap Cause.tableIdx (zext tb)

/-- The running thread waits in ISSUED for work on a table to end; its place among those that wait is where it arrived (R17, R112). -/
def queueTable (s : State) : State := (s.stall .table).modMe (fun t => { t with age := s.clock })

/-- Goes on when no refresh or clear of a table is in progress; else the thread waits in ISSUED (R112). -/
def whileBusy (s : State) (n : Nat) (k : State) : State :=
  if (s.tableAt s.core n).busy.isSome then s.queueTable else k

/-- The key of R104 for the running thread: the predicates, the zero flags of the counters, the cancel, the poison, the value
of A and the tag of the block. -/
def buildKey (s : State) (a : Reg) : Word :=
  let t := s.me
  let z (n : Nat) : Nat := if t.counter n = 0 then 2 ^ (8 + n) else 0
  BitVec.ofNat 64 (t.preds.toNat + z 0 + z 1 + z 2 + z 3 + (if s.cancelled s.core s.ctx then 2 ^ 12 else 0)
    + (if (s.reg a).p || t.tp then 2 ^ 13 else 0) + natBits 0 32 (s.reg a).v * 2 ^ 16 + natBits 0 12 t.hdr1 * 2 ^ 48)

end State

/-- An entry matches a key (R105). -/
def TEntry.hits (e : TEntry) (k : Word) : Bool := decide ((k ^^^ e.key) &&& e.mask = 0)

/-- The winner: the matching entry of lowest index among the 64 of the active bank (R105). -/
def Table.winner (t : Table) (k : Word) : Option Nat :=
  (List.range 64).find? (fun i => (t.active.get TEntry.never i).hits k)

/-- A part of an entry (R50, R105). -/
def TEntry.part (e : TEntry) : Part → Word
  | .key => e.key
  | .mask => e.mask
  | .act => e.act

/-- An entry with a part replaced. -/
def TEntry.setPart (e : TEntry) (p : Part) (w : Word) : TEntry :=
  match p with
  | .key => { e with key := w }
  | .mask => { e with mask := w }
  | .act => { e with act := w }

namespace State

/-- The counter operation of an action (R106 COP, R108 step 1). -/
def counterOp (t : Thread) (act : Word) : Thread :=
  let n := natBits 48 2 act
  match natBits 50 2 act with
  | 0 => t
  | 1 => t.setCounter n (t.counter n - 1)
  | 2 => t.setCounter n ((bits 32 16 act).setWidth 32)
  | _ => t.setCounter n 0

/-- The action of the winner (R108): counter operation, o7, end of trap handling, then stop or entry to TARGET. -/
def applyAction (s : State) (act : Word) : State :=
  let leaving : BitVec 16 := bits 16 16 s.me.hdr1
  let s := s.modMe (fun t => counterOp t act)
  let s := if bit 52 act then s.setD (Reg.o 7) ⟨zext (bits 32 16 act), false⟩ else s
  let s := s.modMe (fun t => { t with ih := false })
  if bit 53 act then s.makeDone s.core s.ctx
  else (s.countBlock s.core s.ctx).enterBlock s.core s.ctx (bits 0 32 act) (some leaving) true
    (some (s.core, s.ctx))

/-- NEXT once its word has been folded and checked (R107). -/
def nextLookup (s : State) (n : Nat) (a : Reg) : State :=
  let k := s.buildKey a
  let tbl := s.tableAt s.core n
  let w := tbl.winner k
  let routes (b : Nat) : Bool := match w with
    | some i => bit b (tbl.active.get TEntry.never i).mask
    | none => false
  if bit 12 k && !routes 12 then s.endThread
  else if bit 13 k && !routes 13 then s.raiseTrap Cause.poisonConsumed k
  else match w with
    | none => s.raiseTrap Cause.noMatch k
    | some i => s.applyAction (tbl.active.get TEntry.never i).act

/-- The entry index of TBW and TBR (R50): a register value of 64 or more traps TABLE_IDX. -/
def withIndex (s : State) (i : KIdx) (k : Nat → State) : State :=
  match i with
  | .imm n => k n.toNat
  | .reg b => if (s.reg b).v.toNat ≥ 64 then s.raiseTrap Cause.tableIdx (s.reg b).v else k (s.reg b).v.toNat

/-- A part written into a shadow bank (R109, R111). -/
def writeShadow (s : State) (n i : Nat) (p : Part) (w : Word) : State :=
  (s.modTable s.core n (fun t => { t with shadow := t.shadow.set TEntry.never i ((t.shadow.get TEntry.never i).setPart p w) })).touchCore
    s.core [unitOfEntry n 1 i] (some (s.core, s.ctx))

/-- A commit (R110): the banks change places, the generation advances, and a refresh of 64 cycles begins (R112). -/
def commitTable (s : State) (n : Nat) : State :=
  (s.modTable s.core n (fun t =>
    { t with active := t.shadow, shadow := t.active, gen := t.gen + 1, busy := some (s.clock + 64, true) })).touchCore
    s.core (unitsOfBank n 0 ++ unitsOfBank n 1) (some (s.core, s.ctx))

end State

/-- NEXT (R107, R108). The word is folded and the block checked before the lookup (R319); a thread of an aborting gang becomes
DONE (R302). -/
def execNext (tb : BitVec 3) (a : Reg) (s : State) : Out :=
  let s := s.lastWord
  .next (if s.aborting s.core s.ctx then s.endThread else s.withTable tb (fun n => s.nextLookup n a))

/-- TBW (R109). Of a table number and an index that are both out of range (R50, R102) the table is named first (DESIGN CHOICE,
log 42); TBR does likewise. -/
def execTbw (tb : BitVec 3) (idx : KIdx) (part : Part) (a : Reg) (s : State) : Out :=
  .next (s.withTable tb (fun n => s.withIndex idx (fun i => s.whileBusy n (
    if (s.reg a).p then s.raiseTrap Cause.poisonConsumed (s.reg a).v
    else if part = .act && decide (bits 55 9 (s.reg a).v ≠ 0) then s.raiseTrap Cause.range (s.reg a).v
    else (s.writeShadow n i part (s.reg a).v).retire))))

/-- TBR (R109). -/
def execTbr (d : Reg) (tb : BitVec 3) (idx : KIdx) (part : Part) (s : State) : Out :=
  .next (s.withTable tb (fun n => s.withIndex idx (fun i => s.whileBusy n (
    s.finish d ⟨((s.tableAt s.core n).shadow.get TEntry.never i).part part, false⟩))))

/-- TBCOMMIT (R110). -/
def execTbcommit (d : Reg) (tb : BitVec 3) (s : State) : Out :=
  .next (s.withTable tb (fun n => s.whileBusy n (
    (s.commitTable n).finish d ⟨zext ((s.tableAt s.core n).gen + 1), false⟩)))

/-- TBCLR (R109): the shadow bank becomes never-matching and stays busy for 64 cycles (R112). -/
def execTbclr (tb : BitVec 3) (s : State) : Out :=
  .next (s.withTable tb (fun n => s.whileBusy n (
    ((s.modTable s.core n (fun t => { t with shadow := [], busy := some (s.clock + 64, false) })).touchCore s.core
      (unitsOfBank n 1) (some (s.core, s.ctx))).retire)))

/-- TBLOOK: the winner, or bit 6, with the generation used in [63:32]; poison is key bit 13. -/
def execTblook (d : Reg) (tb : BitVec 3) (a : Reg) (s : State) : Out :=
  .next (s.withTable tb (fun n =>
    let k := s.buildKey a
    let t := s.tableAt s.core n
    s.finish d ⟨t.gen ++ BitVec.ofNat 32 ((t.winner k).getD 0x40), bit 13 k⟩))

/-- TBGEN (R110). -/
def execTbgen (d : Reg) (tb : BitVec 3) (s : State) : Out :=
  .next (s.withTable tb (fun n => s.finish d ⟨zext (s.tableAt s.core n).gen, false⟩))

/-- TABLE_REFRESH_END (R112): 64 cycles after a commit or a clear the bank is free again; after a commit both banks are
equal. -/
def execTableRefreshEnd (core tbl : Nat) (s : State) : Out :=
  .next (match (s.tableAt core tbl).busy with
    | some (at_, refresh) =>
      if s.clock ≥ at_ then
        let s := s.modTable core tbl (fun t => { t with busy := none, shadow := if refresh then t.active else t.shadow })
        if refresh then s.touchCore core (unitsOfBank tbl 1) none else s
      else s
    | none => s)

end Sys2Proof.Machine
end

