-- ==== Sys2Proof/Machine/Block.lean ====
section
/-! DEFINITION. Block formats: BFPm and MXFP8 elements, their conversions and their images (R65 to R67, R73 to R75), and the
sums of a matrix product (R76, R77). -/

set_option linter.constructorNameAsVariable false

namespace Sys2Proof.Machine

/-- The greatest magnitude among finite values, as a value that is not negative. -/
def amax : List Num → Num
  | [] => .zero
  | v :: r =>
    let a : Num := match v with
      | .fin _ m e => .fin false m e
      | _ => .zero
    let b := amax r
    if a.lt b then b else a

/-- The value of a BFPm element with exponent byte E (R65, R73). -/
def bfpElem (m : Nat) (ex : Nat) (mant : Int) : Num :=
  if ex = 255 then .nan false else (Num.ofInt mant).scale ((ex : Int) - 127 - ((m : Int) - 2))

/-- Conversion of one block into BFPm (R74): E, the mantissas and the flags. A block with an infinity sets NV also where it holds a quiet NaN
as well, and so does toMx: R71 does not settle the mixed block (DESIGN CHOICE, log 32). -/
def toBfp (m : Nat) (xs : List Num) : Nat × List Int × Flags :=
  if xs.any (fun x => !x.isFin) then
    (255, xs.map (fun _ => 0), Flags.when (xs.any (fun x => x.isSig || (!x.isFin && !x.isNan))) .nv)
  else
    let top := amax xs
    if top.isZero then (0, xs.map (fun _ => 0), .none)
    else
      let e := top.exponent + 127
      let ex : Int := if e < 0 then 0 else if e > 254 then 254 else e
      let rs := xs.map (fun x => roundI true (2 ^ (m - 1)) (2 ^ (m - 1) - 1) .rne (x.scale (-(ex - 127 - ((m : Int) - 2)))))
      (ex.toNat, rs.map (·.1), rs.foldl (fun f r => f ||| r.2) .none)

/-- The element format of an MXFP8 image. -/
def mxFmt (e5m2 : Bool) : FFmt := if e5m2 then .e5m2 else .e4m3

/-- The value of an MXFP8 element with scale byte X (R67, R73): an infinity is itself whatever X holds (log 13). -/
def mxElem (e5m2 : Bool) (x elem : Nat) : Num :=
  match Num.ofBits (mxFmt e5m2) elem with
  | .inf n => .inf n
  | .nan _ => .nan false
  | v => if x = 255 then .nan false else v.scale ((x : Int) - 127)

/-- Conversion of one block into MXFP8 (R75): X, the element bytes and the flags. In a block of zeros every element is 0x00, also
that of a minus zero, as in R74 (DEDUCED, log 32). -/
def toMx (e5m2 : Bool) (xs : List Num) : Nat × List Nat × Flags :=
  if xs.any (fun x => !x.isFin) then
    (255, xs.map (fun _ => 0), Flags.when (xs.any (fun x => x.isSig || (!x.isFin && !x.isNan))) .nv)
  else
    let top := amax xs
    if top.isZero then (0, xs.map (fun _ => 0), .none)
    else
      let e := top.exponent - (if e5m2 then 15 else 8) + 127
      let sc : Int := if e < 0 then 0 else if e > 254 then 254 else e
      let rs := xs.map (fun x => roundF (mxFmt e5m2) true .rne (x.scale (127 - sc)))
      (sc.toNat, rs.map (·.1), rs.foldl (fun f r => f ||| r.2) .none)

/-- A length rounded up to a multiple of 256. -/
def up256 (n : Nat) : Nat := (n + 255) / 256 * 256

/-- Bytes of the mantissa or element plane of an image with b blocks of k bytes: the offset P of the other plane (R66). -/
def planeSize (bytesPerBlock blocks : Nat) : Nat := up256 (bytesPerBlock * blocks)

/-- Bytes of an image with b blocks (R66, R67). -/
def imageSize (bytesPerBlock blocks : Nat) : Nat := planeSize bytesPerBlock blocks + up256 blocks

/-- Mantissa j of a block's 4m bytes read as one number (R66). -/
def mantAt (m j : Nat) (block : Nat) : Int := signedNat m (block / 2 ^ (m * j))

/-- The 4m bytes of a block, from its mantissas (R66). -/
def packMants (m : Nat) : List Int → Nat
  | [] => 0
  | v :: r => twos m v + 2 ^ m * packMants m r

/-- One BFP K block of a product: V of R76, from exponents and mantissas. -/
def bfpBlock (ma mb ea eb : Nat) (xs ys : List Int) : Num :=
  if ea = 255 || eb = 255 then .nan false
  else
    let s := (xs.zip ys).foldl (fun t p => t + p.1 * p.2) 0
    (Num.ofInt s).scale ((ea : Int) + eb - 254 - ((ma : Int) - 2) - ((mb : Int) - 2))

/-- One BF16 K block of a product: V of R77. -/
def bf16Block (xs ys : List Num) : Num :=
  let ps := (xs.zip ys).map (fun p => p.1.mul p.2)
  if ps.any (·.isNan) then .nan (ps.any (·.isSig))
  else
    let v := ps.foldl (fun t q => t.add .rne q) Num.zero
    if v.isZero then .zero else v

/-- One accumulation step (R76): C + V rounded RNE to FP32. -/
def accumulate (c : Nat) (v : Num) : Nat × Flags := toF32 .rne ((f32 c).add .rne v)

end Sys2Proof.Machine
end

