-- ==== Sys2Proof/Machine/Scope.lean ====
section
/-! DEFINITION. The agents of the memory model and the sets of them that a scope names (R256, R258, R259). -/

set_option linter.constructorNameAsVariable false

namespace Sys2Proof.Machine

/-- The agents of R256, as far as a scope tells them apart (R258). -/
inductive Agent where
  | thread (core ctx : Nat)
  /-- the vector engine, matrix unit, ring unit and mailbox unit of a core -/
  | coreUnit (core : Nat)
  /-- the pier streamer and event unit of a span -/
  | spanUnit (span : Nat)
  /-- the scheduler, the list walker, the ballot unit and the viaduct ports -/
  | device
  /-- the host and every other CXL agent -/
  | host
deriving DecidableEq, Repr

namespace Agent

/-- The core of an agent that has one. -/
def core? : Agent → Option Nat
  | .thread c _ => some c
  | .coreUnit c => some c
  | .spanUnit _ => none
  | .device => none
  | .host => none

/-- The span of an agent that has one. -/
def span? : Agent → Option Nat
  | .thread c _ => some (spanOf c)
  | .coreUnit c => some (spanOf c)
  | .spanUnit n => some n
  | .device => none
  | .host => none

end Agent

/-- The codes of R258: a wider scope has a greater one. -/
def scopeRank : Scope → Nat
  | .th => 0
  | .core => 1
  | .span => 2
  | .gang => 3
  | .dev => 4
  | .sys => 5

namespace State

/-- The gang from which an agent sees .gang: a thread's own, and that of its span for an engine (R258). -/
def agentGang (s : State) : Agent → Option Gang
  | .thread c k => s.gangOf (s.thread c k)
  | .coreUnit c => (s.spanAt (spanOf c)).gang.bind s.gangAt
  | .spanUnit n => (s.spanAt n).gang.bind s.gangAt
  | .device => none
  | .host => none

/-- Two agents of one core; of one span. -/
def sameCore (a b : Agent) : Bool := a.core?.isSome && decide (a.core? = b.core?)

/-- Two agents of one span. -/
def sameSpan (a b : Agent) : Bool := a.span?.isSome && decide (a.span? = b.span?)

/-- Agent b lies within a scope as seen from agent a (R258). For a supervisor thread, which belongs to no gang (R92), .gang covers its own
span alone (DESIGN CHOICE, log 17). -/
def covers (s : State) (scope : Scope) (a b : Agent) : Bool :=
  decide (a = b) || (match scope with
    | .th => false
    | .core => sameCore a b
    | .span => sameSpan a b
    | .gang => sameSpan a b || (match s.agentGang a, b.span? with
        | some g, some n => g.holdsSpan n
        | _, _ => false)
    | .dev => decide (a ≠ .host) && decide (b ≠ .host)
    | .sys => true)

/-- An operation at a scope covers two agents: each lies within it as seen from the other (R259). -/
def coversBoth (s : State) (scope : Scope) (a b : Agent) : Bool := s.covers scope a b && s.covers scope b a

end State

end Sys2Proof.Machine
end

