-- ==== Sys2Proof/Machine/Lsu.lean ====
section
/-! DEFINITION. Memory access instructions (spec/08): the checks of R162, outstanding accesses and their performance (log 5),
full/empty words, fences. -/

set_option linter.constructorNameAsVariable false

namespace Sys2Proof.Machine

/-- Bytes of an access size (R54). -/
def Size.bytes : Size → Nat
  | .b8 => 1
  | .b16 => 2
  | .b32 => 4
  | .b64 => 8

/-- What a memory instruction does, as R145 and R162 tell them apart. -/
inductive MemUse where
  | load | store | atomic | fullEmpty
deriving DecidableEq, Repr

/-- The instructions that R145 allows in each space. -/
def allowed : MemUse → Space → Bool
  | .load, _ => true
  | .store, .gl => true
  | .store, .sp => true
  | .store, .wb => true
  | .store, .ab => true
  | .store, .cb => false
  | .store, .cx => false
  | .atomic, .gl => true
  | .atomic, .sp => true
  | .atomic, .wb => false
  | .atomic, .ab => false
  | .atomic, .cb => false
  | .atomic, .cx => false
  | .fullEmpty, .sp => true
  | .fullEmpty, .gl => false
  | .fullEmpty, .wb => false
  | .fullEmpty, .ab => false
  | .fullEmpty, .cb => false
  | .fullEmpty, .cx => false

/-- The place of a space for a core: its span for the scratchpad, the core for its buffers (R145). -/
def placeOf (sp : Space) (core : Nat) : Nat :=
  match sp with
  | .gl => 0
  | .sp => spanOf core
  | .wb => core
  | .ab => core
  | .cb => core
  | .cx => core

namespace State

/-- Check 4 of R162 for a local space. -/
def checkLocal (s : State) (sp : Space) (ea n : Nat) : Option (BitVec 8) :=
  if ea + n > spaceSize sp then some Cause.range
  else if sp = .cx && decide ((s.thread s.core (ea / 1024)).owner ≠ s.me.owner) then some Cause.access
  else none

/-- Check 5 of R162 for global space: the physical address, or the cause. -/
def checkGlobal (s : State) (use : MemUse) (ea : Nat) : Except (BitVec 8) (Nat × State) :=
  if ea ≥ 2 ^ 48 then .error Cause.access
  else
    let tenant := s.tenantOf s.me
    match s.coreTranslate s.core tenant ea (if use = .load then .read else .write) with
    | .error c => .error c
    | .ok (pa, s) =>
      if inCwin pa then
        if use ≠ .load then .error Cause.access
        else if s.inSubmesh tenant ((pa - Config.cwinBase) / 2048) then .ok (pa, s)
        else .error Cause.tenant
      else .ok (pa, s)

/-- The running thread's gang is in a replayable superstep (R324). -/
def inReplay (s : State) : Bool :=
  match s.gangOf s.me with
  | some g => g.replay
  | none => false

/-- The effective address of an M-format instruction of the running thread (R146). -/
def effOf (s : State) (a : Reg) (disp : BitVec 24) : Nat := (effAddr (s.reg a).v disp).toNat

/-- Base and size of the page whose translation serves a global access of the running thread (R337, R339); a supervisor thread's
address is its own. -/
def pageAt (s : State) (a : Reg) (disp : BitVec 24) : Nat × Nat :=
  let va := s.effOf a disp
  match (s.tenantOf s.me).bind (fun t => tlbFind (s.coreAt s.core).tlb t va) with
  | some x => (x.va, x.size)
  | none => (va, 1)

/-- The checks of R162 in their order. The continuation receives the address: physical in global space, an offset else. -/
def checked (s : State) (use : MemUse) (sp : Space) (a : Reg) (disp : BitVec 24) (n : Nat) (data : Bool)
    (k : Nat → State → State) : State :=
  let ea := effAddr (s.reg a).v disp
  if (s.reg a).p then s.raiseTrap Cause.poisonConsumed ea
  else if !allowed use sp then s.raiseTrap Cause.access ea
  else if ea.toNat % n ≠ 0 then s.raiseTrap Cause.misaligned ea
  else if sp = .gl then
    match s.checkGlobal use ea.toNat with
    | .error c => s.raiseTrap c ea
    | .ok (pa, s') =>
      if use ≠ .load && s'.inReplay then s'.raiseTrap Cause.replayStore ea
      else if use ≠ .load && data then s'.raiseTrap Cause.poisonConsumed ea
      else k pa s'
  else
    match s.checkLocal sp ea.toNat n with
    | some c => s.raiseTrap c ea
    | none => k ea.toNat s

/-- An access joins the thread's outstanding ones and the instruction retires (log 5). Its destination counts as written by
the block (R320), and an older load no longer writes q (R47). -/
def issueAccess (s : State) (x : Access) : State :=
  let s := s.modMe (fun t =>
    let t := if x.dest = 0 then t
      else { t with written := withBit (withBit t.written x.dest.toNat true) 1 true
                    out := t.out.map (Access.overtaken x.dest) }
    { t with out := t.out ++ [{ x with toQ := decide (x.dest ≠ 0), taint := t.tnt }] })
  let s := if 10 ≤ x.dest.toNat then s.touchCore s.core [unitOfReg s.ctx (x.dest.toNat - 10)] (some (s.core, s.ctx)) else s
  s.retire

end State

/-- An access with the parts that every kind has, neither an acquire nor a release: its address, and the page that translated it. -/
def Access.plain (kind : AccKind) (sp : Space) (core addr : Nat) (page : Nat × Nat) (n : Nat) (dest : Reg) (data : Val) : Access :=
  { kind := kind, space := sp, place := placeOf sp core, addr := addr, bytes := n, page := page, dest := dest, toQ := false, data := data,
    cmp := 0, acq := false, rel := false, scope := .sys, guard := none, taint := false }

/-! ## Performing an access -/

namespace Access

/-- Reads memory (R257). -/
def reads (x : Access) : Bool := decide (x.kind ≠ .store)

/-- Writes memory (R257). -/
def writes (x : Access) : Bool :=
  match x.kind with
  | .load _ => false
  | .store => true
  | .amo _ => true
  | .cas => true

/-- Two accesses that share a byte (R260). -/
def overlaps (x y : Access) : Bool :=
  decide (x.space = y.space) && decide (x.place = y.place) && decide (x.addr < y.addr + y.bytes) && decide (y.addr < x.addr + x.bytes)

/-- The pending store of the thread that a load may read (R261): the newest earlier access to its bytes, when it is a plain
store of exactly those bytes. -/
def forward (x : Access) (earlier : List Access) : Option Access :=
  match x.kind with
  | .load _ => match (earlier.filter (fun y => y.overlaps x)).getLast? with
    | some y => if y.kind = .store && y.addr = x.addr && y.bytes = x.bytes then some y else none
    | none => none
  | .store => none
  | .amo _ => none
  | .cas => none

/-- Two accesses to a common byte of which one writes. -/
def conflicts (x y : Access) : Bool := x.overlaps y && (x.writes || y.writes)

/-- The access counts as made before every later one of its thread, for every agent of a scope (R259, R267). -/
def guardedFor (x : Access) (scope : Scope) : Bool :=
  match x.guard with
  | some g => decide (scopeRank scope ≤ scopeRank g)
  | none => false

/-- An access may be performed: every earlier access of the thread that R262 rows 1, 2 and 7 order before it is out of its way. -/
def ready (x : Access) (earlier : List Access) : Bool :=
  earlier.all (fun y => !y.acq || y.guardedFor y.scope) && (!x.rel || earlier.all (·.guardedFor x.scope)) &&
    (earlier.all (fun y => !y.overlaps x) || (x.forward earlier).isSome)

end Access

/-- New value of an AMO on n-bit values (R166). -/
def amoValue (op : AmoOp) (n old b : Nat) : Nat :=
  match op with
  | .add => (old + b) % 2 ^ n
  | .and => old &&& b
  | .or => old ||| b
  | .xor => old ^^^ b
  | .min => if signedNat n old ≤ signedNat n b then old else b
  | .max => if signedNat n old ≤ signedNat n b then b else old
  | .minu => if old ≤ b then old else b
  | .maxu => if old ≤ b then b else old
  | .swap => b

/-- Index of the contention predictor for a physical address (R159). -/
def predictorIndex (pa : Nat) : Nat := (pa / 64 % 64) ^^^ (pa / 4096 % 64) ^^^ (pa / 2 ^ 18 % 64)

namespace State

/-- A request of an agent takes a line away from every other core that owns it; a core with an atomic under way on it counts up
(R159). -/
def takeLine (s : State) (by_ : Option Nat) (pa : Nat) : State :=
  s.cores.foldl (fun s e =>
    if some e.1 ≠ by_ && e.2.owned.contains (pa / 64) then
      let busy := e.2.threads.any (fun t => t.2.out.any (fun x => decide (x.space = .gl) && decide (x.addr / 64 = pa / 64) &&
        (match x.kind with
          | .amo _ => true
          | .cas => true
          | .load _ => false
          | .store => false)))
      s.modCore e.1 (fun x =>
        let i := predictorIndex pa
        let p := x.predictor.get 0 i
        { x with owned := x.owned.filter (· ≠ pa / 64)
                 predictor := if busy && decide (p ≠ 3) then x.predictor.set 0 i (p + 1) else x.predictor })
    else s) s

/-- A request of an agent takes away every line that holds some of n bytes from an address on (R159). -/
def takeRange (s : State) (by_ : Option Nat) (pa n : Nat) : State :=
  let lines := (s.cores.flatMap (fun e => e.2.owned.filter (fun i => decide (64 * i < pa + n) && decide (pa < 64 * i + 64)))).eraseDups
  lines.foldl (fun s i => s.takeLine by_ (64 * i)) s

/-- Where an atomic on global memory runs (R159): at the home slice, or in the core's ownership buffer, which then holds the
line. A full buffer drops its oldest line (DESIGN CHOICE, log 37). -/
def runAtomic (s : State) (core pa : Nat) : State :=
  s.modCore core (fun x =>
    let i := predictorIndex pa
    let p := x.predictor.get 0 i
    if x.owned.contains (pa / 64) then { x with predictor := if p = 0 then x.predictor else x.predictor.set 0 i (p - 1) }
    else if p.toNat < 2 then { x with owned := (pa / 64 :: x.owned).take 16 }
    else x)

/-- What an access reads: the value of its bytes and the poison of the word that holds them (R158, R163); a word of a context
record as it reads through the register cache (R97). -/
def accessValue (s : State) (x : Access) : Nat × Bool :=
  match x.space with
  | .gl => (s.physRead x.addr x.bytes, s.physPoison x.addr)
  | .cx =>
    let t := s.cachedThread x.place (x.addr / 1024)
    let w := x.addr % 1024 / 8
    ((t.recordWord w).toNat / 2 ^ (8 * (x.addr % 8)) % 2 ^ (8 * x.bytes), t.recordPoison w)
  | sp => ((s.localMem sp x.place).read x.addr x.bytes, (s.localMem sp x.place).poison x.addr)

/-- A value written to a memory by an access of a core's thread: local changes are journalled (R322), global ones take the line
from its owners (R159). -/
def storeAccess (s : State) (c k : Nat) (sp : Space) (place addr n v : Nat) (p : Bool) : State :=
  let s := match sp with
    | .gl => s.takeLine (some c) addr
    | .sp => s.touchSpan place [addr / 256] (s.liveBy (some (c, k)))
    | .cx => s
    | b => s.touchCore place [unitOfBuffer b addr] (s.liveBy (some (c, k)))
  s.setLocalMem sp place ((s.localMem sp place).store addr n v p)

/-- The result of a load or an atomic reaches its registers: D unless it died meanwhile, and q unless a later instruction has
written it (R47, R95). -/
def deliverLoad (s : State) (c k : Nat) (x : Access) (v : Word) (p : Bool) : State :=
  s.modThread c k (fun t =>
    let y : Val := ⟨v, p || x.taint⟩
    let r := if x.dest = 0 then t.regs else t.regs.set Val.zero x.dest.toNat y
    { t with regs := if x.toQ then r.set Val.zero 1 y else r })

/-- The effect of an access at the moment it is performed (R163, R164, R166), whole in one step: R157 promises no more than single bytes where
accesses of different sizes overlap (DESIGN CHOICE, log 5). The result of an atomic takes the poison that its
word has after the write (R7, R166). -/
def perform (s : State) (c k : Nat) (x : Access) (fwd : Option Access) : State :=
  let n := 8 * x.bytes
  match x.kind with
  | .load sign =>
    let r := match fwd with
      | some y => (y.data.v.toNat % 2 ^ n, y.data.p || (s.accessValue x).2 && decide (x.bytes ≠ 8))
      | none => s.accessValue x
    let v : Word := if sign then BitVec.ofInt 64 (signedNat n r.1) else BitVec.ofNat 64 r.1
    s.deliverLoad c k x v r.2
  | .store => s.storeAccess c k x.space x.place x.addr x.bytes (x.data.v.toNat % 2 ^ n) x.data.p
  | .amo op =>
    let r := s.accessValue x
    let s := if x.space = .gl then (s.takeLine (some c) x.addr).runAtomic c x.addr else s
    let s := if r.2 then s else
      s.storeAccess c k x.space x.place x.addr x.bytes (amoValue op n r.1 (x.data.v.toNat % 2 ^ n)) x.data.p
    s.deliverLoad c k x (BitVec.ofNat 64 r.1) (s.accessValue x).2
  | .cas =>
    let r := s.accessValue x
    let s := if x.space = .gl then (s.takeLine (some c) x.addr).runAtomic c x.addr else s
    -- an exchange that fails writes the old value back and brings no poison of B (log 15)
    let s := if !r.2 && decide (r.1 = x.cmp.toNat % 2 ^ n) then
      s.storeAccess c k x.space x.place x.addr x.bytes (x.data.v.toNat % 2 ^ n) x.data.p else s
    s.deliverLoad c k x (BitVec.ofNat 64 r.1) (s.accessValue x).2

/-- The i-th outstanding access of a context is performed. -/
def performAt (s : State) (c k i : Nat) : State :=
  let t := s.thread c k
  match t.out[i]? with
  | none => s
  | some x =>
    (s.modThread c k (fun t => { t with out := t.out.take i ++ t.out.drop (i + 1) })).perform c k x (x.forward (t.out.take i))

/-- A guarded access of another thread, of those that satisfy a test, whose scope covers an agent: its context and its place. -/
def guardedFrom (s : State) (a : Agent) (p : Access → Bool) : Option (Nat × Nat × Nat) :=
  s.cores.findSome? (fun e => List.findSome? (fun (t : Nat × Thread) =>
    if a = .thread e.1 t.1 then none
    else (t.2.out.findIdx? (fun x => p x && (match x.guard with
      | some g => s.coversBoth g (.thread e.1 t.1) a
      | none => false))).map (fun i => (e.1, t.1, i))) e.2.threads)

/-- The guarded accesses that an agent meets are performed, each after those that it meets itself. -/
def settle : Nat → State → Agent → (Access → Bool) → State
  | 0, s, _, _ => s
  | n + 1, s, a, p =>
    match s.guardedFrom a p with
    | none => s
    | some (c, k, i) =>
      match (s.thread c k).out[i]? with
      | none => s
      | some x =>
        let s := settle n s (.thread c k) (·.conflicts x)
        settle n (if s.guardedFrom a p = some (c, k, i) then s.performAt c k i else s) a p

/-- How many accesses are guarded. -/
def guardCount (s : State) : Nat :=
  (s.cores.map (fun e => (List.map (fun (t : Nat × Thread) => t.2.out.countP (·.guard.isSome)) e.2.threads).sum)).sum

/-- What is about to be met by an agent is performed first (R259, R265). -/
def reveal (s : State) (a : Agent) (p : Access → Bool) : State := settle s.guardCount s a p

/-- What an agent meets of others in a range of physical memory is performed first. -/
def revealGlobal (s : State) (a : Agent) (pa n : Nat) : State :=
  s.reveal a (fun x => decide (x.space = .gl) && decide (pa < x.addr + x.bytes) && decide (x.addr < pa + n))

/-- What the running thread is about to act on counts as met by an agent and by the thread itself: the guarded accesses of others
are performed for both (R259, R265). -/
def meetAs (s : State) (a : Agent) (p : Access → Bool) : State := (s.reveal a p).reveal (.thread s.core s.ctx) p

/-- What the running thread and an agent meet of others in a range of physical memory is performed first. -/
def meetGlobal (s : State) (a : Agent) (pa n : Nat) : State :=
  s.meetAs a (fun x => decide (x.space = .gl) && decide (pa < x.addr + x.bytes) && decide (x.addr < pa + n))

/-- The physical address at which the counter window shows a counter (R161). -/
def windowAddr (core idx : Nat) : Nat := Config.cwinBase + 2048 * core + 8 * idx

/-- A change of a counter by a context meets the loads through the window that other threads have outstanding (R262 row 7). -/
def meetWindow (s : State) (a : Agent) (core idx : Nat) : State := s.revealGlobal a (windowAddr core idx) 8

/-- A post of a context to a counter is under way. -/
def postPending (s : State) (c k core idx : Nat) : Bool :=
  s.posts.any (fun x => decide (x.by_ = some (c, k)) && decide (x.core = core) && decide (x.idx = idx))

/-- An access reads a counter through the window to which a post of its own thread is under way, and follows it (R262 row 7). -/
def followsPost (s : State) (c k : Nat) (x : Access) : Bool :=
  let n := (x.addr - Config.cwinBase) / 8
  decide (x.space = .gl) && inCwin x.addr && s.postPending c k (n / 256) (n % 256)

/-- The i-th outstanding access of a context is performed, if R262 allows it (log 5). -/
def performNth (s : State) (c k i : Nat) : State :=
  match (s.thread c k).out[i]? with
  | none => s
  | some x =>
    if !s.followsPost c k x && x.ready ((s.thread c k).out.take i) then (s.reveal (.thread c k) (·.conflicts x)).performAt c k i else s

/-! ## Releases (R262 row 2, R267) -/

/-- The i-th outstanding access of the running thread is guarded at a scope, if it could be performed now. What it meets of
others is performed first. -/
def guardNth (scope : Scope) (s : State) (i : Nat) : State :=
  match s.me.out[i]? with
  | none => s
  | some x =>
    if decide (scope ≠ .sys) && decide (x.space ≠ .cx) && !x.guardedFor scope && !s.followsPost s.core s.ctx x &&
        x.ready (s.me.out.take i) then
      (s.reveal (.thread s.core s.ctx) (·.conflicts x)).modMe (fun t =>
        { t with out := t.out.modify i (fun y => { y with guard := some scope }) })
    else s

/-- The running thread's outstanding accesses that satisfy a test are guarded at a scope, oldest first, where they can be. -/
def guardOut (s : State) (scope : Scope) (p : Access → Bool) : State :=
  (List.range s.me.out.length).foldl (fun s i => if (s.me.out[i]?).any p then guardNth scope s i else s) s

/-- A post of the running thread is under way: a write (R257). -/
def posting (s : State) : Bool := s.posts.any (fun x => decide (x.by_ = some (s.core, s.ctx)))

/-- The running thread goes on once its outstanding accesses that satisfy a test count as made for every agent of a scope:
performed, or guarded at the scope. With posts, its posts have been performed too. -/
def afterThose (s : State) (scope : Scope) (p : Access → Bool) (posts : Bool) (k : State → State) : State :=
  let s := s.guardOut scope p
  if s.me.out.all (fun x => !p x || x.guardedFor scope) && !(posts && s.posting) then k s else s.stall .order

/-- A release at a scope waits until the accesses that the thread issued earlier count as made there (R262 row 2, R267, log 5). -/
def afterAccesses (s : State) (scope : Scope) (k : State → State) : State := s.afterThose scope (fun _ => true) true k

/-- A release whose accesses are then performed, and those that other threads have published to the running one, so that every agent
of the device meets them: page tables and code are read at the home slices (R265, R337, R341, R345). -/
def afterPublished (s : State) (k : State → State) : State :=
  s.afterAccesses .dev (fun s => k (s.meetAs .device (fun _ => true)))

/-- An access that is a release is issued once the thread's earlier writes count as made at its scope (R267); earlier reads hold
it back while it is outstanding (R262 row 2). One that is an acquire is guarded at its scope if it can be performed at once, so
that later accesses pass it for agents outside (R259). -/
def issueOrdered (s : State) (x : Access) : State :=
  let go (s : State) : State :=
    let s := if x.rel then s.guardOut x.scope (fun _ => true) else s
    let i := s.me.out.length
    let s := s.issueAccess x
    if x.acq then guardNth x.scope s i else s
  if x.rel then s.afterThose x.scope Access.writes true go else go s

end State

/-! ## Full/empty words (R151 to R155) -/

/-- The bank of a scratchpad byte address (R149). -/
def bankOf (addr : Nat) : Nat := addr / 8 % 31

/-- A default event-unit mutex: free. -/
def Mutex.free : Mutex := ⟨none, [], false⟩

namespace State

/-- A scratchpad word is full (R151). -/
def isFull (s : State) (span addr : Nat) : Bool := !(s.spanAt span).empties.get false (addr / 8)

/-- The full/empty bit of a word set as told. -/
def setFull (s : State) (span addr : Nat) (full : Bool) : State :=
  s.modSpan span (fun x => { x with empties := x.empties.set false (addr / 8) (!full) })

/-- The oldest deferred slot of a word that a filler or a taker holds (R152). -/
def oldestSlot (s : State) (span addr : Nat) (filler : Bool) : Option Slot :=
  (s.spanAt span).slots.find? (fun x => decide (x.addr = addr) && (x.val.isSome == filler))

/-- The state without a context's slot and place in the overflow order. -/
def freeSlot (s : State) (span c k : Nat) : State :=
  let keep (x : Slot) : Bool := !(decide (x.core = c) && decide (x.ctx = k))
  s.modSpan span (fun x => { x with slots := x.slots.filter keep, overflow := x.overflow.filter keep })

/-- A word written whole with its poison by a context (R152). -/
def putWord (s : State) (span addr : Nat) (v : Val) (c k : Nat) : State :=
  let s := s.touchSpan span [addr / 256] (some (c, k))
  s.modSpan span (fun x => { x with sp := x.sp.store addr 8 v.v.toNat v.p })

/-- A TAKE of a full word (R152): its value; the oldest filler's value is installed and that FILL retires, or the word becomes
empty. -/
def takeFull (s : State) (span addr c k : Nat) : Val × State :=
  let m := (s.spanAt span).sp
  let v : Val := ⟨BitVec.ofNat 64 (m.read addr 8), m.poison addr⟩
  match s.oldestSlot span addr true with
  | some x =>
    let s := (s.putWord span addr (x.val.getD Val.zero) x.core x.ctx).freeSlot span x.core x.ctx
    (v, s.retireAt x.core x.ctx)
  | none => (v, (s.touchSpan span [addr / 256] (some (c, k))).setFull span addr false)

/-- A FILL of an empty word (R152): the oldest taker gets the value and retires, or the word takes it and becomes full. -/
def fillEmpty (s : State) (span addr : Nat) (v : Val) (c k : Nat) : State :=
  match s.oldestSlot span addr false with
  | some x =>
    let s := s.freeSlot span x.core x.ctx
    match (s.thread x.core x.ctx).wait with
    | .take d _ => (s.setRegAt x.core x.ctx d v).retireAt x.core x.ctx
    | _ => s
  | none => (s.putWord span addr v c k).setFull span addr true

/-- Slots of a bank in use (R152). -/
def slotsUsed (s : State) (span bank : Nat) : Nat := ((s.spanAt span).slots.filter (fun x => bankOf x.addr = bank)).length

/-- A parked TAKE or FILL enters a slot of its bank, or the overflow order when all 64 are in use (R152, R153). -/
def enterSlot (s : State) (span : Nat) (x : Slot) : State :=
  if s.slotsUsed span (bankOf x.addr) < 64 then s.modSpan span (fun p => { p with slots := p.slots ++ [x] })
  else s.modSpan span (fun p => { p with overflow := p.overflow ++ [x] })

/-- Whether a TAKE or FILL of a slot can complete as the word stands (R152). -/
def slotReady (s : State) (span : Nat) (x : Slot) : Bool := s.isFull span x.addr == x.val.isNone

/-- A waiting TAKE or FILL completes. -/
def completeSlot (s : State) (span : Nat) (x : Slot) : State :=
  match x.val with
  | some v => (s.fillEmpty span x.addr v x.core x.ctx).retireAt x.core x.ctx
  | none =>
    let r := s.takeFull span x.addr x.core x.ctx
    match (r.2.thread x.core x.ctx).wait with
    | .take d _ => (r.2.setRegAt x.core x.ctx d r.1).retireAt x.core x.ctx
    | _ => r.2

/-- While a bank has a free slot, the oldest in its overflow order is tried afresh (R153). -/
def retryOverflow (span bank : Nat) : Nat → State → State
  | 0, s => s
  | n + 1, s =>
    match (s.spanAt span).overflow.find? (fun x => bankOf x.addr = bank) with
    | none => s
    | some x =>
      if s.slotsUsed span bank < 64 then
        let s := s.freeSlot span x.core x.ctx
        retryOverflow span bank n (if s.slotReady span x then s.completeSlot span x else s.enterSlot span x)
      else s

/-- The overflow order of every bank of a span is retried. -/
def retrySpan (s : State) (span : Nat) : State :=
  (List.range 31).foldl (fun s bank => retryOverflow span bank ((s.spanAt span).overflow.length) s) s

/-- The overflow order of the bank of an address is retried. -/
def afterSlots (s : State) (span addr : Nat) : State :=
  retryOverflow span (bankOf addr) ((s.spanAt span).overflow.length) s

/-- A parked TAKE or FILL leaves its wait (R155). -/
def leaveSlot (s : State) (c k addr : Nat) : State := (s.freeSlot (spanOf c) c k).afterSlots (spanOf c) addr

/-- The running thread's outstanding accesses that a full/empty access must follow: earlier acquires and accesses to its word
(R262 rows 1 and 7). -/
def mustFollow (s : State) (sp : Space) (addr n : Nat) : Bool :=
  s.me.out.any (fun y => (y.acq && !y.guardedFor y.scope) || y.overlaps (Access.plain .store sp s.core addr (0, 0) n 0 Val.zero))

/-- A full/empty access meets what other threads have outstanding at its word (R259). -/
def meetWord (s : State) (ad : Nat) : State :=
  s.reveal (.thread s.core s.ctx) (·.overlaps (Access.plain .store .sp s.core ad (0, 0) 8 0 Val.zero))

/-- The running thread parks, unless a cancel or an abort has reached it: then the wait ends at once with the status (R353,
R302). -/
def parkOr (s : State) (w : Wait) (ended : Nat → State) : State :=
  if s.aborting s.core s.ctx then ended 7
  else if s.cancelled s.core s.ctx then ended 6
  else s.park w

end State

/-- LD (R163). -/
def execLd (d a : Reg) (sp : Space) (sz : Size) (disp : BitVec 24) (sext : Bool) (s : State) : Out :=
  .next (s.checked .load sp a disp (Size.bytes sz) false (fun ad s =>
    s.issueAccess (Access.plain (.load sext) sp s.core ad (s.pageAt a disp) (Size.bytes sz) d Val.zero)))

/-- LDA (R163): an acquire, but from the counter window and the context space (R257). -/
def execLda (d a : Reg) (sp : Space) (sz : Size) (disp : BitVec 24) (scope : Scope) (sext : Bool) (s : State) : Out :=
  .next (s.checked .load sp a disp (Size.bytes sz) false (fun ad s =>
    s.issueOrdered { Access.plain (.load sext) sp s.core ad (s.pageAt a disp) (Size.bytes sz) d Val.zero with
                     acq := decide (sp ≠ .cx) && !(decide (sp = .gl) && inCwin ad), scope := scope }))

/-- ST (R164); the hint changes only where a line is kept (R267). -/
def execSt (a b : Reg) (sp : Space) (sz : Size) (disp : BitVec 24) (_hint : Hint) (s : State) : Out :=
  .next (s.checked .store sp a disp (Size.bytes sz) (s.reg b).p (fun ad s =>
    s.issueAccess (Access.plain .store sp s.core ad (s.pageAt a disp) (Size.bytes sz) 0 (s.reg b))))

/-- STL (R164): a release. -/
def execStl (a b : Reg) (sp : Space) (sz : Size) (disp : BitVec 24) (scope : Scope) (s : State) : Out :=
  .next (s.checked .store sp a disp (Size.bytes sz) (s.reg b).p (fun ad s =>
    s.issueOrdered { Access.plain .store sp s.core ad (s.pageAt a disp) (Size.bytes sz) 0 (s.reg b) with rel := true, scope := scope }))

/-- TAKE (R165): the value of a full word, or a wait in a slot. -/
def execTake (d a : Reg) (sp : Space) (disp : BitVec 24) (s : State) : Out :=
  .next (s.checked .fullEmpty sp a disp 8 false (fun ad s =>
    let span := spanOf s.core
    if s.mustFollow .sp ad 8 then s.stall .order
    else
    let s := s.meetWord ad
    if s.isFull span ad then
      let r := s.takeFull span ad s.core s.ctx
      (r.2.finish d r.1).afterSlots span ad
    else s.parkOr (.take d ad) (fun _ => s.finish d Val.zero) |> fun s' =>
      if s'.me.stat = .parked then s'.enterSlot span ⟨ad, s.core, s.ctx, none⟩ else s'))

/-- FILL (R165): a release; it writes an empty word, or hands its value to a taker, or waits in a slot. -/
def execFill (a b : Reg) (sp : Space) (disp : BitVec 24) (s : State) : Out :=
  .next (s.checked .fullEmpty sp a disp 8 false (fun ad s => s.afterAccesses .span (fun s =>
    let span := spanOf s.core
    if s.mustFollow .sp ad 8 then s.stall .order
    else
    let s := s.meetWord ad
    if s.isFull span ad then
      s.parkOr (.fill ad (s.reg b)) (fun _ => s.retire) |> fun s' =>
        if s'.me.stat = .parked then s'.enterSlot span ⟨ad, s.core, s.ctx, some (s.reg b)⟩ else s'
    else ((s.fillEmpty span ad (s.reg b) s.core s.ctx).retire).afterSlots span ad)))

/-- TRYTAKE (R165). -/
def execTrytake (p : BitVec 3) (d a : Reg) (sp : Space) (disp : BitVec 24) (s : State) : Out :=
  .next (s.checked .fullEmpty sp a disp 8 false (fun ad s =>
    let span := spanOf s.core
    if s.mustFollow .sp ad 8 then s.stall .order
    else
    let s := s.meetWord ad
    if s.isFull span ad then
      let r := s.takeFull span ad s.core s.ctx
      ((r.2.modMe (fun t => t.setPred p.toNat true)).finish d r.1).afterSlots span ad
    else (s.modMe (fun t => t.setPred p.toNat false)).finish d Val.zero))

/-- AMO (R166): a release and an acquire. -/
def execAmo (op : AmoOp) (d a b : Reg) (sp : Space) (sz : Size) (disp : BitVec 24) (scope : Scope) (s : State) : Out :=
  .next (s.checked .atomic sp a disp (Size.bytes sz) (s.reg b).p (fun ad s =>
    s.issueOrdered { Access.plain (.amo op) sp s.core ad (s.pageAt a disp) (Size.bytes sz) d (s.reg b) with
                     acq := true, rel := true, scope := scope }))

/-- AMOCAS (R166): D holds the expected value, then the old one. -/
def execAmocas (d a b : Reg) (sp : Space) (sz : Size) (disp : BitVec 24) (scope : Scope) (s : State) : Out :=
  .next (s.checked .atomic sp a disp (Size.bytes sz) (s.reg b).p (fun ad s =>
    s.issueOrdered { Access.plain .cas sp s.core ad (s.pageAt a disp) (Size.bytes sz) d (s.reg b) with
                     cmp := (s.reg d).v, acq := true, rel := true, scope := scope }))

/-- FENCE (R167): waits until the earlier accesses of a kind that stands first in a pair of its set have been performed at the
scope: bits .rr .rw .wr .ww of the set. A post counts as a write. -/
def execFence (scope : Scope) (set : BitVec 4) (s : State) : Out :=
  let r := bit 0 set || bit 1 set
  let w := bit 2 set || bit 3 set
  .next (s.afterThose scope (fun x => (r && x.reads) || (w && x.writes)) w State.retire)

/-- PREF (R168): only its base's poison is looked at. -/
def execPref (a : Reg) (disp : BitVec 24) (_core : Bool) (s : State) : Out :=
  .next (if (s.reg a).p then s.raiseTrap Cause.poisonConsumed (effAddr (s.reg a).v disp) else s.retire)

/-- ACCESS_PERFORMED (R256 to R265, log 5). -/
def execAccessPerformed (core ctx k : Nat) (s : State) : Out := .next (s.performNth core ctx k)

end Sys2Proof.Machine
end

