-- ==== Sys2Proof/Machine/Matrix.lean ====
section
/-! DEFINITION. The matrix unit (spec/10): the sequence, acceptance under versions, the tile images, the products, the
epilogue, the ring rotation and the paired-span group operation. -/

set_option linter.constructorNameAsVariable false

namespace Sys2Proof.Machine

/-! ## The sequence (R180) -/

/-- Runs on the array path (R180). -/
def MatOp.array : MatOp → Bool
  | .mfmt _ _ _ => true
  | .bload _ _ => true
  | .brot _ => true
  | .mma _ _ _ _ => true
  | .mmas _ _ _ _ _ => true
  | .mma2 _ _ _ _ _ => true
  | .azero _ _ => true
  | .aepi _ _ _ _ _ _ => false
  | .atopkInit _ => false
  | .atopkAcc _ _ _ => false
  | .acselInit _ => false
  | .acselAcc _ _ _ => false
  | .ardk _ _ _ _ => false
  | .ardkClr _ _ => false

/-- The tile that an operation writes (R181). -/
def MatOp.writes : MatOp → Option Nat
  | .mma t _ _ _ => some t
  | .mmas t _ _ _ _ => some t
  | .mma2 _ t _ _ _ => some t
  | .azero t _ => some t
  | .mfmt _ _ _ => none
  | .bload _ _ => none
  | .brot _ => none
  | .aepi _ _ _ _ _ _ => none
  | .atopkInit _ => none
  | .atopkAcc _ _ _ => none
  | .acselInit _ => none
  | .acselAcc _ _ _ => none
  | .ardk _ _ _ _ => none
  | .ardkClr _ _ => none

/-- The tile that an epilogue operation reads (R181). -/
def MatOp.reads : MatOp → Option Nat
  | .aepi _ _ _ t _ _ => some t
  | .atopkAcc t _ _ => some t
  | .acselAcc t _ _ => some t
  | .mfmt _ _ _ => none
  | .bload _ _ => none
  | .brot _ => none
  | .mma _ _ _ _ => none
  | .mmas _ _ _ _ _ => none
  | .mma2 _ _ _ _ _ => none
  | .azero _ _ => none
  | .atopkInit _ => none
  | .acselInit _ => none
  | .ardk _ _ _ _ => none
  | .ardkClr _ _ => none

/-- A BROT on a latch. -/
def MatOp.isBrot (l : Bool) : MatOp → Bool
  | .brot k => k == l
  | _ => false

/-- An MMA2. -/
def MatOp.isMma2 : MatOp → Bool
  | .mma2 _ _ _ _ _ => true
  | _ => false

/-- An operation that reads the matrix status (R205). -/
def MatOp.readsStatus : MatOp → Bool
  | .ardk _ .stat _ _ => true
  | .ardkClr _ _ => true
  | _ => false

/-- An AEPI writes bytes of ABUF that a BLOAD may read: a latch image takes at most 4,096 (R184, R203). -/
def MatOp.meetsAbuf : MatOp → MatOp → Bool
  | .aepi ty _ _ _ slot _, .bload _ ba => decide (256 * slot < ba + 4096) && decide (ba < 256 * slot + 1024 * fmtBytes ty)
  | _, _ => false

/-- Format state and latch tags at the end of a sequence (R180, R184): A format, B format, scale, tags of b0 and b1. -/
structure SeqState where
  fa    : BitVec 3
  fb    : BitVec 3
  scale : Half
  t0    : BitVec 3
  t1    : BitVec 3
deriving DecidableEq, Repr

namespace Matrix

/-- The state that an instruction accepted now finds at its place. -/
def atEnd (m : Matrix) : SeqState :=
  m.seq.foldl (fun x j =>
    match j.op with
    | .mfmt fa fb sc => { x with fa := fa, fb := fb, scale := sc }
    | .bload l _ => if l then { x with t1 := x.fb } else { x with t0 := x.fb }
    | _ => x) ⟨m.fa, m.fb, m.scale, m.b0.tag, m.b1.tag⟩

/-- The top-k configuration that an instruction accepted now finds. -/
def tkAtEnd (m : Matrix) : Word :=
  m.seq.foldl (fun x j => match j.op with
    | .atopkInit c => c
    | _ => x) m.tkCfg

/-- The select configuration that an instruction accepted now finds. -/
def csAtEnd (m : Matrix) : Word :=
  m.seq.foldl (fun x j => match j.op with
    | .acselInit c => c
    | _ => x) m.csCfg

/-- Accepted version Vi of a tile. -/
def accepted (m : Matrix) (t : Nat) : BitVec 16 := m.vi.get 0 t

/-- Completed version Vc of a tile. -/
def completed (m : Matrix) (t : Nat) : BitVec 16 := m.vc.get 0 t

/-- A latch. -/
def latch (m : Matrix) (l : Bool) : Latch := if l then m.b1 else m.b0

/-- A latch replaced. -/
def setLatch (m : Matrix) (l : Bool) (x : Latch) : Matrix := if l then { m with b1 := x } else { m with b0 := x }

/-- Array-path instructions accepted and not completed (R180). -/
def inFlight (m : Matrix) : Nat := m.seq.countP (fun j => j.op.array)

/-- The head of a path. -/
def head (m : Matrix) (epilogue : Bool) : Option MatJob := m.seq.find? (fun j => j.op.array != epilogue)

/-- The sequence without the first job that satisfies a test. -/
def without (m : Matrix) (p : MatJob → Bool) : Matrix := { m with seq := m.seq.eraseP p }

/-- The thread of a context has left it: what it has accepted and not completed has no thread any more (R91, R324). -/
def left (m : Matrix) (k : Nat) : Matrix :=
  { m with seq := m.seq.map (fun j => if j.ctx = k then { j with gone := true } else j) }

/-- The tag that a latch will hold waits for a ring (R184): a BROT on the latch has not started, or an MMA2 whose rotation may
replace it (R188) has not, and no BLOAD behind that MMA2 fixes the tag. R184 states the wait for a BROT alone; that it holds for the
rotation of an MMA2, which brings a neighbour's tag as well, is the model's (DESIGN CHOICE, log 43). -/
def latchWaits (m : Matrix) (l : Bool) : Bool :=
  m.seq.any (fun j => j.op.isBrot l) || m.seq.foldl (fun w j => match j.op with
    | .mma2 _ _ _ _ _ => true
    | .bload k _ => w && (k != l)
    | _ => w) false

/-- A pending MMA2 on a tile keeps every other instruction that names the tile out (R181). -/
def pendingOn (m : Matrix) (t : Nat) : Bool := m.seq.any (fun j => j.op.isMma2 && decide (j.op.writes = some t))

/-- A matrix instruction waits for a version, or for the tag of a latch (R181, R183, R184). -/
def versionWaits (m : Matrix) (i : Instr) : Bool :=
  let tile (t : BitVec 2) (ver : BitVec 16) : Bool :=
    let d := (m.accepted t.toNat - ver).toInt
    decide (d < 0) || decide (d = 0) && m.pendingOn t.toNat
  match i with
  | .mma t l _ ver => m.latchWaits l || tile t ver
  | .mmas t l _ _ ver => m.latchWaits l || tile t ver
  | .mma2 _ t l _ ver => m.latchWaits l || tile t ver || (decide (m.accepted t.toNat = ver) && decide (m.completed t.toNat ≠ ver))
  | .azero t ver => tile t ver
  | .aepi _ _ _ t _ _ ver => tile t ver
  | .atopkAcc t _ _ ver => tile t ver
  | .acselAcc t _ _ ver => tile t ver
  | .awaitv t ver => decide ((m.completed t.toNat - ver).toInt < 0)
  | _ => false

/-- Two operations whose order in the sequence a result can show (R180): one writes the tile that the other reads, an AEPI
writes ABUF bytes that a BLOAD reads, or ARDK.stat or ARDK.clr reads the status that a product sets. -/
def ordered (x y : MatOp) : Bool :=
  (x.writes.isSome && decide (x.writes = y.reads)) || (x.reads.isSome && decide (x.reads = y.writes)) ||
    x.meetsAbuf y || y.meetsAbuf x || (x.readsStatus && y.writes.isSome) || (y.readsStatus && x.writes.isSome)

/-- A job may run: no earlier one is ordered before it (R180). -/
def free (m : Matrix) (j : MatJob) : Bool := (m.seq.takeWhile (fun x => x != j)).all (fun x => !ordered x.op j.op)

end Matrix

/-- Bytes of a 32 × 64 or 64 × 32 tile image in a format, 0 BF16 and 1 to 7 BFP2 to BFP8 (R184). -/
def tileBytes (f : BitVec 3) : Nat := if f = 0 then 4096 else 256 * (f.toNat + 1) + 256

/-- Bytes of a compressed 32 × 32 A image (R184). -/
def sparseBytes (f : BitVec 3) : Nat := if f = 0 then 2048 else imageSize (4 * (f.toNat + 1)) 32

/-! ## Tile images (R66, R184) -/

/-- A K block of a line of a tile. -/
inductive KBlock where
  | bfp (m ex : Nat) (xs : List Int)
  | bf16 (xs : List Num)

/-- One term of the sum for each pair of elements (R76, R77). -/
def KBlock.dot : KBlock → KBlock → Num
  | .bfp ma ea xs, .bfp mb eb ys => bfpBlock ma mb ea eb xs ys
  | .bf16 xs, .bf16 ys => bf16Block xs ys
  | .bfp _ _ _, .bf16 _ => .nan false
  | .bf16 _, .bfp _ _ _ => .nan false

/-- Block kb of a line of a tile of two blocks a line. -/
def tileBlock (mem : Memory) (base : Nat) (f : BitVec 3) (line kb : Nat) : KBlock :=
  if f = 0 then .bf16 ((List.range 32).map (fun k => fmtValue .bf16 (mem.read (base + 128 * line + 64 * kb + 2 * k) 2)))
  else
    let m := f.toNat + 1
    let b := 2 * line + kb
    let block := mem.read (base + 4 * m * b) (4 * m)
    .bfp m (mem.read (base + planeSize (4 * m) 64 + b) 1) ((List.range 32).map (fun j => mantAt m j block))

/-- Whether a word that is read for a line of a tile is poisoned (R186). -/
def tilePoison (mem : Memory) (base : Nat) (f : BitVec 3) (line : Nat) : Bool :=
  if f = 0 then mem.anyPoison (base + 128 * line) 128
  else
    let m := f.toNat + 1
    mem.anyPoison (base + 8 * m * line) (8 * m) || mem.anyPoison (base + planeSize (4 * m) 64 + 2 * line) 2

/-- The K positions of the 32 compressed elements of a row, from its 64 metadata bits (R190). -/
def sparseAt (meta_ : Nat) (j : Nat) : Nat := 4 * (j / 2) + meta_ / 2 ^ (4 * (j / 2) + (if j % 2 = 0 then 0 else 2)) % 4

/-- Block kb of a row of a sparse A, expanded: each position of the block with the elements that stand there, or one zero
(R190). -/
def expand {α : Type} (zero : α) (xs : List α) (meta_ kb : Nat) : List (Nat × α) :=
  (List.range 32).flatMap (fun k =>
    match (List.range 16).filterMap (fun i =>
      let j := 16 * kb + i
      if sparseAt meta_ j = 32 * kb + k then some (k, xs.getD j zero) else none) with
    | [] => [(k, zero)]
    | l => l)

/-- V for block kb of a sparse row with a block of B (R76, R77, R190). -/
def sparseDot (mem : Memory) (base : Nat) (f : BitVec 3) (row meta_ kb : Nat) : KBlock → Num
  | .bfp mb eb ys =>
    let m := f.toNat + 1
    let block := mem.read (base + 4 * m * row) (4 * m)
    let ps := expand (0 : Int) ((List.range 32).map (fun j => mantAt m j block)) meta_ kb
    if f = 0 then .nan false
    else bfpBlock m mb (mem.read (base + planeSize (4 * m) 32 + row) 1) eb (ps.map (·.2)) (ps.map (fun p => ys.getD p.1 0))
  | .bf16 ys =>
    let xs := (List.range 32).map (fun j => fmtValue .bf16 (mem.read (base + 64 * row + 2 * j) 2))
    let ps := expand Num.zero xs meta_ kb
    if f = 0 then bf16Block (ps.map (·.2)) (ps.map (fun p => ys.getD p.1 .zero)) else .nan false

/-- Whether a word that is read for a row of a sparse A is poisoned (R186). -/
def sparsePoison (mem : Memory) (base : Nat) (f : BitVec 3) (row : Nat) : Bool :=
  if f = 0 then mem.anyPoison (base + 64 * row) 64
  else
    let m := f.toNat + 1
    mem.anyPoison (base + 4 * m * row) (4 * m) || mem.poison (base + planeSize (4 * m) 32 + row)

/-- Matrix status bits of a set of flags (R186, R192): NV, OF, UF, NX, SAT. -/
def matrixFlags (f : Flags) : BitVec 5 :=
  withBit (withBit (withBit (withBit (withBit 0 0 (bit 0 f)) 1 (bit 2 f)) 2 (bit 3 f)) 3 (bit 4 f)) 4 (bit 5 f)

/-- The product added to a tile (R76, R77): V of row i, column line c and block kb; poison of rows and of column lines. -/
def accumulateTile (cbuf : Memory) (t : Nat) (v : Nat → Nat → Nat → Num) (rowPsn colPsn : Nat → Bool) : Memory × Flags :=
  (List.range 512).foldl (fun (r : Memory × Flags) w =>
    let i := w / 16
    let c := w % 16 * 2
    let a := 4096 * t + 8 * w
    let one (c : Nat) (old : Nat) : Nat × Flags :=
      let x := accumulate old (v i c 0)
      let y := accumulate x.1 (v i c 1)
      (y.1, x.2 ||| y.2)
    let x := one c (r.1.read a 4)
    let y := one (c + 1) (r.1.read (a + 4) 4)
    let p := r.1.poison a || rowPsn i || colPsn c || colPsn (c + 1)
    ((r.1.write a 8 (x.1 + y.1 * 2 ^ 32)).setPoison a p, r.2 ||| x.2 ||| y.2)) (cbuf, .none)

/-- The product of a dense A and a latch, added to a tile (R76, R77, R199). -/
def denseProduct (cbuf wbuf : Memory) (fa : BitVec 3) (slot t : Nat) (b : Latch) : Memory × Flags :=
  let rows := (List.range 64).map (fun x => tileBlock wbuf (256 * slot) fa (x / 2) (x % 2))
  let cols := (List.range 64).map (fun x => tileBlock b.img 0 b.tag (x / 2) (x % 2))
  let none_ : KBlock := .bf16 []
  accumulateTile cbuf t (fun i c kb => (rows.getD (2 * i + kb) none_).dot (cols.getD (2 * c + kb) none_))
    (tilePoison wbuf (256 * slot) fa) (tilePoison b.img 0 b.tag)

/-- The product of a sparse A and a latch, added to a tile (R190, R199). -/
def sparseProduct (cbuf wbuf sp : Memory) (fa : BitVec 3) (slot t ofs : Nat) (b : Latch) : Memory × Flags :=
  let cols := (List.range 64).map (fun x => tileBlock b.img 0 b.tag (x / 2) (x % 2))
  let none_ : KBlock := .bf16 []
  accumulateTile cbuf t (fun i c kb =>
      sparseDot wbuf (256 * slot) fa i (sp.read (ofs + 8 * i) 8) kb (cols.getD (2 * c + kb) none_))
    (fun i => sparsePoison wbuf (256 * slot) fa i || sp.poison (ofs + 8 * i)) (tilePoison b.img 0 b.tag)

/-! ## Epilogue (R193, R194, R203) -/

/-- ABUF while an AEPI runs: its contents, the poison that the output word under way has gathered, and the flags. -/
structure EpiState where
  abuf  : Memory
  psn   : Bool
  flags : Flags

/-- One element of AEPI (R203): its bias is read from ABUF as the elements before it left it (R7). The poison of an output word
is that of all its elements and stands until then beside the old one (R186). -/
def epilogueElem (cbuf : Memory) (ty : Fmt) (sat : Bool) (bias : Option Nat) (t slot : Nat) (scale : Half) (x : EpiState)
    (e : Nat) : EpiState :=
  let sz := fmtBytes ty
  let a := 4096 * t + 4 * e
  let dst := 256 * slot + sz * e
  let b : Num × Bool := match bias with
    | some o => (f32 (x.abuf.read (o + 4 * (e % 32)) 4), x.abuf.poison (o + 4 * (e % 32)))
    | none => (.zero, false)
  let y := fmtRound ty sat .rne (((f32 (cbuf.read a 4)).mul (f32 scale.toNat)).add .rne b.1)
  let p := (x.psn && decide (dst % 8 ≠ 0)) || cbuf.poison a || b.2
  let last := decide ((dst + sz) % 8 = 0)
  ⟨(x.abuf.write dst sz y.1).setPoison dst (p || (!last && x.abuf.poison dst)), p, x.flags ||| y.2⟩

/-- The output of AEPI (R203), element by element. -/
def epilogueTile (cbuf abuf : Memory) (ty : Fmt) (sat : Bool) (bias : Option Nat) (t slot : Nat) (scale : Half) :
    Memory × Flags :=
  let r := (List.range 1024).foldl (epilogueElem cbuf ty sat bias t slot scale) ⟨abuf, false, .none⟩
  (r.abuf, r.flags)

/-- The place of a value in the rank order of R193: greater first, minus zero below plus zero. -/
def rankKey (v : Half) : Int := if v.toNat < 2 ^ 31 then v.toNat else -((v.toNat : Int) - 2 ^ 31) - 1

/-- One candidate stands strictly before another in rank order (R193). -/
def SelEntry.before (a b : SelEntry) : Bool :=
  decide (rankKey a.val > rankKey b.val) || (decide (rankKey a.val = rankKey b.val) && decide (a.idx < b.idx))

/-- A candidate put in its place in rank order, behind those of equal value and index: candidates of one value and one index that differ in
their poison alone R193 does not order, and the one supplied first comes first (DESIGN CHOICE, log 43). -/
def rankInsert (x : SelEntry) : List SelEntry → List SelEntry
  | [] => [x]
  | y :: r => if x.before y then x :: y :: r else y :: rankInsert x r

/-- The selection of R193 over candidates in rank order: k entries, at most lim of a group unless lim is 0. -/
def select (k gs lim : Nat) (l : List SelEntry) : List SelEntry :=
  l.foldl (fun e x =>
    if decide (e.length < k) && (decide (lim = 0) ||
      decide (e.countP (fun y => decide (y.idx / 2 ^ gs = x.idx / 2 ^ gs)) < lim)) then e ++ [x] else e) []

/-- The entries of a list that are not empty. -/
def listEntries (m : SMap SelEntry) (row : Nat) : List SelEntry :=
  ((List.range 256).map (fun r => m.get .empty (256 * row + r))).filter (fun e => decide (e ≠ .empty))

/-- A list replaced. -/
def setList (m : SMap SelEntry) (row : Nat) (l : List SelEntry) : SMap SelEntry :=
  (List.range 256).foldl (fun m r => m.set .empty (256 * row + r) (l.getD r .empty)) m

/-- The candidates that a tile supplies to a list (R193), and whether a NaN was passed over: element o of the list's line. -/
def candidates (cbuf : Memory) (t line base : Nat) (dead : Half) (byRow : Bool) : List SelEntry × Bool :=
  (List.range 32).foldl (fun (r : List SelEntry × Bool) o =>
    if bit o dead then r
    else
      let e := if byRow then 32 * line + o else 32 * o + line
      let a := 4096 * t + 4 * e
      let v := cbuf.read a 4
      if (f32 v).isNan then (r.1, true) else (r.1 ++ [⟨BitVec.ofNat 32 v, base + o, cbuf.poison a⟩], r.2)) ([], false)

/-- Lists after a tile has supplied its candidates (R193). -/
def supply (cbuf : Memory) (m : SMap SelEntry) (lines : List Nat) (t base : Nat) (dead : Half) (byRow : Bool)
    (k gs lim : Nat) : SMap SelEntry × Bool :=
  lines.foldl (fun (r : SMap SelEntry × Bool) line =>
    let c := candidates cbuf t line base dead byRow
    let l := c.1.foldl (fun l x => rankInsert x l) (listEntries r.1 line)
    (setList r.1 line (select k gs lim l), r.2 || c.2)) (m, false)

/-- Fields of an ATOPK.init configuration (R194). -/
structure TkCfg where
  k   : Nat
  one : Bool
  row : Nat
  gs  : Nat
  lim : Nat

/-- The fields of a configuration word (R194). -/
def tkFields (w : Word) : TkCfg := ⟨natBits 0 9 w, bit 9 w, natBits 10 5 w, natBits 15 5 w, natBits 20 8 w⟩

/-- A legal ATOPK.init configuration (R194). -/
def tkLegal (w : Word) : Bool :=
  let c := tkFields w
  decide (bits 28 36 w = 0) && decide (c.gs ≤ 16) && decide (1 ≤ c.k) &&
    (if c.one then decide (c.k ≤ 256) else decide (c.k ≤ 8) && decide (c.row = 0))

/-- A legal ACSEL.init configuration (R194). -/
def csLegal (w : Word) : Bool := decide (1 ≤ w.toNat) && decide (w.toNat ≤ 16)

namespace Matrix

/-- The active rows (R194). -/
def activeRows (m : Matrix) : List Nat := let c := tkFields m.tkCfg; if c.one then [c.row] else List.range 32

/-- SHORTK (R192). -/
def shortK (m : Matrix) : Bool :=
  m.tkOn && m.activeRows.any (fun r => decide ((listEntries m.tk r).length < (tkFields m.tkCfg).k))

/-- SHORTC (R192). -/
def shortC (m : Matrix) : Bool :=
  m.csOn && (List.range 32).any (fun c => decide ((listEntries m.cs c).length < natBits 0 5 m.csCfg))

/-- The matrix status as ARDK reads it (R192). -/
def statusWord (m : Matrix) : Word :=
  zext m.status ||| BitVec.ofNat 64 ((if m.shortK then 2 ^ 8 else 0) + (if m.shortC then 2 ^ 9 else 0))

/-- Flags ORed into the matrix status (R186). -/
def addFlags (m : Matrix) (f : Flags) : Matrix := { m with status := m.status ||| matrixFlags f }

/-- The version of a completed writer (R181, R185). -/
def setDone (m : Matrix) (t : Nat) (ver : BitVec 16) : Matrix := { m with vc := m.vc.set 0 t (ver + 1) }

end Matrix

/-! ## Completion -/

/-- The thread that accepted a job, while it is there (R324). -/
def MatJob.by? (j : MatJob) (c : Nat) : Option (Nat × Nat) := if j.gone then none else some (c, j.ctx)

namespace State

/-- The matrix state of a core changed; all its units are journalled (R322, log 31). -/
def modMatrix (s : State) (c : Nat) (by_ : Option (Nat × Nat)) (f : Matrix → Matrix) : State :=
  (s.modCore c (fun x => { x with mx := f x.mx })).touchCore c unitsOfMatrix by_

/-- The lines of CBUF or ABUF under a range of bytes are journalled (R322). -/
def touchRange (s : State) (c : Nat) (sp : Space) (a n : Nat) (by_ : Option (Nat × Nat)) : State :=
  s.touchCore c ((List.range ((a + n + 255) / 256 - a / 256)).map (fun i => unitOfBuffer sp (256 * (a / 256 + i)))) by_

/-- A job's effect on the unit, on CBUF and on ABUF, and its result for D if it has one. -/
def runMatrix (s : State) (c : Nat) (j : MatJob) : State × Option (Reg × Val) :=
  let x := s.coreAt c
  let m := x.mx
  let who := s.liveBy (j.by? c)
  let product (t : Nat) (ver : BitVec 16) (r : Memory × Flags) : State × Option (Reg × Val) :=
    (((s.touchRange c .cb (4096 * t) 4096 who).modCore c (fun x => { x with cbuf := r.1 })).modMatrix c who
      (fun m => (m.addFlags r.2).setDone t ver), none)
  match j.op with
  | .mfmt fa fb sc => (s.modMatrix c who (fun m => { m with fa := fa, fb := fb, scale := sc }), none)
  | .bload l ba =>
    let n := tileBytes m.fb
    let img : Memory := (Memory.empty.writeBytes 0 (x.abuf.readBytes ba n))
    let img := (List.range (n / 8)).foldl (fun (i : Memory) w => i.setPoison (8 * w) (x.abuf.poison (ba + 8 * w))) img
    (s.modMatrix c who (fun m => m.setLatch l ⟨img, m.fb⟩), none)
  | .mma t l slot ver => product t ver (denseProduct x.cbuf x.wbuf m.fa slot t (m.latch l))
  | .mmas t l slot ofs ver =>
    product t ver (sparseProduct x.cbuf x.wbuf (s.spanAt (spanOf c)).sp m.fa slot t ofs (m.latch l))
  | .azero t ver =>
    let z := (List.range 512).foldl (fun (b : Memory) w => (b.write (4096 * t + 8 * w) 8 0).setPoison (4096 * t + 8 * w) false) x.cbuf
    product t ver (z, .none)
  | .aepi ty sat bias t slot scale =>
    let r := epilogueTile x.cbuf x.abuf ty sat bias t slot scale
    (((s.touchRange c .ab (256 * slot) (1024 * fmtBytes ty) who).modCore c (fun x => { x with abuf := r.1 })).modMatrix c who
      (fun m => m.addFlags r.2), none)
  | .atopkInit w => (s.modMatrix c who (fun m => { m with tkCfg := w, tkOn := true, tk := [] }), none)
  | .atopkAcc t base dead =>
    let k := tkFields m.tkCfg
    let r := supply x.cbuf m.tk m.activeRows t base dead true k.k k.gs k.lim
    (s.modMatrix c who (fun m => { m.addFlags (Flags.when r.2 .nv) with tk := r.1 }), none)
  | .acselInit w => (s.modMatrix c who (fun m => { m with csCfg := w, csOn := true, cs := [] }), none)
  | .acselAcc t base dead =>
    let r := supply x.cbuf m.cs (List.range 32) t base dead false (natBits 0 5 m.csCfg) 0 0
    (s.modMatrix c who (fun m => { m.addFlags (Flags.when r.2 .nv) with cs := r.1 }), none)
  | .ardk d var rank row =>
    let entry (e : SelEntry) : Val := ⟨BitVec.ofNat 32 e.idx ++ e.val, e.psn⟩
    let v := match var with
      | .topk => let k := tkFields m.tkCfg; entry (m.tk.get .empty (256 * (if k.one then k.row else row) + rank))
      | .csel => entry (m.cs.get .empty (256 * row + rank))
      | .stat => ⟨m.statusWord, false⟩
    (s, some (d, v))
  | .ardkClr d mask =>
    (s.modMatrix c who (fun m => { m with status := m.status &&& ~~~ bits 0 5 mask }), some (d, ⟨m.statusWord, false⟩))
  | .brot _ => (s, none)
  | .mma2 _ _ _ _ _ => (s, none)

/-- The job at the head of a path completes (R180, R182, R185); BROT and MMA2 go on by BROT_STEP and MMA2_GROUP_OP. -/
def completeMatrix (s : State) (c : Nat) (epilogue : Bool) : State :=
  match (s.coreAt c).mx.head epilogue with
  | none => s
  | some j =>
    if j.op.isBrot true || j.op.isBrot false || j.op.isMma2 || !(s.coreAt c).mx.free j then s
    else
      let s := s.modCore c (fun x => { x with mx := x.mx.without (· == j) })
      let r := s.runMatrix c j
      if epilogue then
        (match r.2 with
          | some (d, v) => r.1.setRegAt c j.ctx d v
          | none => r.1).retireAt c j.ctx
      else r.1

/-! ## Rings and groups (R11, R187 to R189) -/

/-- The cores of the truss ring of a core, by rising offset (R11). -/
def trussRing (s : State) (c : Nat) : List Nat :=
  let l : Nat := match (s.holder c).bind s.gangAt with
    | some g => g.ring
    | none => 8
  (List.range l).map (fun i => c - c % 8 + c % 8 / l * l + i)

/-- The 16 cores of the MMA2 group of a core: its row in both spans of its pair, west to east (R188). -/
def pairRow (c : Nat) : List Nat :=
  (List.range 16).map (fun i => c / 16 * 16 + i)

/-- The first job of a core's sequence that satisfies a test on its operation. -/
def firstJob (s : State) (c : Nat) (p : MatOp → Bool) : Option MatJob := (s.coreAt c).mx.seq.find? (fun j => p j.op)

/-- The i-th jobs of a kind in the sequences of some cores, where there are such. -/
def jobsAt (s : State) (cores : List Nat) (p : MatOp → Bool) (i : Nat) : List MatJob :=
  cores.filterMap (fun r => ((s.coreAt r).mx.seq.filter (fun j => p j.op))[i]?)

/-- Of the jobs of a step, those that were accepted before its count of 2^20 cycles from the first acceptance ended (R187, R189). -/
def inTime (l : List MatJob) : List MatJob := l.filter (fun j => l.all (fun x => decide (j.at_ < x.at_ + 2 ^ 20)))

/-- Every member of a ring or a group has accepted, and none after the count ended (R187, R189). -/
def assembled (s : State) (cores : List Nat) (p : MatOp → Bool) (i : Nat) : Bool :=
  decide ((inTime (s.jobsAt cores p i)).length = cores.length)

/-- A BROT or MMA2 of a core's sequence waits for a member of its ring or group that has not accepted (R182, R187, R189): the k-th of a
core belongs with the k-th of every other. -/
def lacksPartner (s : State) (c : Nat) (j : MatJob) : Bool :=
  let missing (cores : List Nat) (p : MatOp → Bool) : Bool :=
    !s.assembled cores p (((s.coreAt c).mx.seq.filter (fun j => p j.op)).takeWhile (· != j)).length
  match j.op with
  | .brot l => missing (s.trussRing c) (MatOp.isBrot l)
  | .mma2 _ _ _ _ _ => missing (pairRow c) MatOp.isMma2
  | _ => false

/-- The matrix unit of a core as it stands once all has completed for which no further acceptance is needed (R182): its sequence up to the
first BROT or MMA2 that lacks a member. -/
def settled (s : State) (c : Nat) : Matrix :=
  let m := (s.coreAt c).mx
  let jobs := m.seq.takeWhile (fun j => !s.lacksPartner c j)
  jobs.foldl (fun m j => match j.op with
    | .mma t _ _ ver => m.setDone t ver
    | .mmas t _ _ _ ver => m.setDone t ver
    | .azero t ver => m.setDone t ver
    | .mma2 _ t _ _ ver => { m.setDone t ver with vi := m.vi.set 0 t (ver + 1) }
    | _ => m) { m with seq := m.seq.drop jobs.length }

/-- No instruction that has been accepted and not completed will ever release a wait of the running thread for a version or the tag of a
latch (R182). -/
def versionStuck (s : State) (i : Instr) : Bool := (s.settled s.core).versionWaits i

/-- A context in ISSUED waits on a version, a ring partner or a group, and no instruction that has been accepted and not completed will ever
release that wait (R182). -/
def stuck (s : State) (c k : Nat) : Bool :=
  let t := s.thread c k
  match t.wait with
  | .stall .version => t.held.any ({ s with core := c, ctx := k } : State).versionStuck
  | .stall .partner => (s.coreAt c).mx.seq.any (fun j => decide (j.ctx = k) && s.lacksPartner c j)
  | _ => false

/-- A job of that kind stands at the head of the array path of a core, free to begin. -/
def atHead (s : State) (c : Nat) (p : MatOp → Bool) : Bool :=
  match (s.coreAt c).mx.head false with
  | some j => p j.op && (s.coreAt c).mx.free j
  | none => false

/-- Cycles in which no thread of the gang of a core was HALTED (R187, R189, R249). -/
def liveCycles (s : State) (c : Nat) : Nat := ((s.holder c).bind s.gangAt).elim 0 (·.live)

/-- The i-th job of a kind is taken out of a core's sequence, with what then happens to its thread. -/
def takeNth (s : State) (c i : Nat) (p : MatOp → Bool) (k : State → MatJob → State) : State :=
  match ((s.coreAt c).mx.seq.filter (fun j => p j.op))[i]? with
  | some j => k (s.modCore c (fun x => { x with mx := x.mx.without (· == j) })) j
  | none => s

/-- The first job of a kind is taken out of a core's sequence. -/
def takeJob (s : State) (c : Nat) (p : MatOp → Bool) (k : State → MatJob → State) : State := s.takeNth c 0 p k

/-- At a halt, the BROTs and MMA2s of a core whose step has not begun are undone, and their threads stand before them again
(R187, R189, R191). -/
def undoPartners (s : State) (c : Nat) : State :=
  let undone (o : MatOp) : Bool := o.isBrot true || o.isBrot false || o.isMma2
  (s.coreAt c).mx.seq.foldl (fun s _ => s.takeJob c undone (fun s j =>
    s.modThread c j.ctx (fun t => t.readied s.clock))) s

/-- BROT's step (R187): every core's image and tag go to its east neighbour, and every member retires. -/
def brotStep (s : State) (c : Nat) (l : Bool) : State :=
  let ring := s.trussRing c
  if ring.all (fun r => s.atHead r (MatOp.isBrot l)) && s.assembled ring (MatOp.isBrot l) 0 then
    let old := ring.map (fun r => (s.coreAt r).mx.latch l)
    (List.range ring.length).foldl (fun s i =>
      let r := ring.getD i 0
      let x := old.getD ((i + ring.length - 1) % ring.length) ⟨.empty, 7⟩
      s.takeJob r (MatOp.isBrot l) (fun s j =>
        (s.modMatrix r (some (r, j.ctx)) (fun m => m.setLatch l x)).retireAt r j.ctx)) s
  else s

/-- The count of 2^20 cycles of a step has ended: some member has not accepted within it, and the first acceptance lies that far back. -/
def timedOut (s : State) (cores : List Nat) (p : MatOp → Bool) : Bool :=
  !s.assembled cores p 0 &&
    cores.any (fun r => match s.firstJob r p with
      | some j => decide (s.liveCycles r ≥ j.at_ + 2 ^ 20)
      | none => false)

/-- Every member that has accepted within the count traps PAIR_TIMEOUT, and its job is withdrawn (R187, R189). One that has accepted later
belongs to the step formed afresh. -/
def pairTimeout (s : State) (cores : List Nat) (p : MatOp → Bool) : State :=
  if s.timedOut cores p then
    let due := cores.filter (fun r => (s.firstJob r p).any (inTime (s.jobsAt cores p 0)).contains)
    due.foldl (fun s r => s.takeJob r p (fun s j => s.raiseTrapAt r j.ctx Cause.pairTimeout 0)) s
  else s

/-- The group operation of R188: every member's product, then the rotation, then every member retires with D := 0. -/
def mma2Group (s : State) (c : Nat) : State :=
  let row := pairRow c
  if row.all (fun r => s.atHead r MatOp.isMma2) && s.assembled row MatOp.isMma2 0 then
    let job (r : Nat) : Option MatJob := s.firstJob r MatOp.isMma2
    -- the latch that a member names, and its image and tag
    let latchOf (r : Nat) : Option (Bool × Latch) := match job r with
      | some ⟨_, .mma2 _ _ l _ _, _, _⟩ => some (l, (s.coreAt r).mx.latch l)
      | _ => none
    -- products, each from the latches as they stood
    let t := row.foldl (fun t r => match job r with
      | some ⟨k, .mma2 _ n l slot ver, _, _⟩ =>
        let x := s.coreAt r
        let p := denseProduct x.cbuf x.wbuf x.mx.fa slot n (x.mx.latch l)
        ((t.touchRange r .cb (4096 * n) 4096 (some (r, k))).modCore r (fun x => { x with cbuf := p.1 })).modMatrix r (some (r, k))
          (fun m => { (m.addFlags p.2).setDone n ver with vi := m.vi.set 0 n (ver + 1) })
      | _ => t) s
    -- rotation: a member's own bL names the latch of its east neighbour that receives
    let t := (List.range 16).foldl (fun t i =>
      match latchOf (row.getD i 0) with
      | some (l, x) => t.modCore (row.getD ((i + 1) % 16) 0) (fun y => { y with mx := y.mx.setLatch l x })
      | none => t) t
    row.foldl (fun t r => t.takeJob r MatOp.isMma2 (fun t j => match j.op with
      | .mma2 d _ _ _ _ => t.finishAt r j.ctx d 0
      | _ => t)) t
  else s

/-- A member's MMA2 has trapped (R189): every other member that has accepted its MMA2 of the same group operation retires with
D := 1, and nothing else changes. The group operation is the one after those whose MMA2 the member has pending. -/
def mma2Broken (s : State) (c : Nat) : State :=
  let k := (s.coreAt c).mx.seq.countP (fun j => j.op.isMma2)
  (pairRow c).foldl (fun s r =>
    if r = c then s
    else s.takeNth r k MatOp.isMma2 (fun s j => match j.op with
      | .mma2 d _ _ _ _ => s.finishAt r j.ctx d 1
      | _ => s)) s

/-! ## Acceptance (R180 to R182, R195) -/

/-- The running thread's gang, when it holds the matrix unit (R179). -/
def matrixGang (s : State) : Option Gang := (s.gangOf s.me).filter (·.mxu)

/-- A cancel or an abort has reached the running thread (R302, R353). -/
def endsWaits (s : State) : Bool := s.aborting s.core s.ctx || s.cancelled s.core s.ctx

/-- A wait in ISSUED for a version or a latch, which a cancel or an abort ends without effect unless an accepted instruction will release
it (R182, R302, R353). -/
def waitVersion (i : Instr) (s : State) : State := if s.endsWaits && s.versionStuck i then s.retire else s.stall .version

/-- Checks 1 and 2 of R195, and the wait for the thread's earlier accesses to WBUF, ABUF and the scratchpad (R180). -/
def matrixChecked (s : State) (ops : List Reg) (k : State → Gang → State) : State :=
  match s.matrixGang with
  | none => s.raiseOpen Cause.access
  | some g =>
    if ops.any (fun r => (s.reg r).p) then s.raisePoison
    else if s.me.out.any (fun x => decide (x.space = .wb) || decide (x.space = .ab) || decide (x.space = .sp)) then s.stall .order
    else k s g

/-- An operation joins the sequence (R180), which is no part of the unit's state of R179 that the journal covers. -/
def accept (s : State) (op : MatOp) : State :=
  let at_ := s.liveCycles s.core
  s.modMyCore (fun x => { x with mx := { x.mx with seq := x.mx.seq ++ [⟨s.ctx, op, at_, false⟩] } })

/-- A BROT or MMA2 that the running thread would now have accepted waits for a member that has not accepted, and a cancel or an abort ends
that wait at once (R182). -/
def abandoned (s : State) (op : MatOp) : Bool :=
  s.endsWaits && (s.accept op).lacksPartner s.core ⟨s.ctx, op, s.liveCycles s.core, false⟩

/-- An array-path operation is accepted unless four are in flight (R180). -/
def acceptArray (s : State) (op : MatOp) (k : State → State) : State :=
  if s.myCore.mx.inFlight ≥ 4 then s.stall .limit else k (s.accept op)

/-- A pending MMA2 on a tile of the running thread's core. -/
def tilePending (s : State) (t : Nat) : Bool := s.myCore.mx.pendingOn t

/-- The version test of R181: above, it traps; below, or with an MMA2 pending on the tile, it waits; equal, it goes on. -/
def versioned (s : State) (t : Nat) (ver : BitVec 16) (wait trap k : State → State) : State :=
  let vi := s.myCore.mx.accepted t
  let d := (vi - ver).toInt
  if d > 0 then trap (s.raiseTrap Cause.range (zext vi))
  else if s.tilePending t || d < 0 then wait s
  else k s

/-- A writer is accepted: Vi advances, and it retires (R181, R182). -/
def acceptWriter (s : State) (op : MatOp) (t : Nat) (ver : BitVec 16) : State :=
  s.acceptArray op (fun s =>
    (s.modMatrix s.core (some (s.core, s.ctx)) (fun m => { m with vi := m.vi.set 0 t (ver + 1) })).retire)

/-- An epilogue operation is accepted; the thread stays in ISSUED until it completes (R182). -/
def acceptEpilogue (s : State) (op : MatOp) : State := (s.accept op).stall .epilogue

/-- The checks of an MMA-class instruction that depend on its place in the sequence (R51, R184): the wait for a ring transfer
that fixes the tag of its latch, the A image within WBUF, and the pairing of formats. The manual does not order that wait and the
checks of R51: a slot of 160 or more traps before the wait, and a tile that runs past WBUF, whose size is that of the A format at the
instruction's place, after it, so that a cancel in the wait ends the instruction without that trap (DESIGN CHOICE, log 43). -/
def mmaChecked (s : State) (l : Bool) (slot : BitVec 8) (size : BitVec 3 → Nat) (wait trap k : State → State) : State :=
  let m := s.myCore.mx
  let x := m.atEnd
  if slot.toNat ≥ 160 then trap (s.raiseOpen Cause.range)
  else if m.latchWaits l then wait s
  else if 256 * slot.toNat + size x.fa > Config.wbSize then trap (s.raiseOpen Cause.range)
  else if decide (x.fa = 0) != decide ((if l then x.t1 else x.t0) = 0) then trap (s.raiseOpen Cause.range)
  else k s

end State

/-! ## Instructions -/

/-- MFMT (R196). -/
def execMfmt (fa fb : BitVec 3) (a : Reg) (s : State) : Out :=
  .next (s.matrixChecked [a] (fun s _ => s.acceptArray (.mfmt fa fb (bits 0 32 (s.reg a).v)) (·.retire)))

/-- BLOAD (R197). -/
def execBload (l : Bool) (a : Reg) (s : State) : Out :=
  .next (s.matrixChecked [a] (fun s _ =>
    let ba := (s.reg a).v.toNat
    if ba % 256 ≠ 0 ∨ ba + tileBytes s.myCore.mx.atEnd.fb > Config.abSize then s.raiseTrap Cause.range (s.reg a).v
    else s.acceptArray (.bload l ba) (·.retire)))

/-- BROT (R187, R198): accepted, it waits in ISSUED for its ring. -/
def execBrot (l : Bool) (s : State) : Out :=
  .next (s.matrixChecked [] (fun s _ =>
    if s.abandoned (.brot l) then s.retire else s.acceptArray (.brot l) (·.stall .partner)))

/-- MMA (R199). -/
def execMma (t : BitVec 2) (l : Bool) (slot : BitVec 8) (ver : BitVec 16) (s : State) : Out :=
  .next (s.matrixChecked [] (fun s _ => s.mmaChecked l slot tileBytes (State.waitVersion (.mma t l slot ver)) id (fun s =>
    s.versioned t.toNat ver (State.waitVersion (.mma t l slot ver)) id (fun s => s.acceptWriter (.mma t.toNat l slot.toNat ver) t.toNat ver))))

/-- MMAS (R190, R199). A bad record is reported before a bad slot, image or pairing of formats, and before the wait for a ring: R195 does
not order the parts of its check 3 (DESIGN CHOICE, log 43). -/
def execMmas (t : BitVec 2) (l : Bool) (slot : BitVec 8) (a : Reg) (ver : BitVec 16) (s : State) : Out :=
  .next (s.matrixChecked [a] (fun s _ =>
    let r := (s.reg a).v
    let ofs := natBits 0 21 r
    if natBits 21 3 r ≠ 1 ∨ bits 24 40 r ≠ 0 ∨ ofs % 256 ≠ 0 ∨ ofs + 256 > Config.spSize then s.raiseTrap Cause.range r
    else s.mmaChecked l slot sparseBytes (State.waitVersion (.mmas t l slot a ver)) id (fun s =>
      s.versioned t.toNat ver (State.waitVersion (.mmas t l slot a ver)) id (fun s => s.acceptWriter (.mmas t.toNat l slot.toNat ofs ver) t.toNat ver))))

/-- MMA2 (R188, R200): accepted when Vi = Vc = v, it waits in ISSUED for its group. -/
def execMma2 (d : Reg) (t : BitVec 2) (l : Bool) (slot : BitVec 8) (ver : BitVec 16) (s : State) : Out :=
  .next (s.matrixChecked [] (fun s g =>
    let ended (s : State) : State := s.finish d ⟨if s.aborting s.core s.ctx then 7 else 6, false⟩
    let wait (s : State) : State :=
      if s.endsWaits && s.versionStuck (.mma2 d t l slot ver) then ended s else s.stall .version
    let op : MatOp := .mma2 d t.toNat l slot.toNat ver
    let broken (s : State) : State := s.mma2Broken s.core
    if !g.paired then s.raiseOpen Cause.range
    else s.mmaChecked l slot tileBytes wait broken (fun s => s.versioned t.toNat ver wait broken (fun s =>
      if s.myCore.mx.completed t.toNat ≠ ver then wait s
      else if s.abandoned op then ended s else s.acceptArray op (·.stall .partner)))))

/-- AZERO (R201). -/
def execAzero (t : BitVec 2) (ver : BitVec 16) (s : State) : Out :=
  .next (s.matrixChecked [] (fun s _ =>
    s.versioned t.toNat ver (State.waitVersion (.azero t ver)) id (fun s => s.acceptWriter (.azero t.toNat ver) t.toNat ver)))

/-- AVER (R202). -/
def execAver (d : Reg) (t : BitVec 2) (s : State) : Out :=
  .next (match s.matrixGang with
    | none => s.raiseOpen Cause.access
    | some _ =>
      let m := s.myCore.mx
      s.finish d ⟨zext (m.accepted t.toNat ++ m.completed t.toNat), false⟩)

/-- AWAITV (R183, R202). -/
def execAwaitv (t : BitVec 2) (ver : BitVec 16) (s : State) : Out :=
  .next (match s.matrixGang with
    | none => s.raiseOpen Cause.access
    | some _ => if (s.myCore.mx.completed t.toNat - ver).toInt ≥ 0 then s.retire else s.waitVersion (.awaitv t ver))

/-- AEPI (R203). -/
def execAepi (ty : Fmt) (sat bias : Bool) (t : BitVec 2) (slot : BitVec 8) (b : Reg) (ver : BitVec 16) (s : State) : Out :=
  .next (s.matrixChecked [b] (fun s _ =>
    let o := (s.reg b).v.toNat
    if 256 * slot.toNat + 1024 * fmtBytes ty > Config.abSize then s.raiseOpen Cause.range
    else if bias && (decide (o % 128 ≠ 0) || decide (o + 128 > Config.abSize)) then s.raiseOpen Cause.range
    else s.versioned t.toNat ver (State.waitVersion (.aepi ty sat bias t slot b ver)) id (fun s =>
      s.acceptEpilogue (.aepi ty sat (if bias then some o else none) t.toNat slot.toNat s.myCore.mx.atEnd.scale))))

/-- ATOPK.init (R194, R204). -/
def execAtopkInit (a : Reg) (s : State) : Out :=
  .next (s.matrixChecked [a] (fun s _ =>
    if tkLegal (s.reg a).v then s.acceptEpilogue (.atopkInit (s.reg a).v) else s.raiseTrap Cause.range (s.reg a).v))

/-- ATOPK.acc (R204). No entry states s.tval for a base out of range: it receives Operand(A) (DESIGN CHOICE, log 11). -/
def execAtopkAcc (t : BitVec 2) (a b : Reg) (ver : BitVec 16) (s : State) : Out :=
  .next (s.matrixChecked [a, b] (fun s _ =>
    let base := (s.reg a).v.toNat
    if base + 31 > 0xFFFE then s.raiseTrap Cause.range (s.reg a).v
    else s.versioned t.toNat ver (State.waitVersion (.atopkAcc t a b ver)) id (fun s => s.acceptEpilogue (.atopkAcc t.toNat base (bits 0 32 (s.reg b).v)))))

/-- ACSEL.init (R194, R204). -/
def execAcselInit (a : Reg) (s : State) : Out :=
  .next (s.matrixChecked [a] (fun s _ =>
    if csLegal (s.reg a).v then s.acceptEpilogue (.acselInit (s.reg a).v) else s.raiseTrap Cause.range (s.reg a).v))

/-- ACSEL.acc (R204). No entry states s.tval for a base out of range: it receives Operand(A) (DESIGN CHOICE, log 11). -/
def execAcselAcc (t : BitVec 2) (a b : Reg) (ver : BitVec 16) (s : State) : Out :=
  .next (s.matrixChecked [a, b] (fun s _ =>
    let base := (s.reg a).v.toNat
    if base + 31 > 0xFFFE then s.raiseTrap Cause.range (s.reg a).v
    else s.versioned t.toNat ver (State.waitVersion (.acselAcc t a b ver)) id (fun s => s.acceptEpilogue (.acselAcc t.toNat base (bits 0 32 (s.reg b).v)))))

/-- ARDK.topk, .csel and .stat (R205). -/
def execArdk (d a : Reg) (var : ArdkVar) (s : State) : Out :=
  .next (s.matrixChecked [a] (fun s _ =>
    let w := (s.reg a).v
    let rank := natBits 0 8 w
    let row := natBits 8 5 w
    let tk := tkFields s.myCore.mx.tkAtEnd
    let bad : Bool := match var with
      | .topk => decide (bits 13 51 w ≠ 0) || decide (rank ≥ tk.k) || (tk.one && decide (row ≠ 0))
      | .csel => decide (bits 13 51 w ≠ 0) || decide (rank ≥ natBits 0 5 s.myCore.mx.csAtEnd)
      | .stat => false
    if bad then s.raiseOpen Cause.range else s.acceptEpilogue (.ardk d var rank row)))

/-- ARDK.clr (R205). -/
def execArdkClr (d a : Reg) (s : State) : Out :=
  .next (s.matrixChecked [a] (fun s _ => s.acceptEpilogue (.ardkClr d (s.reg a).v)))

/-! ## Events -/

/-- MATRIX_COMPLETE (R180, R185). -/
def execMatrixComplete (core : Nat) (epilogue : Bool) (s : State) : Out := .next (s.completeMatrix core epilogue)

/-- BROT_STEP (R187). -/
def execBrotStep (core : Nat) (latch : Bool) (s : State) : Out := .next (s.brotStep core latch)

/-- BROT_TIMEOUT (R187). -/
def execBrotTimeout (core : Nat) (latch : Bool) (s : State) : Out :=
  .next (s.pairTimeout (s.trussRing core) (MatOp.isBrot latch))

/-- MMA2_GROUP_OP (R188). -/
def execMma2GroupOp (core : Nat) (s : State) : Out := .next (s.mma2Group core)

/-- MMA2_TIMEOUT (R189). -/
def execMma2Timeout (core : Nat) (s : State) : Out := .next (s.pairTimeout (State.pairRow core) MatOp.isMma2)

end Sys2Proof.Machine
end

