-- ==== Sys2Proof/Machine/Context.lean ====
section
/-! DEFINITION. The context instructions (spec/05) and the events of a context: release, debug halt, trap delivery,
asynchronous traps, register fill; where context records stand in memory. -/

set_option linter.constructorNameAsVariable false

namespace Sys2Proof.Machine

/-- STOP (R88): the word is folded and checked, IH is cleared (R114), and the thread is DONE. -/
def execStop (s : State) : Out := .next (s.lastWord.endThread)

/-- The start state of a thread (R90): o0 and o1 as given, everything else 0. -/
def Thread.start (owner : Owner) (priv : Bool) (o0 : Val) (o1 : Word) (rm : BitVec 2) (drawkey : Word) (born : Nat) : Thread :=
  { Thread.free with
    owner := owner, priv := priv, regs := SMap.set Val.zero (SMap.set Val.zero [] 2 o0) 3 ⟨o1, false⟩
    rmode := zext rm, drawkey := drawkey, born := born }

namespace State

/-- The lowest-numbered FREE context that TSTART of the running thread may claim (R90, R92). -/
def freeContext (s : State) : Option Nat :=
  (List.range 64).find? (fun k =>
    let t := s.thread s.core k
    decide (t.stat = .free) && (match s.me.owner with
      | .gang h => decide (t.owner = .gang h)
      | .sup => decide (t.owner = .none)
      | .none => false))

/-- TSTART once the parent's stores are performed (R90). The child's rounding mode is the parent's, as R90 states, although R72
names 0 for thread creation (DESIGN CHOICE, log 42). The change to the child's unit is the parent's (R324). -/
def startThread (s : State) (d a : Reg) (blk : Half) : State :=
  match s.freeContext with
  | none => s.finish d ⟨0xFFFFFFFFFFFFFFFF, false⟩
  | some k =>
    let t := s.me
    let child := Thread.start t.owner t.priv (s.reg a) (BitVec.ofNat 64 s.ctx) (bits 0 2 t.rmode) t.drawkey
      ((s.gangOf t).map (·.step) |>.getD 0)
    let s := s.finish d ⟨BitVec.ofNat 64 k, false⟩
    ((s.setThread s.core k child).countBlock s.core k).enterBlock s.core k blk none true
      (some (s.core, s.ctx))

/-- Special registers (R101). A supervisor thread reads s.tenant, s.gang and s.group as all ones (R92); the manual gives its
s.kern no value, so it is a free value (log 11). s.clock stands at most 16 cycles behind the device's count (log 4). -/
def special (s : State) (n : SReg) : Word × State :=
  let t := s.me
  let g := s.gangOf t
  let keep (w : Word) : Word × State := (w, s)
  match n with
  | .tid => keep (BitVec.ofNat 64 s.ctx)
  | .core => keep (BitVec.ofNat 64 (s.core % 128 + s.core / 128 * 256))
  | .span => keep (BitVec.ofNat 64 (spanOf s.core))
  | .gang => keep (match g, t.gang? with
    | some g, some h => BitVec.ofNat 64 (g.index % 256 + h * 256)
    | _, _ => 0xFFFFFFFFFFFFFFFF)
  | .kern => match g with
    | some g => keep (BitVec.ofNat 64 g.kern)
    | none => s.freeValue
  | .step => keep (match g with
    | some g => BitVec.ofNat 64 g.step
    | none => 0)
  | .tenant => keep (match g with
    | some g => BitVec.ofNat 64 g.tenant
    | none => 0xFFFFFFFFFFFFFFFF)
  | .group => keep (match g with
    | some g => (g.group.map (BitVec.ofNat 64)).getD 0xFFFFFFFFFFFFFFFF
    | none => 0xFFFFFFFFFFFFFFFF)
  | .sib => keep (match g with
    | some g => if g.group.isSome then BitVec.ofNat 64 g.sib else 0
    | none => 0)
  | .drawkey => keep t.drawkey
  | .clock => (BitVec.ofNat 64 (s.clock - (Config.clockSkew s.fresh).val), { s with fresh := s.fresh + 1 })
  | .cause => keep (zext t.cause)
  | .tpc => keep t.tpc
  | .tval => keep t.tval
  | .rmode => keep t.rmode

end State

/-- A special register written (R101): reserved bits are ignored; a read-only register is left (its word fails check 5). -/
def Thread.setSpecial (t : Thread) (n : SReg) (w : Word) : Thread :=
  match n with
  | .drawkey => { t with drawkey := w }
  | .cause => { t with cause := bits 0 8 w }
  | .tpc => { t with tpc := w &&& 0x3FFFFFFFFFF }
  | .tval => { t with tval := w }
  | .rmode => { t with rmode := w &&& rmodeMask }
  | .tid => t
  | .core => t
  | .span => t
  | .gang => t
  | .kern => t
  | .step => t
  | .tenant => t
  | .group => t
  | .sib => t
  | .clock => t

/-- TSTART (R90): a release at .core scope. -/
def execTstart (d a : Reg) (blk : Half) (s : State) : Out := .next (s.afterAccesses .core (fun s => s.startThread d a blk))

/-- TYIELD (R100): the age is reset. -/
def execTyield (s : State) : Out := .next (s.retire.modMe (fun t => { t with age := s.clock }))

/-- TRAP: the last word of its block (R319), then SOFTWARE with the code (R314). -/
def execTrap (code : Half) (s : State) : Out := .next (s.lastWord.raiseTrap Cause.software (zext code))

/-- BRK: HALTED where debug is enabled, with a notification (R88, R232); else BREAKPOINT. -/
def execBrk (code : Half) (s : State) : Out :=
  .next (
    let debug : Bool := match s.gangOf s.me with
      | some g => g.debug && decide (g.stat ≠ .aborting)
      | none => false
    if debug then
      ((s.modMe (fun t => { t with stat := .halted, cause := Cause.breakpoint, tpc := pcWord t.pcBlk t.pcOff, tval := zext code,
                                   held := none, wait := .none, haltAt := some (t.pcBlk, t.pcOff) })).touchCore s.core
        [unitOfThread s.ctx] (some (s.core, s.ctx))).notifyThread s.core s.ctx 0x000F (zext code)
    else s.raiseTrap Cause.breakpoint (zext code))

/-- TRET. -/
def execTret (skip : Bool) (s : State) : Out := .next (s.trapReturn skip)

/-- SRD (R101). -/
def execSrd (d : Reg) (n : SReg) (s : State) : Out := .next (let r := s.special n; r.2.finish d ⟨r.1, false⟩)

/-- SWR (R101): a poisoned source sets the thread poison flag (R94). -/
def execSwr (n : SReg) (a : Reg) (s : State) : Out :=
  .next ((s.modMe (fun t => (t.setSpecial n (s.reg a).v).taintFlag (s.reg a).p)).retire)

/-- The live-in mask that GDEAD leaves: every register but the ones named. -/
def gdeadMask (half : Bool) (mask : Half) : Word := ~~~ (if half then zext mask <<< 32 else zext mask)

/-- GDEAD (R96): the registers named become dead, loads still under way to them included. -/
def execGdead (half : Bool) (mask : Half) (s : State) : Out :=
  .next (s.killRegs s.core s.ctx (gdeadMask half mask) (some (s.core, s.ctx))).retire

/-- NOP. -/
def execNop (s : State) : Out := .next s.retire

/-- TRAP_DELIVERY (R114). -/
def execTrapDelivery (core ctx : Nat) (s : State) : Out := .next (s.deliverTrap core ctx)

/-- SUPERVISOR_NOTIFICATION (R232). -/
def execSupervisorNotification (s : State) : Out := .next s.storeNotes

namespace State

/-- A context that stands READY leaves that state without issuing: it is no member any more of a convoy that has begun to issue (R98). -/
def leaveConvoy (s : State) (c k : Nat) : State := s.modCore c (fun x => { x with unissued := x.unissued.filter (· ≠ k) })

end State

/-- ASYNC_TRAP_TAKE (R316): at an instruction boundary, READY with IH = 0; s.tpc names the next instruction. -/
def execAsyncTrapTake (core ctx : Nat) (s : State) : Out :=
  .next (
    let t := s.thread core ctx
    match t.async with
    | some (cause, tval) =>
      if t.stat = .ready && !t.ih then
        ((s.modThread core ctx (fun t => { t with async := none })).leaveConvoy core ctx).raiseTrapAt core ctx cause tval
      else s
    | none => s)

/-! ## The register cache (R95, R96) -/

namespace State

/-- A word written to physical memory, clean, at its home slice. -/
def setPhysWord (s : State) (pa : Nat) (w : Word) : State :=
  let s := s.takeLine none pa
  { s with mem := s.mem.store pa 8 w.toNat false }

/-- Words written to physical memory one after another. -/
def setPhysWords (s : State) (pa : Nat) : List Word → State
  | [] => s
  | w :: r => setPhysWords (s.setPhysWord pa w) (pa + 8) r

/-- A word of a context record is kept for a rollback before a write-back of the register cache changes it (R96, R322). -/
def keepWord (s : State) (c pa : Nat) : State :=
  match s.replaying (spanOf c) with
  | none => s
  | some (h, _) => s.modGang h (fun g => { g with snap := g.snap.map (fun img =>
      if (img.recs.find? pa).isSome then img else { img with recs := img.recs.put pa (s.physWord pa) }) })

/-- An entry of the register cache is evicted: the register's value and its poison go to its context record (R96), which a snapshot
covers (R322); the thread that needs the room is behind the change. -/
def writeBack (s : State) (c e : Nat) (by_ : Option (Nat × Nat)) : State :=
  let s := s.modCore c (fun x => { x with resident := x.resident.filter (· ≠ e) })
  match s.recordOf c (e / 64) with
  | none => s
  | some pa =>
    let v := (s.thread c (e / 64)).raw (e % 64 + 10)
    let s := ((s.touchCore c [unitOfRecord (e / 64) (8 * (e % 64)), unitOfRecord (e / 64) 440] by_).keepWord c (pa + 8 * (e % 64))).keepWord c (pa + 440)
    let s := (s.setPhysWord (pa + 8 * (e % 64)) v.v).setPhysWord (pa + 440) (withBit (s.physWord (pa + 440)) (e % 64) v.p)
    s.modCore c (fun x => { x with evicted := e :: x.evicted })

/-- An access under way of a context, or the instruction that it has issued and not retired, will write a register (R262). -/
def willWrite (s : State) (c e : Nat) : Bool :=
  let t := s.thread c (e / 64)
  let code := e % 64 + 10
  t.out.any (fun x => decide (x.dest.toNat = code)) ||
    ((decide (t.stat = .issued) && decide (t.wait ≠ .stall .fetch) || decide (t.stat = .parked)) && (dests t.word).any (fun r => decide (r.toNat = code)))

/-- The register cache has room for one entry, which a thread needs: of 2,048, the oldest that nothing under way will write is evicted
(log 9). -/
def makeRoom (s : State) (c : Nat) (by_ : Option (Nat × Nat)) : State :=
  if (s.coreAt c).resident.length < 2048 then s
  else
    match (s.coreAt c).resident.reverse.find? (fun e => !s.willWrite c e) with
    | some e => s.writeBack c e by_
    | none => s

/-- The value of a register that was written back comes from its record (R95). -/
def fillRegister (s : State) (c e : Nat) : State :=
  match s.evictedVal c e with
  | some v =>
    (s.modThread c (e / 64) (fun t => { t with regs := t.regs.set Val.zero (e % 64 + 10) v })).modCore c
      (fun x => { x with evicted := x.evicted.filter (· ≠ e) })
  | none => s

/-- A register becomes resident in the cache of its core, with the value of its record if it was written back; another is evicted if
there is no room. -/
def cacheRegister (s : State) (c e : Nat) : State :=
  if (s.coreAt c).resident.contains e then s
  else
    let s := s.makeRoom c (some (c, e / 64))
    if (s.coreAt c).resident.length < 2048 then
      (s.fillRegister c e).modCore c (fun x => { x with resident := e :: x.resident })
    else s

end State

/-- REGISTER_FILL (R95, R96). -/
def execRegisterFill (core ctx n : Nat) (s : State) : Out :=
  .next (if n < 54 && decide ((s.thread core ctx).stat ≠ .free) then s.cacheRegister core (64 * ctx + n) else s)

/-- CONTEXT_RELEASE (R91): a DONE context whose accesses and posts are all performed is FREE and stays reserved to its team; a
supervisor context returns to the core. Mutexes that it still owns pass to their next takers first (R244). The trigger point of its
launch may be reached (R284). -/
def execContextRelease (core ctx : Nat) (s : State) : Out :=
  .next (
    let t := s.thread core ctx
    if t.stat = .done && s.performedAll core ctx then
      let owner := if t.owner = .sup then Owner.none else t.owner
      let s := ((s.orphanMutexes core ctx).killRegs core ctx 0 none).touchCore core [unitOfThread ctx] none
      let s := s.setThread core ctx { Thread.free with owner := owner }
      (s.modCore core (fun x => { x with mx := x.mx.left ctx })).retestTrigger t
    else s)

/-- DEBUG_HALT (R330): a requested halt takes effect at the thread's instruction boundary, and s.tpc names the position, which
SRET resumes at (R331, log 14). -/
def execDebugHalt (core ctx : Nat) (s : State) : Out :=
  .next (
    let t := s.thread core ctx
    if t.haltReq && decide (t.stat = .ready) then
      ((s.leaveConvoy core ctx).modThread core ctx (fun t =>
        { t with stat := .halted, code := none, haltReq := false, tpc := pcWord t.pcBlk t.pcOff, haltAt := some (t.pcBlk, t.pcOff) })).touchCore core [unitOfThread ctx] none
    else s)

end Sys2Proof.Machine
end

