-- ==== Sys2Proof/WellFormed.lean ====
section
/-! DEFINITION. Which terms of Instr stand for something: the limits that an instruction's entry puts on its fields
(R59, checks 4 and 5), and the range of the numbers that an event carries. -/

set_option linter.constructorNameAsVariable false

namespace Sys2Proof

/-- The RW special registers of R101. -/
def SReg.writable : SReg → Bool
  | .drawkey | .cause | .tpc | .tval | .rmode => true
  | .tid | .core | .span | .gang | .kern | .step | .tenant | .group | .sib | .clock => false

/-- The two FP8 formats, whose conversions may saturate (R140). -/
def Fmt.isFp8 : Fmt → Bool
  | .e4m3 | .e5m2 => true
  | .f32 | .bf16 | .i8 | .i32 => false

/-- A core number below 16,384 (R10) and a context number below 64 (R87). -/
def okCtx (core ctx : Nat) : Bool := decide (core < 16384) && decide (ctx < 64)

/-- A post from outside names one of 16 tenants (R294), a core and one of its 256 counters (R233). -/
def PostSrc.ok : PostSrc → Bool
  | .underWay _ => true
  | .outside tenant core idx _ => decide (tenant < 16) && decide (core < 16384) && decide (idx < 256)

namespace Instr

/-- The fields of an instruction, or the operands of an event, are within the limits the manual sets. -/
def wellFormed : Instr → Bool
  | .patrolScrubRead _ _ => true
  | .recalibration _ => true
  | .powerInterval _ _ _ => true
  | .mailboxArrival _ => true
  | .counterPost src => src.ok
  | .trapDelivery c k => okCtx c k
  | .asyncTrapTake c k => okCtx c k
  | .registerFill c k n => okCtx c k && decide (n < 54)
  | .contextRelease c k => okCtx c k
  | .tableRefreshEnd c t => decide (c < 16384) && decide (t < 8)
  | .debugHalt c k => okCtx c k
  | .ringWaitStart c k => okCtx c k
  | .vectorComplete c => decide (c < 16384)
  | .matrixAccept c k => okCtx c k
  | .matrixComplete c _ => decide (c < 16384)
  | .brotStep c _ => decide (c < 16384)
  | .brotTimeout c _ => decide (c < 16384)
  | .mma2GroupOp c => decide (c < 16384)
  | .mma2Timeout c => decide (c < 16384)
  | .mailboxReserve c k => okCtx c k
  | .streamerRequestStart n => decide (n < 256)
  | .streamerCompletion n _ => decide (n < 256)
  | .remoteRequest p _ _ => decide (p < 24)
  | .remoteAck p _ _ => decide (p < 24)
  | .flitReceive p b => decide (p < 24) && decide (b.length = 64)
  | .portSignalDetect p => decide (p < 24)
  | .laneAligned p => decide (p < 24)
  | .deskewTimeout p => decide (p < 24)
  | .equaliseSettled p => decide (p < 24)
  | .equaliseTimeout p => decide (p < 24)
  | .capabilityRecord p _ => decide (p < 24)
  | .signalLoss p => decide (p < 24)
  | .portEnWrite p _ => decide (p < 24)
  | .portRetrain p => decide (p < 24)
  | .hostMemRead _ _ => true
  | .hostMemWrite _ _ => true
  | .queueEnableWrite q _ => decide (q < 64)
  | .qprodWrite q _ => decide (q < 64)
  | .queueErrClear q => decide (q < 64)
  | .recordFetch q => decide (q < 64)
  | .recordReserving _ => true
  | .gangStart _ => true
  | .copyRecordRun _ => true
  | .gangRetire _ => true
  | .preemptHalt _ => true
  | .swapOut _ => true
  | .swapIn _ => true
  | .gangStall _ => true
  | .evtwaitTimeout c k => okCtx c k
  | .spanReport n => decide (n < 256)
  | .collectiveComplete _ => true
  | .rollback _ => true
  | .rollbackRestore _ => true
  | .cancelArrival c => decide (c < 16384)
  | .drawAccept c k => okCtx c k
  | .tlbinvComplete _ => true
  | .pageReleaseComplete _ => true
  | .attcmdWrite _ => true
  | .pcapWrite _ => true
  | .scrWrite _ => true
  | .rclWrite _ => true
  | .registerWrite _ _ => true
  | .next _ _ => true
  | .tstart _ _ _ => true
  | .trap _ => true
  | .brk _ => true
  | .tret _ => true
  | .srd _ _ => true
  | .swr n _ => n.writable
  | .gdead h m => !h || decide (m.toNat < 2 ^ 22)
  | .tbw _ _ _ _ => true
  | .tbr _ _ _ _ => true
  | .tbcommit _ _ => true
  | .tbclr _ => true
  | .tblook _ _ _ => true
  | .tbgen _ _ => true
  | .add _ _ _ => true
  | .addi _ _ _ => true
  | .sub _ _ _ => true
  | .mul _ _ _ => true
  | .mulh _ _ _ => true
  | .mulhu _ _ _ => true
  | .div _ _ _ => true
  | .divu _ _ _ => true
  | .rem _ _ _ => true
  | .remu _ _ _ => true
  | .and _ _ _ => true
  | .andi _ _ _ => true
  | .or _ _ _ => true
  | .ori _ _ _ => true
  | .xor _ _ _ => true
  | .xori _ _ _ => true
  | .shl _ _ _ => true
  | .shli _ _ _ => true
  | .shr _ _ _ => true
  | .shri _ _ _ => true
  | .sar _ _ _ => true
  | .sari _ _ _ => true
  | .rol _ _ _ => true
  | .roli _ _ _ => true
  | .min _ _ _ => true
  | .minu _ _ _ => true
  | .max _ _ _ => true
  | .maxu _ _ _ => true
  | .abs _ _ => true
  | .clz _ _ => true
  | .ctz _ _ => true
  | .popc _ _ => true
  | .brev _ _ => true
  | .bswap _ _ => true
  | .extr _ _ _ _ _ => true
  | .insr _ _ _ _ _ => true
  | .clmul _ _ _ => true
  | .clmulh _ _ _ => true
  | .li _ _ => true
  | .lih _ _ _ => true
  | .lea _ _ _ _ _ => true
  | .cmp _ _ _ _ => true
  | .cmpi _ _ _ _ => true
  | .sel _ _ _ _ => true
  | .plog _ _ _ _ => true
  | .pmovGet _ => true
  | .pmovSet _ _ => true
  | .cset _ _ _ => true
  | .crd _ _ => true
  | .cadd _ _ _ => true
  | .fadd _ _ _ _ => true
  | .fsub _ _ _ _ => true
  | .fmul _ _ _ _ => true
  | .ffma _ _ _ _ => true
  | .fmin _ _ _ => true
  | .fmax _ _ _ => true
  | .fcmp _ _ _ _ => true
  | .fcvt _ _ _ _ t v => !v || t.isFp8
  | .fclass _ _ => true
  | .fexp2 _ _ => true
  | .flog2 _ _ => true
  | .frcp _ _ => true
  | .frsq _ _ => true
  | .fscale _ _ _ _ => true
  | .ld _ _ _ z _ e => !e || decide (z ≠ .b64)
  | .lda _ _ _ z _ _ e => !e || decide (z ≠ .b64)
  | .st _ _ s _ _ h => decide (h = .normal) || decide (s = .gl)
  | .stl _ _ _ _ _ _ => true
  | .take _ _ _ _ => true
  | .fill _ _ _ _ => true
  | .trytake _ _ _ _ _ => true
  | .amo _ _ _ _ _ z _ _ => decide (z = .b32) || decide (z = .b64)
  | .amocas _ _ _ _ z _ _ => decide (z = .b32) || decide (z = .b64)
  | .fence _ o => decide (o ≠ 0)
  | .pref _ _ _ => true
  | .ring _ _ => true
  | .radv _ _ _ => true
  | .rrel _ _ _ => true
  | .rstat _ _ _ => true
  | .vadd _ _ _ _ _ _ => true
  | .vsub _ _ _ _ _ _ => true
  | .vmul _ _ _ _ _ _ => true
  | .vfma _ _ _ _ _ _ _ => true
  | .vmax _ _ _ _ _ _ => true
  | .vmin _ _ _ _ _ _ => true
  | .vexp2 _ _ _ _ _ => true
  | .vrcp _ _ _ _ _ => true
  | .vrsq _ _ _ _ _ => true
  | .vcvt _ _ _ _ _ => true
  | .vscale _ _ _ _ _ => true
  | .vredsum _ _ _ _ _ => true
  | .vredmax _ _ _ _ => true
  | .vcmp _ _ _ _ hb a _ _ => decide (a = 0) || decide (hb = 0)
  | .vsel _ _ _ _ _ _ _ => true
  | .vbits _ _ _ _ _ _ _ _ => true
  | .vgath _ _ _ _ _ _ => true
  | .vscat _ _ _ _ _ _ _ _ => true
  | .vfillc _ _ _ _ _ _ => true
  | .viota _ _ _ _ _ => true
  | .mfmt fa fb _ => decide (fa = 0) == decide (fb = 0)
  | .bload _ _ => true
  | .brot _ => true
  | .mma _ _ _ _ => true
  | .mmas _ _ _ _ _ => true
  | .mma2 _ _ _ _ _ => true
  | .azero _ _ => true
  | .aver _ _ => true
  | .awaitv _ _ => true
  | .aepi ty v bi _ _ b _ => (!v || ty.isFp8) && (bi || decide (b = 0))
  | .atopkInit _ => true
  | .atopkAcc _ _ _ _ => true
  | .acselInit _ => true
  | .acselAcc _ _ _ _ => true
  | .ardk _ a v => decide (v ≠ .stat) || decide (a = 0)
  | .ardkClr _ _ => true
  | .xcopy _ _ _ _ => true
  | .xconv _ _ _ _ => true
  | .xscript _ _ _ _ => true
  | .xsela _ _ _ _ _ _ => true
  | .xremPut _ _ _ _ => true
  | .xremAddmx _ _ _ _ => true
  | .msend _ _ _ _ => true
  | .mwait _ _ => true
  | .mrecv _ _ _ => true
  | .cpost _ _ _ => true
  | .cwait _ _ _ _ => true
  | .crdc _ _ _ => true
  | .xdrain _ => true
  | .evarr _ _ => true
  | .evwait _ _ _ _ => true
  | .evtwait _ _ _ _ _ => true
  | .mtxlock _ _ => true
  | .mtxrel _ => true
  | .evsigSig _ _ => true
  | .evsigCfg _ _ _ => true
  | .gbar _ => true
  | .sstep _ _ => true
  | .launch _ _ _ => true
  | .gballot _ _ _ => true
  | .gcancel _ _ => true
  | .gstat _ _ _ => true
  | .draw _ _ _ _ => true
  | .pgref _ _ => true
  | .pgrel _ _ => true
  | .tlbinvPage _ b v => v || decide (b = 0)
  | .tlbinvAll _ b v => v || decide (b = 0)
  | .tlbinvCode _ b v => v || decide (b = 0)
  | .pgmap _ _ _ l _ => decide (1 ≤ l.toNat) && decide (l.toNat ≤ 4)
  | .ctxsaveThr _ _ => true
  | .ctxsaveGang _ _ b v => v || decide (b = 0)
  | .ctxloadThr _ _ => true
  | .ctxloadGang _ _ b v => v || decide (b = 0)
  | .injectPsn _ _ => true
  | .injectClr _ _ => true
  | .injectSig _ _ => true
  | .injectTclr _ _ => true
  | .injectHalt _ _ => true
  | .sretRes _ _ => true
  | .sretSkip _ _ => true
  | .sretUser _ _ => true
  | .sretAbort _ _ => true
  | .sretAbortGang _ _ => true
  | .tensetSet _ _ _ => true
  | .tensetClr _ _ => true
  | .locsetSet _ _ _ => true
  | .locsetInv _ _ => true
  | .accessPerformed c k _ => okCtx c k
  | .thermalLimitReached _ => true
  | .resetRelease => true
  | .fwverify => true
  | .memtrain => true
  | .sraminit => true
  | .linkup => true
  | .ready => true
  | .powerLoss => true
  | .supervisorNotification => true
  | .admission => true
  | .schedulerPreempt => true
  | .listLaunch => true
  | .listWaitc => true
  | .listSkipif => true
  | .listJump => true
  | .listCall => true
  | .listRet => true
  | .listPost => true
  | .listFence => true
  | .listTable => true
  | .quoteComplete => true
  | .elogRead => true
  | .stop => true
  | .tyield => true
  | .nop => true
  | .ltrig => true
  | .decodeFailure => true
  | .cxlLinkDown => true

/-- An event of the device, which has no instruction word. -/
def isEvent : Instr → Bool
  | .patrolScrubRead _ _ => true
  | .recalibration _ => true
  | .powerInterval _ _ _ => true
  | .mailboxArrival _ => true
  | .counterPost _ => true
  | .trapDelivery _ _ => true
  | .asyncTrapTake _ _ => true
  | .registerFill _ _ _ => true
  | .contextRelease _ _ => true
  | .tableRefreshEnd _ _ => true
  | .debugHalt _ _ => true
  | .ringWaitStart _ _ => true
  | .vectorComplete _ => true
  | .matrixAccept _ _ => true
  | .matrixComplete _ _ => true
  | .brotStep _ _ => true
  | .brotTimeout _ _ => true
  | .mma2GroupOp _ => true
  | .mma2Timeout _ => true
  | .mailboxReserve _ _ => true
  | .streamerRequestStart _ => true
  | .streamerCompletion _ _ => true
  | .remoteRequest _ _ _ => true
  | .remoteAck _ _ _ => true
  | .flitReceive _ _ => true
  | .portSignalDetect _ => true
  | .laneAligned _ => true
  | .deskewTimeout _ => true
  | .equaliseSettled _ => true
  | .equaliseTimeout _ => true
  | .capabilityRecord _ _ => true
  | .signalLoss _ => true
  | .portEnWrite _ _ => true
  | .portRetrain _ => true
  | .hostMemRead _ _ => true
  | .hostMemWrite _ _ => true
  | .queueEnableWrite _ _ => true
  | .qprodWrite _ _ => true
  | .queueErrClear _ => true
  | .recordFetch _ => true
  | .recordReserving _ => true
  | .gangStart _ => true
  | .copyRecordRun _ => true
  | .gangRetire _ => true
  | .preemptHalt _ => true
  | .swapOut _ => true
  | .swapIn _ => true
  | .gangStall _ => true
  | .evtwaitTimeout _ _ => true
  | .spanReport _ => true
  | .collectiveComplete _ => true
  | .rollback _ => true
  | .rollbackRestore _ => true
  | .cancelArrival _ => true
  | .drawAccept _ _ => true
  | .tlbinvComplete _ => true
  | .pageReleaseComplete _ => true
  | .attcmdWrite _ => true
  | .pcapWrite _ => true
  | .scrWrite _ => true
  | .rclWrite _ => true
  | .registerWrite _ _ => true
  | .next _ _ => false
  | .tstart _ _ _ => false
  | .trap _ => false
  | .brk _ => false
  | .tret _ => false
  | .srd _ _ => false
  | .swr _ _ => false
  | .gdead _ _ => false
  | .tbw _ _ _ _ => false
  | .tbr _ _ _ _ => false
  | .tbcommit _ _ => false
  | .tbclr _ => false
  | .tblook _ _ _ => false
  | .tbgen _ _ => false
  | .add _ _ _ => false
  | .addi _ _ _ => false
  | .sub _ _ _ => false
  | .mul _ _ _ => false
  | .mulh _ _ _ => false
  | .mulhu _ _ _ => false
  | .div _ _ _ => false
  | .divu _ _ _ => false
  | .rem _ _ _ => false
  | .remu _ _ _ => false
  | .and _ _ _ => false
  | .andi _ _ _ => false
  | .or _ _ _ => false
  | .ori _ _ _ => false
  | .xor _ _ _ => false
  | .xori _ _ _ => false
  | .shl _ _ _ => false
  | .shli _ _ _ => false
  | .shr _ _ _ => false
  | .shri _ _ _ => false
  | .sar _ _ _ => false
  | .sari _ _ _ => false
  | .rol _ _ _ => false
  | .roli _ _ _ => false
  | .min _ _ _ => false
  | .minu _ _ _ => false
  | .max _ _ _ => false
  | .maxu _ _ _ => false
  | .abs _ _ => false
  | .clz _ _ => false
  | .ctz _ _ => false
  | .popc _ _ => false
  | .brev _ _ => false
  | .bswap _ _ => false
  | .extr _ _ _ _ _ => false
  | .insr _ _ _ _ _ => false
  | .clmul _ _ _ => false
  | .clmulh _ _ _ => false
  | .li _ _ => false
  | .lih _ _ _ => false
  | .lea _ _ _ _ _ => false
  | .cmp _ _ _ _ => false
  | .cmpi _ _ _ _ => false
  | .sel _ _ _ _ => false
  | .plog _ _ _ _ => false
  | .pmovGet _ => false
  | .pmovSet _ _ => false
  | .cset _ _ _ => false
  | .crd _ _ => false
  | .cadd _ _ _ => false
  | .fadd _ _ _ _ => false
  | .fsub _ _ _ _ => false
  | .fmul _ _ _ _ => false
  | .ffma _ _ _ _ => false
  | .fmin _ _ _ => false
  | .fmax _ _ _ => false
  | .fcmp _ _ _ _ => false
  | .fcvt _ _ _ _ _ _ => false
  | .fclass _ _ => false
  | .fexp2 _ _ => false
  | .flog2 _ _ => false
  | .frcp _ _ => false
  | .frsq _ _ => false
  | .fscale _ _ _ _ => false
  | .ld _ _ _ _ _ _ => false
  | .lda _ _ _ _ _ _ _ => false
  | .st _ _ _ _ _ _ => false
  | .stl _ _ _ _ _ _ => false
  | .take _ _ _ _ => false
  | .fill _ _ _ _ => false
  | .trytake _ _ _ _ _ => false
  | .amo _ _ _ _ _ _ _ _ => false
  | .amocas _ _ _ _ _ _ _ => false
  | .fence _ _ => false
  | .pref _ _ _ => false
  | .ring _ _ => false
  | .radv _ _ _ => false
  | .rrel _ _ _ => false
  | .rstat _ _ _ => false
  | .vadd _ _ _ _ _ _ => false
  | .vsub _ _ _ _ _ _ => false
  | .vmul _ _ _ _ _ _ => false
  | .vfma _ _ _ _ _ _ _ => false
  | .vmax _ _ _ _ _ _ => false
  | .vmin _ _ _ _ _ _ => false
  | .vexp2 _ _ _ _ _ => false
  | .vrcp _ _ _ _ _ => false
  | .vrsq _ _ _ _ _ => false
  | .vcvt _ _ _ _ _ => false
  | .vscale _ _ _ _ _ => false
  | .vredsum _ _ _ _ _ => false
  | .vredmax _ _ _ _ => false
  | .vcmp _ _ _ _ _ _ _ _ => false
  | .vsel _ _ _ _ _ _ _ => false
  | .vbits _ _ _ _ _ _ _ _ => false
  | .vgath _ _ _ _ _ _ => false
  | .vscat _ _ _ _ _ _ _ _ => false
  | .vfillc _ _ _ _ _ _ => false
  | .viota _ _ _ _ _ => false
  | .mfmt _ _ _ => false
  | .bload _ _ => false
  | .brot _ => false
  | .mma _ _ _ _ => false
  | .mmas _ _ _ _ _ => false
  | .mma2 _ _ _ _ _ => false
  | .azero _ _ => false
  | .aver _ _ => false
  | .awaitv _ _ => false
  | .aepi _ _ _ _ _ _ _ => false
  | .atopkInit _ => false
  | .atopkAcc _ _ _ _ => false
  | .acselInit _ => false
  | .acselAcc _ _ _ _ => false
  | .ardk _ _ _ => false
  | .ardkClr _ _ => false
  | .xcopy _ _ _ _ => false
  | .xconv _ _ _ _ => false
  | .xscript _ _ _ _ => false
  | .xsela _ _ _ _ _ _ => false
  | .xremPut _ _ _ _ => false
  | .xremAddmx _ _ _ _ => false
  | .msend _ _ _ _ => false
  | .mwait _ _ => false
  | .mrecv _ _ _ => false
  | .cpost _ _ _ => false
  | .cwait _ _ _ _ => false
  | .crdc _ _ _ => false
  | .xdrain _ => false
  | .evarr _ _ => false
  | .evwait _ _ _ _ => false
  | .evtwait _ _ _ _ _ => false
  | .mtxlock _ _ => false
  | .mtxrel _ => false
  | .evsigSig _ _ => false
  | .evsigCfg _ _ _ => false
  | .gbar _ => false
  | .sstep _ _ => false
  | .launch _ _ _ => false
  | .gballot _ _ _ => false
  | .gcancel _ _ => false
  | .gstat _ _ _ => false
  | .draw _ _ _ _ => false
  | .pgref _ _ => false
  | .pgrel _ _ => false
  | .tlbinvPage _ _ _ => false
  | .tlbinvAll _ _ _ => false
  | .tlbinvCode _ _ _ => false
  | .pgmap _ _ _ _ _ => false
  | .ctxsaveThr _ _ => false
  | .ctxsaveGang _ _ _ _ => false
  | .ctxloadThr _ _ => false
  | .ctxloadGang _ _ _ _ => false
  | .injectPsn _ _ => false
  | .injectClr _ _ => false
  | .injectSig _ _ => false
  | .injectTclr _ _ => false
  | .injectHalt _ _ => false
  | .sretRes _ _ => false
  | .sretSkip _ _ => false
  | .sretUser _ _ => false
  | .sretAbort _ _ => false
  | .sretAbortGang _ _ => false
  | .tensetSet _ _ _ => false
  | .tensetClr _ _ => false
  | .locsetSet _ _ _ => false
  | .locsetInv _ _ => false
  | .accessPerformed _ _ _ => true
  | .thermalLimitReached _ => true
  | .resetRelease => true
  | .fwverify => true
  | .memtrain => true
  | .sraminit => true
  | .linkup => true
  | .ready => true
  | .powerLoss => true
  | .supervisorNotification => true
  | .admission => true
  | .schedulerPreempt => true
  | .listLaunch => true
  | .listWaitc => true
  | .listSkipif => true
  | .listJump => true
  | .listCall => true
  | .listRet => true
  | .listPost => true
  | .listFence => true
  | .listTable => true
  | .quoteComplete => true
  | .elogRead => true
  | .stop => false
  | .tyield => false
  | .nop => false
  | .ltrig => false
  | .decodeFailure => true
  | .cxlLinkDown => true

end Instr

end Sys2Proof
end

