-- ==== Sys2Proof/Decode.lean ====
section
/-! DEFINITION. Decoding and encoding of instruction words (R46 to R60). Decoding applies checks 1, 4 and 5 of R59; checks
2 and 3, which need the block and the thread, are applied where an instruction is fetched (Machine/Front.lean). -/

set_option linter.constructorNameAsVariable false

namespace Sys2Proof

open Sys2Proof.Machine

/-- Code of Space (R54 or its entry). -/
def Space.toBits : Space → BitVec 3
  | .gl => 0
  | .sp => 1
  | .wb => 2
  | .ab => 3
  | .cb => 4
  | .cx => 5

/-- Space by its code; a reserved code has none. -/
def Space.ofBits (c : BitVec 3) : Option Space :=
  match c.toNat with
  | 0 => some .gl
  | 1 => some .sp
  | 2 => some .wb
  | 3 => some .ab
  | 4 => some .cb
  | 5 => some .cx
  | _ => none

/-- Code of Scope (R54 or its entry). -/
def Scope.toBits : Scope → BitVec 3
  | .th => 0
  | .core => 1
  | .span => 2
  | .gang => 3
  | .dev => 4
  | .sys => 5

/-- Scope by its code; a reserved code has none. -/
def Scope.ofBits (c : BitVec 3) : Option Scope :=
  match c.toNat with
  | 0 => some .th
  | 1 => some .core
  | 2 => some .span
  | 3 => some .gang
  | 4 => some .dev
  | 5 => some .sys
  | _ => none

/-- Code of AmoOp (R54 or its entry). -/
def AmoOp.toBits : AmoOp → BitVec 4
  | .add => 0
  | .and => 1
  | .or => 2
  | .xor => 3
  | .min => 4
  | .max => 5
  | .minu => 6
  | .maxu => 7
  | .swap => 8

/-- AmoOp by its code; a reserved code has none. -/
def AmoOp.ofBits (c : BitVec 4) : Option AmoOp :=
  match c.toNat with
  | 0 => some .add
  | 1 => some .and
  | 2 => some .or
  | 3 => some .xor
  | 4 => some .min
  | 5 => some .max
  | 6 => some .minu
  | 7 => some .maxu
  | 8 => some .swap
  | _ => none

/-- Code of Rnd (R54 or its entry). -/
def Rnd.toBits : Rnd → BitVec 3
  | .mode => 0
  | .rne => 4
  | .rz => 5
  | .rup => 6
  | .rdn => 7

/-- Rnd by its code; a reserved code has none. -/
def Rnd.ofBits (c : BitVec 3) : Option Rnd :=
  match c.toNat with
  | 0 => some .mode
  | 4 => some .rne
  | 5 => some .rz
  | 6 => some .rup
  | 7 => some .rdn
  | _ => none

/-- Code of ICond (R54 or its entry). -/
def ICond.toBits : ICond → BitVec 3
  | .eq => 0
  | .ne => 1
  | .lt => 2
  | .ge => 3
  | .ltu => 4
  | .geu => 5

/-- ICond by its code; a reserved code has none. -/
def ICond.ofBits (c : BitVec 3) : Option ICond :=
  match c.toNat with
  | 0 => some .eq
  | 1 => some .ne
  | 2 => some .lt
  | 3 => some .ge
  | 4 => some .ltu
  | 5 => some .geu
  | _ => none

/-- Code of FCond (R54 or its entry). -/
def FCond.toBits : FCond → BitVec 3
  | .eq => 0
  | .ne => 1
  | .lt => 2
  | .le => 3
  | .un => 4

/-- FCond by its code; a reserved code has none. -/
def FCond.ofBits (c : BitVec 3) : Option FCond :=
  match c.toNat with
  | 0 => some .eq
  | 1 => some .ne
  | 2 => some .lt
  | 3 => some .le
  | 4 => some .un
  | _ => none

/-- Code of Fmt (R54 or its entry). -/
def Fmt.toBits : Fmt → BitVec 4
  | .f32 => 0
  | .bf16 => 1
  | .e4m3 => 2
  | .e5m2 => 3
  | .i8 => 4
  | .i32 => 5

/-- Fmt by its code; a reserved code has none. -/
def Fmt.ofBits (c : BitVec 4) : Option Fmt :=
  match c.toNat with
  | 0 => some .f32
  | 1 => some .bf16
  | 2 => some .e4m3
  | 3 => some .e5m2
  | 4 => some .i8
  | 5 => some .i32
  | _ => none

/-- Code of Part (R54 or its entry). -/
def Part.toBits : Part → BitVec 2
  | .key => 0
  | .mask => 1
  | .act => 2

/-- Part by its code; a reserved code has none. -/
def Part.ofBits (c : BitVec 2) : Option Part :=
  match c.toNat with
  | 0 => some .key
  | 1 => some .mask
  | 2 => some .act
  | _ => none

/-- Code of Hint (R54 or its entry). -/
def Hint.toBits : Hint → BitVec 2
  | .normal => 0
  | .nt => 1
  | .wc => 2

/-- Hint by its code; a reserved code has none. -/
def Hint.ofBits (c : BitVec 2) : Option Hint :=
  match c.toNat with
  | 0 => some .normal
  | 1 => some .nt
  | 2 => some .wc
  | _ => none

/-- Code of BitOp (R54 or its entry). -/
def BitOp.toBits : BitOp → BitVec 3
  | .set => 0
  | .add => 1
  | .mul => 2
  | .max => 3
  | .min => 4

/-- BitOp by its code; a reserved code has none. -/
def BitOp.ofBits (c : BitVec 3) : Option BitOp :=
  match c.toNat with
  | 0 => some .set
  | 1 => some .add
  | 2 => some .mul
  | 3 => some .max
  | 4 => some .min
  | _ => none

/-- Code of SReg (R54 or its entry). -/
def SReg.toBits : SReg → BitVec 8
  | .tid => 0
  | .core => 1
  | .span => 2
  | .gang => 3
  | .kern => 4
  | .step => 5
  | .tenant => 6
  | .group => 7
  | .sib => 8
  | .drawkey => 9
  | .clock => 10
  | .cause => 11
  | .tpc => 12
  | .tval => 13
  | .rmode => 14

/-- SReg by its code; a reserved code has none. -/
def SReg.ofBits (c : BitVec 8) : Option SReg :=
  match c.toNat with
  | 0 => some .tid
  | 1 => some .core
  | 2 => some .span
  | 3 => some .gang
  | 4 => some .kern
  | 5 => some .step
  | 6 => some .tenant
  | 7 => some .group
  | 8 => some .sib
  | 9 => some .drawkey
  | 10 => some .clock
  | 11 => some .cause
  | 12 => some .tpc
  | 13 => some .tval
  | 14 => some .rmode
  | _ => none

/-- Code of Size (R54). -/
def Size.toBits : Size → BitVec 2
  | .b8 => 0
  | .b16 => 1
  | .b32 => 2
  | .b64 => 3

/-- Size by its code (R54). -/
def Size.ofBits (c : BitVec 2) : Size :=
  match c.toNat with
  | 0 => .b8
  | 1 => .b16
  | 2 => .b32
  | _ => .b64

/-- Code of the ARDK variants (R205). -/
def ArdkVar.toBits : ArdkVar → BitVec 6
  | .topk => 0
  | .csel => 1
  | .stat => 2

/-- A two-valued sub-field whose other codes are reserved. -/
def boolCode (c : BitVec 3) : Option Bool :=
  match c.toNat with
  | 0 => some false
  | 1 => some true
  | _ => none

/-- Block space of the X format: codes 4 to 7 are reserved (chapter 11). -/
def blkSpace (c : BitVec 3) : Option (BitVec 2) := if c.toNat < 4 then some (bits 0 2 c) else none

/-- Why a word is no instruction (R59): check 1, check 4 or check 5. -/
inductive Reject where
  | unassigned
  | notZero
  | reserved
deriving DecidableEq, Repr

/-- The fields of a word (R46). -/
structure Fields where
  op  : BitVec 8
  d   : Reg
  a   : Reg
  b   : Reg
  f   : BitVec 6
  imm : BitVec 32
deriving DecidableEq, Repr

/-- The fields of a word (R46). -/
def fields (w : Word) : Fields :=
  ⟨bits 56 8 w, bits 50 6 w, bits 44 6 w, bits 38 6 w, bits 32 6 w, bits 0 32 w⟩

/-- The word with given fields (R46). -/
def word (op : BitVec 8) (d a b : Reg) (f : BitVec 6) (imm : BitVec 32) : Word := op ++ d ++ a ++ b ++ f ++ imm

/-- Goes on when the fields that must be zero are zero (R59, check 4). -/
def need (c : Bool) (k : Except Reject Instr) : Except Reject Instr := if c then k else .error .notZero

/-- Goes on with the meaning of a coded sub-field (R59, check 5). -/
def coded {α : Type} (o : Option α) (k : α → Except Reject Instr) : Except Reject Instr :=
  match o with
  | some a => k a
  | none => .error .reserved

/-- The entry index of the K format (R50). -/
def kIdx (x : Fields) (k : KIdx → Except Reject Instr) : Except Reject Instr :=
  if bit 3 x.f then need (decide (bits 0 6 x.imm = 0)) (k (.reg x.b)) else need (decide (x.b = 0)) (k (.imm (bits 0 6 x.imm)))

/-- B of the K format (R50). -/
def KIdx.b : KIdx → Reg
  | .imm _ => 0
  | .reg r => r

/-- F[3] of the K format (R50). -/
def KIdx.sel : KIdx → BitVec 1
  | .imm _ => 0
  | .reg _ => 1

/-- IMM[5:0] of the K format (R50). -/
def KIdx.idx : KIdx → BitVec 6
  | .imm i => i
  | .reg _ => 0

/-- TAKE, FILL and TRYTAKE reserve the sizes below 64 bits (R165). -/
def only64 (x : Fields) (k : Except Reject Instr) : Except Reject Instr :=
  if bits 3 2 x.f = 3 then k else .error .reserved

/-- AMO and AMOCAS reserve the sizes below 32 bits (R166). -/
def atLeast32 (x : Fields) (k : Except Reject Instr) : Except Reject Instr :=
  if 2 ≤ (bits 3 2 x.f).toNat then k else .error .reserved

/-- F of the M format (R49). -/
def fM (s : Space) (z : Size) : BitVec 6 := 0#1 ++ z.toBits ++ s.toBits

/-- IMM of the M format (R49). -/
def immM (op : BitVec 4) (scope : BitVec 3) (disp : BitVec 24) : BitVec 32 := 0#1 ++ op ++ scope ++ disp

/-- IMM of the S format (R49). -/
def immS (n : BitVec 16) (hc hb ha ho : BitVec 4) : BitVec 32 := n ++ hc ++ hb ++ ha ++ ho

/-- IMM of the T format (R49). -/
def immT (slot : BitVec 8) (l : Bool) (t : BitVec 2) (ver : BitVec 16) : BitVec 32 :=
  0#5 ++ slot ++ BitVec.ofBool l ++ t ++ ver

/-- IMM of the X format (R49). -/
def immX (hi tag : BitVec 16) : BitVec 32 := hi ++ tag

/-- Opcodes 0x00 to 0x0F (R57). -/
def decode0 (lo : Nat) (x : Fields) : Except Reject Instr :=
  match lo with
  | 0x1 => need (decide (x.d = 0) && decide (x.b = 0) && decide (bits 3 3 x.f = 0) && decide (x.imm = 0))
      (.ok (.next (bits 0 3 x.f) x.a))
  | 0x2 => need (decide (x.d = 0) && decide (x.a = 0) && decide (x.b = 0) && decide (x.f = 0) && decide (x.imm = 0))
      (.ok (.stop))
  | 0x3 => need (decide (x.b = 0) && decide (x.f = 0)) (.ok (.tstart x.d x.a x.imm))
  | 0x4 => need (decide (x.d = 0) && decide (x.a = 0) && decide (x.b = 0) && decide (x.f = 0) && decide (x.imm = 0))
      (.ok (.tyield))
  | 0x5 => need (decide (x.d = 0) && decide (x.a = 0) && decide (x.b = 0) && decide (x.f = 0)) (.ok (.trap x.imm))
  | 0x6 => need (decide (x.d = 0) && decide (x.a = 0) && decide (x.b = 0) && decide (x.f = 0)) (.ok (.brk x.imm))
  | 0x7 => need (decide (x.d = 0) && decide (x.a = 0) && decide (x.b = 0) && decide (bits 1 5 x.f = 0) && decide (x.imm = 0))
      (.ok (.tret (bit 0 x.f)))
  | 0x8 => need (decide (x.a = 0) && decide (x.b = 0) && decide (x.f = 0) && decide (bits 8 24 x.imm = 0))
      (coded (SReg.ofBits (bits 0 8 x.imm)) (fun n => .ok (.srd x.d n)))
  | 0x9 => need (decide (x.d = 0) && decide (x.b = 0) && decide (x.f = 0) && decide (bits 8 24 x.imm = 0))
      (coded (SReg.ofBits (bits 0 8 x.imm)) (fun n => if n.writable then .ok (.swr n x.a) else .error .reserved))
  | 0xA => need (decide (x.d = 0) && decide (x.a = 0) && decide (x.b = 0) && decide (bits 1 5 x.f = 0))
      (if bit 0 x.f && decide (bits 22 10 x.imm ≠ 0) then .error .notZero else .ok (.gdead (bit 0 x.f) x.imm))
  | 0xB => need (decide (x.d = 0) && decide (x.a = 0) && decide (x.b = 0) && decide (x.f = 0) && decide (x.imm = 0))
      (.ok (.nop))
  | _ => .error .unassigned

/-- Opcodes 0x10 to 0x1F (R57). -/
def decode1 (lo : Nat) (x : Fields) : Except Reject Instr :=
  match lo with
  | 0x0 => need (decide (x.d = 0) && decide (bits 4 2 x.f = 0) && decide (bits 8 24 x.imm = 0))
      (kIdx x (fun i => coded (Part.ofBits (bits 6 2 x.imm)) (fun p => .ok (.tbw (bits 0 3 x.f) i p x.a))))
  | 0x1 => need (decide (x.a = 0) && decide (bits 4 2 x.f = 0) && decide (bits 8 24 x.imm = 0))
      (kIdx x (fun i => coded (Part.ofBits (bits 6 2 x.imm)) (fun p => .ok (.tbr x.d (bits 0 3 x.f) i p))))
  | 0x2 => need (decide (x.a = 0) && decide (x.b = 0) && decide (bits 3 3 x.f = 0) && decide (x.imm = 0))
      (.ok (.tbcommit x.d (bits 0 3 x.f)))
  | 0x3 => need (decide (x.d = 0) && decide (x.a = 0) && decide (x.b = 0) && decide (bits 3 3 x.f = 0) && decide (x.imm = 0))
      (.ok (.tbclr (bits 0 3 x.f)))
  | 0x4 => need (decide (x.b = 0) && decide (bits 3 3 x.f = 0) && decide (x.imm = 0))
      (.ok (.tblook x.d (bits 0 3 x.f) x.a))
  | 0x5 => need (decide (x.a = 0) && decide (x.b = 0) && decide (bits 3 3 x.f = 0) && decide (x.imm = 0))
      (.ok (.tbgen x.d (bits 0 3 x.f)))
  | _ => .error .unassigned

/-- Opcodes 0x20 to 0x2F (R57). -/
def decode2 (lo : Nat) (x : Fields) : Except Reject Instr :=
  match lo with
  | 0x0 => need (decide (x.f = 0) && decide (x.imm = 0)) (.ok (.add x.d x.a x.b))
  | 0x1 => need (decide (x.b = 0) && decide (x.f = 0)) (.ok (.addi x.d x.a x.imm))
  | 0x2 => need (decide (x.f = 0) && decide (x.imm = 0)) (.ok (.sub x.d x.a x.b))
  | 0x3 => need (decide (x.f = 0) && decide (x.imm = 0)) (.ok (.mul x.d x.a x.b))
  | 0x4 => need (decide (x.f = 0) && decide (x.imm = 0)) (.ok (.mulh x.d x.a x.b))
  | 0x5 => need (decide (x.f = 0) && decide (x.imm = 0)) (.ok (.mulhu x.d x.a x.b))
  | 0x6 => need (decide (x.f = 0) && decide (x.imm = 0)) (.ok (.div x.d x.a x.b))
  | 0x7 => need (decide (x.f = 0) && decide (x.imm = 0)) (.ok (.divu x.d x.a x.b))
  | 0x8 => need (decide (x.f = 0) && decide (x.imm = 0)) (.ok (.rem x.d x.a x.b))
  | 0x9 => need (decide (x.f = 0) && decide (x.imm = 0)) (.ok (.remu x.d x.a x.b))
  | 0xA => need (decide (x.f = 0) && decide (x.imm = 0)) (.ok (.and x.d x.a x.b))
  | 0xB => need (decide (x.b = 0) && decide (x.f = 0)) (.ok (.andi x.d x.a x.imm))
  | 0xC => need (decide (x.f = 0) && decide (x.imm = 0)) (.ok (.or x.d x.a x.b))
  | 0xD => need (decide (x.b = 0) && decide (x.f = 0)) (.ok (.ori x.d x.a x.imm))
  | 0xE => need (decide (x.f = 0) && decide (x.imm = 0)) (.ok (.xor x.d x.a x.b))
  | 0xF => need (decide (x.b = 0) && decide (x.f = 0)) (.ok (.xori x.d x.a x.imm))
  | _ => .error .unassigned

/-- Opcodes 0x30 to 0x3F (R57). -/
def decode3 (lo : Nat) (x : Fields) : Except Reject Instr :=
  match lo with
  | 0x0 => need (decide (x.f = 0) && decide (x.imm = 0)) (.ok (.shl x.d x.a x.b))
  | 0x1 => need (decide (x.b = 0) && decide (x.f = 0) && decide (bits 6 26 x.imm = 0))
      (.ok (.shli x.d x.a (bits 0 6 x.imm)))
  | 0x2 => need (decide (x.f = 0) && decide (x.imm = 0)) (.ok (.shr x.d x.a x.b))
  | 0x3 => need (decide (x.b = 0) && decide (x.f = 0) && decide (bits 6 26 x.imm = 0))
      (.ok (.shri x.d x.a (bits 0 6 x.imm)))
  | 0x4 => need (decide (x.f = 0) && decide (x.imm = 0)) (.ok (.sar x.d x.a x.b))
  | 0x5 => need (decide (x.b = 0) && decide (x.f = 0) && decide (bits 6 26 x.imm = 0))
      (.ok (.sari x.d x.a (bits 0 6 x.imm)))
  | 0x6 => need (decide (x.f = 0) && decide (x.imm = 0)) (.ok (.rol x.d x.a x.b))
  | 0x7 => need (decide (x.b = 0) && decide (x.f = 0) && decide (bits 6 26 x.imm = 0))
      (.ok (.roli x.d x.a (bits 0 6 x.imm)))
  | 0x8 => need (decide (x.f = 0) && decide (x.imm = 0)) (.ok (.min x.d x.a x.b))
  | 0x9 => need (decide (x.f = 0) && decide (x.imm = 0)) (.ok (.minu x.d x.a x.b))
  | 0xA => need (decide (x.f = 0) && decide (x.imm = 0)) (.ok (.max x.d x.a x.b))
  | 0xB => need (decide (x.f = 0) && decide (x.imm = 0)) (.ok (.maxu x.d x.a x.b))
  | 0xC => need (decide (x.b = 0) && decide (x.f = 0) && decide (x.imm = 0)) (.ok (.abs x.d x.a))
  | 0xD => need (decide (x.b = 0) && decide (x.f = 0) && decide (x.imm = 0)) (.ok (.clz x.d x.a))
  | 0xE => need (decide (x.b = 0) && decide (x.f = 0) && decide (x.imm = 0)) (.ok (.ctz x.d x.a))
  | 0xF => need (decide (x.b = 0) && decide (x.f = 0) && decide (x.imm = 0)) (.ok (.popc x.d x.a))
  | _ => .error .unassigned

/-- Opcodes 0x40 to 0x4F (R57). -/
def decode4 (lo : Nat) (x : Fields) : Except Reject Instr :=
  match lo with
  | 0x0 => need (decide (x.b = 0) && decide (x.f = 0) && decide (x.imm = 0)) (.ok (.brev x.d x.a))
  | 0x1 => need (decide (x.b = 0) && decide (x.f = 0) && decide (x.imm = 0)) (.ok (.bswap x.d x.a))
  | 0x2 => need (decide (x.b = 0) && decide (bits 1 5 x.f = 0) && decide (bits 13 19 x.imm = 0))
      (.ok (.extr x.d x.a (bit 0 x.f) (bits 0 6 x.imm) (bits 6 7 x.imm)))
  | 0x3 => need (decide (x.f = 0) && decide (bits 13 19 x.imm = 0))
      (.ok (.insr x.d x.a x.b (bits 0 6 x.imm) (bits 6 7 x.imm)))
  | 0x4 => need (decide (x.f = 0) && decide (x.imm = 0)) (.ok (.clmul x.d x.a x.b))
  | 0x5 => need (decide (x.f = 0) && decide (x.imm = 0)) (.ok (.clmulh x.d x.a x.b))
  | 0x6 => need (decide (x.a = 0) && decide (x.b = 0) && decide (x.f = 0)) (.ok (.li x.d x.imm))
  | 0x7 => need (decide (x.b = 0) && decide (x.f = 0)) (.ok (.lih x.d x.a x.imm))
  | 0x8 => need (decide (bits 2 4 x.f = 0)) (.ok (.lea x.d x.a x.b (bits 0 2 x.f) x.imm))
  | 0x9 => need (decide (x.d = 0) && decide (x.imm = 0))
      (coded (ICond.ofBits (bits 3 3 x.f)) (fun c => .ok (.cmp c (bits 0 3 x.f) x.a x.b)))
  | 0xA => need (decide (x.d = 0) && decide (x.b = 0))
      (coded (ICond.ofBits (bits 3 3 x.f)) (fun c => .ok (.cmpi c (bits 0 3 x.f) x.a x.imm)))
  | 0xB => need (decide (bits 3 3 x.f = 0) && decide (x.imm = 0)) (.ok (.sel x.d x.a x.b (bits 0 3 x.f)))
  | 0xC => need (decide (x.d = 0) && decide (x.a = 0) && decide (x.b = 0) && decide (x.f = 0) && decide (bits 13 19 x.imm = 0))
      (.ok (.plog (bits 0 3 x.imm) (bits 3 3 x.imm) (bits 6 3 x.imm) (bits 9 4 x.imm)))
  | 0xD => (if bit 0 x.imm then
      need (decide (x.d = 0) && decide (x.b = 0) && decide (x.f = 0) && decide (bits 1 7 x.imm = 0) && decide (bits 16 16 x.imm = 0)) (.ok (.pmovSet x.a (bits 8 8 x.imm)))
      else need (decide (x.a = 0) && decide (x.b = 0) && decide (x.f = 0) && decide (bits 1 31 x.imm = 0)) (.ok (.pmovGet x.d)))
  | 0xE => need (decide (x.d = 0) && decide (x.b = 0) && decide (bits 2 4 x.f = 0))
      (.ok (.cset (bits 0 2 x.f) x.a x.imm))
  | 0xF => need (decide (x.a = 0) && decide (x.b = 0) && decide (bits 2 4 x.f = 0) && decide (x.imm = 0))
      (.ok (.crd x.d (bits 0 2 x.f)))
  | _ => .error .unassigned

/-- Opcodes 0x50 to 0x5F (R57). -/
def decode5 (lo : Nat) (x : Fields) : Except Reject Instr :=
  match lo with
  | 0x0 => need (decide (x.a = 0) && decide (x.b = 0) && decide (bits 2 4 x.f = 0))
      (.ok (.cadd x.d (bits 0 2 x.f) x.imm))
  | 0x1 => need (decide (bits 3 3 x.f = 0) && decide (x.imm = 0))
      (coded (Rnd.ofBits (bits 0 3 x.f)) (fun m => .ok (.fadd x.d x.a x.b m)))
  | 0x2 => need (decide (bits 3 3 x.f = 0) && decide (x.imm = 0))
      (coded (Rnd.ofBits (bits 0 3 x.f)) (fun m => .ok (.fsub x.d x.a x.b m)))
  | 0x3 => need (decide (bits 3 3 x.f = 0) && decide (x.imm = 0))
      (coded (Rnd.ofBits (bits 0 3 x.f)) (fun m => .ok (.fmul x.d x.a x.b m)))
  | 0x4 => need (decide (bits 3 3 x.f = 0) && decide (x.imm = 0))
      (coded (Rnd.ofBits (bits 0 3 x.f)) (fun m => .ok (.ffma x.d x.a x.b m)))
  | 0x5 => need (decide (x.f = 0) && decide (x.imm = 0)) (.ok (.fmin x.d x.a x.b))
  | 0x6 => need (decide (x.f = 0) && decide (x.imm = 0)) (.ok (.fmax x.d x.a x.b))
  | 0x7 => need (decide (x.d = 0) && decide (x.imm = 0))
      (coded (FCond.ofBits (bits 3 3 x.f)) (fun c => .ok (.fcmp c (bits 0 3 x.f) x.a x.b)))
  | 0x8 => need (decide (x.b = 0) && decide (bits 3 3 x.f = 0) && decide (bits 9 23 x.imm = 0)) (coded (Rnd.ofBits (bits 0 3 x.f)) (fun m =>
      coded (Fmt.ofBits (bits 0 4 x.imm)) (fun s => coded (Fmt.ofBits (bits 4 4 x.imm)) (fun t =>
      if bit 8 x.imm && !t.isFp8 then .error .notZero else .ok (.fcvt x.d x.a m s t (bit 8 x.imm))))))
  | 0x9 => need (decide (x.b = 0) && decide (x.f = 0) && decide (x.imm = 0)) (.ok (.fclass x.d x.a))
  | 0xA => need (decide (x.b = 0) && decide (x.f = 0) && decide (x.imm = 0)) (.ok (.fexp2 x.d x.a))
  | 0xB => need (decide (x.b = 0) && decide (x.f = 0) && decide (x.imm = 0)) (.ok (.flog2 x.d x.a))
  | 0xC => need (decide (x.b = 0) && decide (x.f = 0) && decide (x.imm = 0)) (.ok (.frcp x.d x.a))
  | 0xD => need (decide (x.b = 0) && decide (x.f = 0) && decide (x.imm = 0)) (.ok (.frsq x.d x.a))
  | 0xE => need (decide (bits 3 3 x.f = 0) && decide (x.imm = 0))
      (coded (Rnd.ofBits (bits 0 3 x.f)) (fun m => .ok (.fscale x.d x.a x.b m)))
  | _ => .error .unassigned

/-- Opcodes 0x60 to 0x6F (R57). -/
def decode6 (lo : Nat) (x : Fields) : Except Reject Instr :=
  match lo with
  | 0x0 => need (decide (x.b = 0) && decide (bits 5 1 x.f = 0) && decide (bits 24 3 x.imm = 0) && decide (bits 28 4 x.imm = 0)) (coded (Space.ofBits (bits 0 3 x.f)) (fun s =>
      if bit 27 x.imm && decide (bits 3 2 x.f = 3) then .error .notZero
      else .ok (.ld x.d x.a s (Size.ofBits (bits 3 2 x.f)) (bits 0 24 x.imm) (bit 27 x.imm))))
  | 0x1 => need (decide (x.d = 0) && decide (bits 5 1 x.f = 0) && decide (bits 24 3 x.imm = 0) && decide (bits 29 3 x.imm = 0)) (coded (Space.ofBits (bits 0 3 x.f)) (fun s =>
      if decide (bits 27 2 x.imm ≠ 0) && decide (s ≠ .gl) then .error .notZero
      else coded (Hint.ofBits (bits 27 2 x.imm)) (fun h => .ok (.st x.a x.b s (Size.ofBits (bits 3 2 x.f)) (bits 0 24 x.imm) h))))
  | 0x2 => need (decide (x.b = 0) && decide (bits 5 1 x.f = 0) && decide (bits 28 4 x.imm = 0)) (coded (Space.ofBits (bits 0 3 x.f)) (fun s =>
      if bit 27 x.imm && decide (bits 3 2 x.f = 3) then .error .notZero
      else coded (Scope.ofBits (bits 24 3 x.imm)) (fun c =>
        .ok (.lda x.d x.a s (Size.ofBits (bits 3 2 x.f)) (bits 0 24 x.imm) c (bit 27 x.imm)))))
  | 0x3 => need (decide (x.d = 0) && decide (bits 5 1 x.f = 0) && decide (bits 27 5 x.imm = 0)) (coded (Space.ofBits (bits 0 3 x.f)) (fun s =>
      coded (Scope.ofBits (bits 24 3 x.imm)) (fun c => .ok (.stl x.a x.b s (Size.ofBits (bits 3 2 x.f)) (bits 0 24 x.imm) c))))
  | 0x4 => need (decide (x.b = 0) && decide (bits 5 1 x.f = 0) && decide (bits 24 8 x.imm = 0))
      (only64 x (coded (Space.ofBits (bits 0 3 x.f)) (fun s => .ok (.take x.d x.a s (bits 0 24 x.imm)))))
  | 0x5 => need (decide (x.d = 0) && decide (bits 5 1 x.f = 0) && decide (bits 24 8 x.imm = 0))
      (only64 x (coded (Space.ofBits (bits 0 3 x.f)) (fun s => .ok (.fill x.a x.b s (bits 0 24 x.imm)))))
  | 0x6 => need (decide (x.b = 0) && decide (bits 5 1 x.f = 0) && decide (bits 24 3 x.imm = 0) && decide (bits 30 2 x.imm = 0))
      (only64 x (coded (Space.ofBits (bits 0 3 x.f)) (fun s => .ok (.trytake (bits 27 3 x.imm) x.d x.a s (bits 0 24 x.imm)))))
  | 0x7 => need (decide (bits 5 1 x.f = 0) && decide (bits 31 1 x.imm = 0)) (atLeast32 x (coded (Space.ofBits (bits 0 3 x.f)) (fun s => coded (Scope.ofBits (bits 24 3 x.imm)) (fun c =>
      coded (AmoOp.ofBits (bits 27 4 x.imm)) (fun o => .ok (.amo o x.d x.a x.b s (Size.ofBits (bits 3 2 x.f)) (bits 0 24 x.imm) c))))))
  | 0x8 => need (decide (bits 5 1 x.f = 0) && decide (bits 27 5 x.imm = 0)) (atLeast32 x (coded (Space.ofBits (bits 0 3 x.f)) (fun s => coded (Scope.ofBits (bits 24 3 x.imm)) (fun c =>
      .ok (.amocas x.d x.a x.b s (Size.ofBits (bits 3 2 x.f)) (bits 0 24 x.imm) c)))))
  | 0x9 => need (decide (x.d = 0) && decide (x.a = 0) && decide (x.b = 0) && decide (x.f = 0) && decide (bits 0 24 x.imm = 0) && decide (bits 31 1 x.imm = 0)) (coded (Scope.ofBits (bits 24 3 x.imm)) (fun c =>
      if bits 27 4 x.imm = 0 then .error .reserved else .ok (.fence c (bits 27 4 x.imm))))
  | 0xA => need (decide (x.d = 0) && decide (x.b = 0) && decide (x.f = 0) && decide (bits 24 3 x.imm = 0) && decide (bits 28 4 x.imm = 0))
      (.ok (.pref x.a (bits 0 24 x.imm) (bit 27 x.imm)))
  | _ => .error .unassigned

/-- Opcodes 0x70 to 0x7F (R57). -/
def decode7 (lo : Nat) (x : Fields) : Except Reject Instr :=
  match lo with
  | 0x0 => need (decide (x.d = 0) && decide (x.b = 0) && decide (x.f = 0) && decide (bits 4 28 x.imm = 0))
      (.ok (.ring (bits 0 4 x.imm) x.a))
  | 0x1 => need (decide (x.d = 0) && decide (x.a = 0) && decide (x.f = 0) && decide (bits 4 12 x.imm = 0))
      (.ok (.radv (bits 0 4 x.imm) (bits 16 16 x.imm) x.b))
  | 0x2 => need (decide (x.d = 0) && decide (x.a = 0) && decide (x.f = 0) && decide (bits 4 12 x.imm = 0))
      (.ok (.rrel (bits 0 4 x.imm) (bits 16 16 x.imm) x.b))
  | 0x3 => need (decide (x.a = 0) && decide (x.b = 0) && decide (bits 0 3 x.f = 0) && decide (bits 4 28 x.imm = 0))
      (coded (boolCode (bits 3 3 x.f)) (fun v => .ok (.rstat x.d (bits 0 4 x.imm) v)))
  | 0x4 => need (decide (x.d = 0) && decide (x.a = 0) && decide (bits 3 3 x.f = 0) && decide (bits 12 4 x.imm = 0))
      (coded (Rnd.ofBits (bits 0 3 x.f)) (fun m => .ok (.vadd (bits 0 4 x.imm) (bits 4 4 x.imm) (bits 8 4 x.imm) (bits 16 16 x.imm) x.b m)))
  | 0x5 => need (decide (x.d = 0) && decide (x.a = 0) && decide (bits 3 3 x.f = 0) && decide (bits 12 4 x.imm = 0))
      (coded (Rnd.ofBits (bits 0 3 x.f)) (fun m => .ok (.vsub (bits 0 4 x.imm) (bits 4 4 x.imm) (bits 8 4 x.imm) (bits 16 16 x.imm) x.b m)))
  | 0x6 => need (decide (x.d = 0) && decide (x.a = 0) && decide (bits 3 3 x.f = 0) && decide (bits 12 4 x.imm = 0))
      (coded (Rnd.ofBits (bits 0 3 x.f)) (fun m => .ok (.vmul (bits 0 4 x.imm) (bits 4 4 x.imm) (bits 8 4 x.imm) (bits 16 16 x.imm) x.b m)))
  | 0x7 => need (decide (x.d = 0) && decide (x.a = 0) && decide (bits 3 3 x.f = 0))
      (coded (Rnd.ofBits (bits 0 3 x.f)) (fun m => .ok (.vfma (bits 0 4 x.imm) (bits 4 4 x.imm) (bits 8 4 x.imm) (bits 12 4 x.imm) (bits 16 16 x.imm) x.b m)))
  | 0x8 => need (decide (x.d = 0) && decide (x.a = 0) && decide (bits 3 3 x.f = 0) && decide (bits 12 4 x.imm = 0))
      (coded (Rnd.ofBits (bits 0 3 x.f)) (fun m => .ok (.vmax (bits 0 4 x.imm) (bits 4 4 x.imm) (bits 8 4 x.imm) (bits 16 16 x.imm) x.b m)))
  | 0x9 => need (decide (x.d = 0) && decide (x.a = 0) && decide (bits 3 3 x.f = 0) && decide (bits 12 4 x.imm = 0))
      (coded (Rnd.ofBits (bits 0 3 x.f)) (fun m => .ok (.vmin (bits 0 4 x.imm) (bits 4 4 x.imm) (bits 8 4 x.imm) (bits 16 16 x.imm) x.b m)))
  | 0xA => need (decide (x.d = 0) && decide (x.a = 0) && decide (bits 3 3 x.f = 0) && decide (bits 8 8 x.imm = 0))
      (coded (Rnd.ofBits (bits 0 3 x.f)) (fun m => .ok (.vexp2 (bits 0 4 x.imm) (bits 4 4 x.imm) (bits 16 16 x.imm) x.b m)))
  | 0xB => need (decide (x.d = 0) && decide (x.a = 0) && decide (bits 3 3 x.f = 0) && decide (bits 8 8 x.imm = 0))
      (coded (Rnd.ofBits (bits 0 3 x.f)) (fun m => .ok (.vrcp (bits 0 4 x.imm) (bits 4 4 x.imm) (bits 16 16 x.imm) x.b m)))
  | 0xC => need (decide (x.d = 0) && decide (x.a = 0) && decide (bits 3 3 x.f = 0) && decide (bits 8 8 x.imm = 0))
      (coded (Rnd.ofBits (bits 0 3 x.f)) (fun m => .ok (.vrsq (bits 0 4 x.imm) (bits 4 4 x.imm) (bits 16 16 x.imm) x.b m)))
  | 0xD => need (decide (x.d = 0) && decide (x.a = 0) && decide (bits 3 3 x.f = 0) && decide (bits 8 8 x.imm = 0))
      (coded (Rnd.ofBits (bits 0 3 x.f)) (fun m => .ok (.vcvt (bits 0 4 x.imm) (bits 4 4 x.imm) (bits 16 16 x.imm) x.b m)))
  | 0xE => need (decide (x.d = 0) && decide (x.a = 0) && decide (bits 3 3 x.f = 0) && decide (bits 8 8 x.imm = 0))
      (coded (Rnd.ofBits (bits 0 3 x.f)) (fun m => .ok (.vscale (bits 0 4 x.imm) (bits 4 4 x.imm) (bits 16 16 x.imm) x.b m)))
  | 0xF => need (decide (x.a = 0) && decide (bits 3 3 x.f = 0) && decide (bits 0 4 x.imm = 0) && decide (bits 8 8 x.imm = 0))
      (coded (Rnd.ofBits (bits 0 3 x.f)) (fun m => .ok (.vredsum x.d (bits 4 4 x.imm) (bits 16 16 x.imm) x.b m)))
  | _ => .error .unassigned

/-- Opcodes 0x80 to 0x8F (R57). -/
def decode8 (lo : Nat) (x : Fields) : Except Reject Instr :=
  match lo with
  | 0x0 => need (decide (x.a = 0) && decide (x.f = 0) && decide (bits 0 4 x.imm = 0) && decide (bits 8 8 x.imm = 0))
      (.ok (.vredmax x.d (bits 4 4 x.imm) (bits 16 16 x.imm) x.b))
  | 0x1 => need (decide (bits 0 3 x.f = 0) && decide (bits 12 4 x.imm = 0)) (if decide (x.a ≠ 0) && decide (bits 8 4 x.imm ≠ 0) then .error .notZero
      else coded (FCond.ofBits (bits 3 3 x.f)) (fun c => .ok (.vcmp x.d c (bits 0 4 x.imm) (bits 4 4 x.imm) (bits 8 4 x.imm) x.a (bits 16 16 x.imm) x.b)))
  | 0x2 => need (decide (x.d = 0) && decide (x.a = 0) && decide (bits 3 3 x.f = 0))
      (coded (Rnd.ofBits (bits 0 3 x.f)) (fun m => .ok (.vsel (bits 0 4 x.imm) (bits 4 4 x.imm) (bits 8 4 x.imm) (bits 12 4 x.imm) (bits 16 16 x.imm) x.b m)))
  | 0x3 => need (decide (x.d = 0) && decide (bits 0 3 x.f = 0) && decide (bits 4 2 x.f = 0) && decide (bits 8 8 x.imm = 0))
      (.ok (.vgath (bits 0 4 x.imm) (bits 4 4 x.imm) x.a (bit 3 x.f) (bits 16 16 x.imm) x.b))
  | 0x4 => need (decide (x.d = 0) && decide (bits 5 1 x.f = 0) && decide (bits 0 4 x.imm = 0) && decide (bits 12 4 x.imm = 0)) (coded (Rnd.ofBits (bits 0 3 x.f)) (fun m =>
      .ok (.vscat (bit 4 x.f) (bits 4 4 x.imm) (bits 8 4 x.imm) x.a (bit 3 x.f) (bits 16 16 x.imm) x.b m)))
  | 0x5 => need (decide (x.d = 0) && decide (bits 12 4 x.imm = 0)) (coded (Rnd.ofBits (bits 0 3 x.f)) (fun m => coded (BitOp.ofBits (bits 3 3 x.f)) (fun o =>
      .ok (.vbits o (bits 0 4 x.imm) (bits 4 4 x.imm) (bits 8 4 x.imm) x.a (bits 16 16 x.imm) x.b m))))
  | 0x6 => need (decide (x.d = 0) && decide (bits 4 12 x.imm = 0)) (coded (Rnd.ofBits (bits 0 3 x.f)) (fun m => coded (boolCode (bits 3 3 x.f)) (fun v =>
      .ok (.vfillc v (bits 0 4 x.imm) x.a (bits 16 16 x.imm) x.b m))))
  | 0x7 => need (decide (x.d = 0) && decide (bits 3 3 x.f = 0) && decide (bits 4 12 x.imm = 0))
      (coded (Rnd.ofBits (bits 0 3 x.f)) (fun m => .ok (.viota (bits 0 4 x.imm) x.a x.b (bits 16 16 x.imm) m)))
  | _ => .error .unassigned

/-- Opcodes 0x90 to 0x9F (R57). -/
def decode9 (lo : Nat) (x : Fields) : Except Reject Instr :=
  match lo with
  | 0x0 => need (decide (x.d = 0) && decide (x.b = 0) && decide (x.imm = 0)) (if decide (bits 0 3 x.f = 0) ≠ decide (bits 3 3 x.f = 0) then .error .reserved
      else .ok (.mfmt (bits 0 3 x.f) (bits 3 3 x.f) x.a))
  | 0x1 => need (decide (x.d = 0) && decide (x.b = 0) && decide (x.f = 0) && decide (bits 0 18 x.imm = 0) && decide (bits 19 13 x.imm = 0))
      (.ok (.bload (bit 18 x.imm) x.a))
  | 0x2 => need (decide (x.d = 0) && decide (x.a = 0) && decide (x.b = 0) && decide (x.f = 0) && decide (bits 0 18 x.imm = 0) && decide (bits 19 13 x.imm = 0))
      (.ok (.brot (bit 18 x.imm)))
  | 0x3 => need (decide (x.d = 0) && decide (x.a = 0) && decide (x.b = 0) && decide (x.f = 0) && decide (bits 27 5 x.imm = 0))
      (.ok (.mma (bits 16 2 x.imm) (bit 18 x.imm) (bits 19 8 x.imm) (bits 0 16 x.imm)))
  | 0x4 => need (decide (x.d = 0) && decide (x.b = 0) && decide (x.f = 0) && decide (bits 27 5 x.imm = 0))
      (.ok (.mmas (bits 16 2 x.imm) (bit 18 x.imm) (bits 19 8 x.imm) x.a (bits 0 16 x.imm)))
  | 0x5 => need (decide (x.a = 0) && decide (x.b = 0) && decide (x.f = 0) && decide (bits 27 5 x.imm = 0))
      (.ok (.mma2 x.d (bits 16 2 x.imm) (bit 18 x.imm) (bits 19 8 x.imm) (bits 0 16 x.imm)))
  | 0x6 => need (decide (x.d = 0) && decide (x.a = 0) && decide (x.b = 0) && decide (x.f = 0) && decide (bits 18 14 x.imm = 0))
      (.ok (.azero (bits 16 2 x.imm) (bits 0 16 x.imm)))
  | 0x7 => need (decide (x.a = 0) && decide (x.b = 0) && decide (x.f = 0) && decide (bits 0 16 x.imm = 0) && decide (bits 18 14 x.imm = 0))
      (.ok (.aver x.d (bits 16 2 x.imm)))
  | 0x8 => need (decide (x.d = 0) && decide (x.a = 0) && decide (bits 5 1 x.f = 0) && decide (bits 18 1 x.imm = 0) && decide (bits 27 5 x.imm = 0)) (coded (Fmt.ofBits (0#1 ++ bits 0 3 x.f)) (fun t =>
      if (bit 4 x.f && !t.isFp8) || (!bit 3 x.f && decide (x.b ≠ 0)) then .error .notZero
      else .ok (.aepi t (bit 4 x.f) (bit 3 x.f) (bits 16 2 x.imm) (bits 19 8 x.imm) x.b (bits 0 16 x.imm))))
  | 0x9 => need (decide (x.d = 0) && decide (bits 2 4 x.f = 0)) (match (bits 0 2 x.f).toNat with
      | 0 => need (decide (x.b = 0) && decide (x.imm = 0)) (.ok (.atopkInit x.a))
      | 1 => need (decide (bits 18 14 x.imm = 0)) (.ok (.atopkAcc (bits 16 2 x.imm) x.a x.b (bits 0 16 x.imm)))
      | _ => .error .reserved)
  | 0xA => need (decide (x.d = 0) && decide (bits 2 4 x.f = 0)) (match (bits 0 2 x.f).toNat with
      | 0 => need (decide (x.b = 0) && decide (x.imm = 0)) (.ok (.acselInit x.a))
      | 1 => need (decide (bits 18 14 x.imm = 0)) (.ok (.acselAcc (bits 16 2 x.imm) x.a x.b (bits 0 16 x.imm)))
      | _ => .error .reserved)
  | 0xB => need (decide (x.b = 0) && decide (bits 3 3 x.f = 0) && decide (x.imm = 0)) (match (bits 0 3 x.f).toNat with
      | 0 => .ok (.ardk x.d x.a .topk)
      | 1 => .ok (.ardk x.d x.a .csel)
      | 2 => need (decide (x.a = 0)) (.ok (.ardk x.d 0 .stat))
      | 3 => .ok (.ardkClr x.d x.a)
      | _ => .error .reserved)
  | 0xC => need (decide (x.d = 0) && decide (x.a = 0) && decide (x.b = 0) && decide (x.f = 0) && decide (bits 18 14 x.imm = 0))
      (.ok (.awaitv (bits 16 2 x.imm) (bits 0 16 x.imm)))
  | _ => .error .unassigned

/-- Opcodes 0xA0 to 0xAF (R57). -/
def decodeA (lo : Nat) (x : Fields) : Except Reject Instr :=
  match lo with
  | 0x0 => need (decide (x.b = 0) && decide (bits 3 3 x.f = 0) && decide (bits 16 16 x.imm = 0))
      (coded (blkSpace (bits 0 3 x.f)) (fun s => .ok (.xcopy x.d x.a s (bits 0 16 x.imm))))
  | 0x1 => need (decide (x.b = 0) && decide (bits 3 3 x.f = 0) && decide (bits 16 16 x.imm = 0))
      (coded (blkSpace (bits 0 3 x.f)) (fun s => .ok (.xconv x.d x.a s (bits 0 16 x.imm))))
  | 0x2 => need (decide (x.b = 0) && decide (bits 3 3 x.f = 0) && decide (bits 16 16 x.imm = 0))
      (coded (blkSpace (bits 0 3 x.f)) (fun s => .ok (.xscript x.d x.a s (bits 0 16 x.imm))))
  | 0x3 => need (decide (bits 16 16 x.imm = 0)) (coded (blkSpace (bits 0 3 x.f)) (fun s => coded (boolCode (bits 3 3 x.f)) (fun v =>
      .ok (.xsela x.d x.a x.b v s (bits 0 16 x.imm)))))
  | 0x4 => need (decide (x.b = 0) && decide (bits 16 16 x.imm = 0)) (coded (blkSpace (bits 0 3 x.f)) (fun s => coded (boolCode (bits 3 3 x.f)) (fun v =>
      .ok (if v then .xremAddmx x.d x.a s (bits 0 16 x.imm) else .xremPut x.d x.a s (bits 0 16 x.imm)))))
  | 0x5 => need (decide (x.f = 0) && decide (bits 16 16 x.imm = 0)) (.ok (.msend x.d x.a x.b (bits 0 16 x.imm)))
  | 0x6 => need (decide (x.b = 0) && decide (x.f = 0) && decide (x.imm = 0)) (.ok (.mwait x.d x.a))
  | 0x7 => need (decide (x.f = 0) && decide (x.imm = 0)) (.ok (.mrecv x.d x.b x.a))
  | 0x8 => need (decide (x.d = 0) && decide (x.f = 0) && decide (bits 0 16 x.imm = 0))
      (.ok (.cpost x.a x.b (bits 16 16 x.imm)))
  | 0x9 => need (decide (bits 0 3 x.f = 0) && decide (x.imm = 0))
      (coded (boolCode (bits 3 3 x.f)) (fun v => .ok (.cwait x.d x.a x.b v)))
  | 0xA => need (decide (x.f = 0) && decide (x.imm = 0)) (.ok (.crdc x.d x.a x.b))
  | 0xB => need (decide (x.a = 0) && decide (x.b = 0) && decide (x.f = 0) && decide (x.imm = 0)) (.ok (.xdrain x.d))
  | _ => .error .unassigned

/-- Opcodes 0xB0 to 0xBF (R57). -/
def decodeB (lo : Nat) (x : Fields) : Except Reject Instr :=
  match lo with
  | 0x0 => need (decide (x.a = 0) && decide (x.b = 0) && decide (x.f = 0) && decide (bits 4 28 x.imm = 0))
      (.ok (.evarr x.d (bits 0 4 x.imm)))
  | 0x1 => need (decide (x.a = 0) && decide (x.f = 0) && decide (bits 5 27 x.imm = 0))
      (.ok (.evwait x.d x.b (bits 0 4 x.imm) (bit 4 x.imm)))
  | 0x2 => need (decide (x.f = 0) && decide (bits 5 27 x.imm = 0))
      (.ok (.evtwait x.d x.a x.b (bits 0 4 x.imm) (bit 4 x.imm)))
  | 0x3 => need (decide (x.a = 0) && decide (x.b = 0) && decide (x.f = 0) && decide (bits 4 28 x.imm = 0))
      (.ok (.mtxlock x.d (bits 0 4 x.imm)))
  | 0x4 => need (decide (x.d = 0) && decide (x.a = 0) && decide (x.b = 0) && decide (x.f = 0) && decide (bits 4 28 x.imm = 0))
      (.ok (.mtxrel (bits 0 4 x.imm)))
  | 0x5 => need (decide (bits 3 3 x.f = 0) && decide (bits 4 28 x.imm = 0)) (coded (boolCode (bits 0 3 x.f)) (fun v =>
      if v then need (decide (x.d = 0)) (.ok (.evsigCfg x.a x.b (bits 0 4 x.imm))) else need (decide (x.a = 0) && decide (x.b = 0)) (.ok (.evsigSig x.d (bits 0 4 x.imm)))))
  | 0x6 => need (decide (x.a = 0) && decide (x.b = 0) && decide (x.f = 0) && decide (x.imm = 0)) (.ok (.gbar x.d))
  | 0x7 => need (decide (x.a = 0) && decide (x.b = 0) && decide (bits 1 5 x.f = 0) && decide (x.imm = 0))
      (.ok (.sstep x.d (bit 0 x.f)))
  | _ => .error .unassigned

/-- Opcodes 0xC0 to 0xCF (R57). -/
def decodeC (lo : Nat) (x : Fields) : Except Reject Instr :=
  match lo with
  | 0x0 => need (decide (x.b = 0) && decide (bits 1 5 x.f = 0) && decide (x.imm = 0))
      (.ok (.launch x.d x.a (bit 0 x.f)))
  | 0x1 => need (decide (x.d = 0) && decide (x.a = 0) && decide (x.b = 0) && decide (x.f = 0) && decide (x.imm = 0))
      (.ok (.ltrig))
  | 0x2 => need (decide (x.b = 0) && decide (bits 1 5 x.f = 0) && decide (x.imm = 0))
      (.ok (.gballot x.d x.a (bit 0 x.f)))
  | 0x3 => need (decide (x.b = 0) && decide (x.f = 0) && decide (x.imm = 0)) (.ok (.gcancel x.d x.a))
  | 0x4 => need (decide (x.b = 0) && decide (bits 3 3 x.f = 0) && decide (x.imm = 0))
      (.ok (.gstat x.d x.a (bits 0 3 x.f)))
  | 0x5 => need (decide (bits 1 5 x.f = 0) && decide (x.imm = 0)) (.ok (.draw x.d x.a x.b (bit 0 x.f)))
  | 0x6 => need (decide (x.b = 0) && decide (x.f = 0) && decide (x.imm = 0)) (.ok (.pgref x.d x.a))
  | 0x7 => need (decide (x.b = 0) && decide (x.f = 0) && decide (x.imm = 0)) (.ok (.pgrel x.d x.a))
  | _ => .error .unassigned

/-- Opcodes 0xE0 to 0xEF (R57). -/
def decodeE (lo : Nat) (x : Fields) : Except Reject Instr :=
  match lo with
  | 0x0 => need (decide (x.d = 0) && decide (bits 3 3 x.f = 0) && decide (x.imm = 0)) (if !bit 2 x.f && decide (x.b ≠ 0) then .error .notZero else match (bits 0 2 x.f).toNat with
      | 0 => .ok (.tlbinvPage x.a x.b (bit 2 x.f))
      | 1 => .ok (.tlbinvAll x.a x.b (bit 2 x.f))
      | 2 => .ok (.tlbinvCode x.a x.b (bit 2 x.f))
      | _ => .error .reserved)
  | 0x1 => need (decide (bits 4 2 x.f = 0) && decide (x.imm = 0)) (if 1 ≤ (bits 0 3 x.f).toNat ∧ (bits 0 3 x.f).toNat ≤ 4 then .ok (.pgmap x.d x.a x.b (bits 0 3 x.f) (bit 3 x.f))
      else .error .reserved)
  | 0x2 => need (decide (bits 2 4 x.f = 0) && decide (x.imm = 0)) (if !bit 1 x.f && decide (x.b ≠ 0) then .error .notZero
      else if bit 0 x.f then .ok (.ctxsaveGang x.d x.a x.b (bit 1 x.f))
      else need (decide (bits 1 1 x.f = 0)) (.ok (.ctxsaveThr x.d x.a)))
  | 0x3 => need (decide (bits 2 4 x.f = 0) && decide (x.imm = 0)) (if !bit 1 x.f && decide (x.b ≠ 0) then .error .notZero
      else if bit 0 x.f then .ok (.ctxloadGang x.d x.a x.b (bit 1 x.f))
      else need (decide (bits 1 1 x.f = 0)) (.ok (.ctxloadThr x.d x.a)))
  | 0x4 => need (decide (x.b = 0) && decide (bits 3 3 x.f = 0) && decide (x.imm = 0)) (match (bits 0 3 x.f).toNat with
      | 0 => .ok (.injectPsn x.d x.a)
      | 1 => .ok (.injectClr x.d x.a)
      | 2 => .ok (.injectSig x.d x.a)
      | 3 => .ok (.injectTclr x.d x.a)
      | 4 => .ok (.injectHalt x.d x.a)
      | _ => .error .reserved)
  | 0x5 => need (decide (x.b = 0) && decide (bits 3 3 x.f = 0) && decide (x.imm = 0)) (match (bits 0 3 x.f).toNat with
      | 0 => .ok (.sretRes x.d x.a)
      | 1 => .ok (.sretSkip x.d x.a)
      | 2 => .ok (.sretUser x.d x.a)
      | 3 => .ok (.sretAbort x.d x.a)
      | 7 => .ok (.sretAbortGang x.d x.a)
      | _ => .error .notZero)
  | 0x6 => need (decide (bits 1 5 x.f = 0) && decide (x.imm = 0))
      (if bit 0 x.f then need (decide (x.b = 0)) (.ok (.locsetInv x.d x.a)) else .ok (.locsetSet x.d x.a x.b))
  | 0x7 => need (decide (bits 1 5 x.f = 0) && decide (x.imm = 0))
      (if bit 0 x.f then need (decide (x.b = 0)) (.ok (.tensetClr x.d x.a)) else .ok (.tensetSet x.d x.a x.b))
  | _ => .error .unassigned

/-- The instruction that fields stand for, or which check of R59 fails. -/
def decodeFields (x : Fields) : Except Reject Instr :=
  match x.op.toNat / 16 with
  | 0x0 => decode0 (x.op.toNat % 16) x
  | 0x1 => decode1 (x.op.toNat % 16) x
  | 0x2 => decode2 (x.op.toNat % 16) x
  | 0x3 => decode3 (x.op.toNat % 16) x
  | 0x4 => decode4 (x.op.toNat % 16) x
  | 0x5 => decode5 (x.op.toNat % 16) x
  | 0x6 => decode6 (x.op.toNat % 16) x
  | 0x7 => decode7 (x.op.toNat % 16) x
  | 0x8 => decode8 (x.op.toNat % 16) x
  | 0x9 => decode9 (x.op.toNat % 16) x
  | 0xA => decodeA (x.op.toNat % 16) x
  | 0xB => decodeB (x.op.toNat % 16) x
  | 0xC => decodeC (x.op.toNat % 16) x
  | 0xE => decodeE (x.op.toNat % 16) x
  | _ => .error .unassigned

/-- Decoding is total on words (R59). -/
def decode (w : Word) : Except Reject Instr := decodeFields (fields w)

/-- The word of an instruction; an event of the device has none. -/
def encode : Instr → Option Word
  | .next tb a => some (word 0x01 0 a 0 (0#3 ++ tb) 0)
  | .stop => some (word 0x02 0 0 0 0 0)
  | .tstart d a imm => some (word 0x03 d a 0 0 imm)
  | .tyield => some (word 0x04 0 0 0 0 0)
  | .trap imm => some (word 0x05 0 0 0 0 imm)
  | .brk imm => some (word 0x06 0 0 0 0 imm)
  | .tret s => some (word 0x07 0 0 0 (0#5 ++ BitVec.ofBool s) 0)
  | .srd d n => some (word 0x08 d 0 0 0 (0#24 ++ n.toBits))
  | .swr n a => some (word 0x09 0 a 0 0 (0#24 ++ n.toBits))
  | .gdead h m => some (word 0x0A 0 0 0 (0#5 ++ BitVec.ofBool h) m)
  | .nop => some (word 0x0B 0 0 0 0 0)
  | .tbw tb i p a => some (word 0x10 0 a i.b (0#2 ++ i.sel ++ tb) (0#24 ++ p.toBits ++ i.idx))
  | .tbr d tb i p => some (word 0x11 d 0 i.b (0#2 ++ i.sel ++ tb) (0#24 ++ p.toBits ++ i.idx))
  | .tbcommit d tb => some (word 0x12 d 0 0 (0#3 ++ tb) 0)
  | .tbclr tb => some (word 0x13 0 0 0 (0#3 ++ tb) 0)
  | .tblook d tb a => some (word 0x14 d a 0 (0#3 ++ tb) 0)
  | .tbgen d tb => some (word 0x15 d 0 0 (0#3 ++ tb) 0)
  | .add d a b => some (word 0x20 d a b 0 0)
  | .addi d a imm => some (word 0x21 d a 0 0 imm)
  | .sub d a b => some (word 0x22 d a b 0 0)
  | .mul d a b => some (word 0x23 d a b 0 0)
  | .mulh d a b => some (word 0x24 d a b 0 0)
  | .mulhu d a b => some (word 0x25 d a b 0 0)
  | .div d a b => some (word 0x26 d a b 0 0)
  | .divu d a b => some (word 0x27 d a b 0 0)
  | .rem d a b => some (word 0x28 d a b 0 0)
  | .remu d a b => some (word 0x29 d a b 0 0)
  | .and d a b => some (word 0x2A d a b 0 0)
  | .andi d a imm => some (word 0x2B d a 0 0 imm)
  | .or d a b => some (word 0x2C d a b 0 0)
  | .ori d a imm => some (word 0x2D d a 0 0 imm)
  | .xor d a b => some (word 0x2E d a b 0 0)
  | .xori d a imm => some (word 0x2F d a 0 0 imm)
  | .shl d a b => some (word 0x30 d a b 0 0)
  | .shli d a n => some (word 0x31 d a 0 0 (0#26 ++ n))
  | .shr d a b => some (word 0x32 d a b 0 0)
  | .shri d a n => some (word 0x33 d a 0 0 (0#26 ++ n))
  | .sar d a b => some (word 0x34 d a b 0 0)
  | .sari d a n => some (word 0x35 d a 0 0 (0#26 ++ n))
  | .rol d a b => some (word 0x36 d a b 0 0)
  | .roli d a n => some (word 0x37 d a 0 0 (0#26 ++ n))
  | .min d a b => some (word 0x38 d a b 0 0)
  | .minu d a b => some (word 0x39 d a b 0 0)
  | .max d a b => some (word 0x3A d a b 0 0)
  | .maxu d a b => some (word 0x3B d a b 0 0)
  | .abs d a => some (word 0x3C d a 0 0 0)
  | .clz d a => some (word 0x3D d a 0 0 0)
  | .ctz d a => some (word 0x3E d a 0 0 0)
  | .popc d a => some (word 0x3F d a 0 0 0)
  | .brev d a => some (word 0x40 d a 0 0 0)
  | .bswap d a => some (word 0x41 d a 0 0 0)
  | .extr d a s p w => some (word 0x42 d a 0 (0#5 ++ BitVec.ofBool s) (0#19 ++ w ++ p))
  | .insr d a b p w => some (word 0x43 d a b 0 (0#19 ++ w ++ p))
  | .clmul d a b => some (word 0x44 d a b 0 0)
  | .clmulh d a b => some (word 0x45 d a b 0 0)
  | .li d imm => some (word 0x46 d 0 0 0 imm)
  | .lih d a imm => some (word 0x47 d a 0 0 imm)
  | .lea d a b s i => some (word 0x48 d a b (0#4 ++ s) i)
  | .cmp c p a b => some (word 0x49 0 a b (c.toBits ++ p) 0)
  | .cmpi c p a i => some (word 0x4A 0 a 0 (c.toBits ++ p) i)
  | .sel d a b p => some (word 0x4B d a b (0#3 ++ p) 0)
  | .plog pd pa pb t => some (word 0x4C 0 0 0 0 (0#19 ++ t ++ pb ++ pa ++ pd))
  | .pmovGet d => some (word 0x4D d 0 0 0 0)
  | .pmovSet a m => some (word 0x4D 0 a 0 0 (0#16 ++ m ++ 0#7 ++ 1#1))
  | .cset c a i => some (word 0x4E 0 a 0 (0#4 ++ c) i)
  | .crd d c => some (word 0x4F d 0 0 (0#4 ++ c) 0)
  | .cadd d c i => some (word 0x50 d 0 0 (0#4 ++ c) i)
  | .fadd d a b m => some (word 0x51 d a b (0#3 ++ m.toBits) 0)
  | .fsub d a b m => some (word 0x52 d a b (0#3 ++ m.toBits) 0)
  | .fmul d a b m => some (word 0x53 d a b (0#3 ++ m.toBits) 0)
  | .ffma d a b m => some (word 0x54 d a b (0#3 ++ m.toBits) 0)
  | .fmin d a b => some (word 0x55 d a b 0 0)
  | .fmax d a b => some (word 0x56 d a b 0 0)
  | .fcmp c p a b => some (word 0x57 0 a b (c.toBits ++ p) 0)
  | .fcvt d a m s t v => some (word 0x58 d a 0 (0#3 ++ m.toBits) (0#23 ++ BitVec.ofBool v ++ t.toBits ++ s.toBits))
  | .fclass d a => some (word 0x59 d a 0 0 0)
  | .fexp2 d a => some (word 0x5A d a 0 0 0)
  | .flog2 d a => some (word 0x5B d a 0 0 0)
  | .frcp d a => some (word 0x5C d a 0 0 0)
  | .frsq d a => some (word 0x5D d a 0 0 0)
  | .fscale d a b m => some (word 0x5E d a b (0#3 ++ m.toBits) 0)
  | .ld d a s z i e => some (word 0x60 d a 0 (fM s z) (immM (0#3 ++ BitVec.ofBool e) 0 i))
  | .st a b s z i h => some (word 0x61 0 a b (fM s z) (immM (0#2 ++ h.toBits) 0 i))
  | .lda d a s z i c e => some (word 0x62 d a 0 (fM s z) (immM (0#3 ++ BitVec.ofBool e) c.toBits i))
  | .stl a b s z i c => some (word 0x63 0 a b (fM s z) (immM 0 c.toBits i))
  | .take d a s i => some (word 0x64 d a 0 (fM s .b64) (immM 0 0 i))
  | .fill a b s i => some (word 0x65 0 a b (fM s .b64) (immM 0 0 i))
  | .trytake p d a s i => some (word 0x66 d a 0 (fM s .b64) (immM (0#1 ++ p) 0 i))
  | .amo o d a b s z i c => some (word 0x67 d a b (fM s z) (immM o.toBits c.toBits i))
  | .amocas d a b s z i c => some (word 0x68 d a b (fM s z) (immM 0 c.toBits i))
  | .fence c o => some (word 0x69 0 0 0 0 (immM o c.toBits 0))
  | .pref a i c => some (word 0x6A 0 a 0 0 (immM (0#3 ++ BitVec.ofBool c) 0 i))
  | .ring h a => some (word 0x70 0 a 0 0 (immS 0 0 0 0 h))
  | .radv h n b => some (word 0x71 0 0 b 0 (immS n 0 0 0 h))
  | .rrel h n b => some (word 0x72 0 0 b 0 (immS n 0 0 0 h))
  | .rstat d h v => some (word 0x73 d 0 0 (0#2 ++ BitVec.ofBool v ++ 0#3) (immS 0 0 0 0 h))
  | .vadd ho ha hb n b m => some (word 0x74 0 0 b (0#3 ++ m.toBits) (immS n 0 hb ha ho))
  | .vsub ho ha hb n b m => some (word 0x75 0 0 b (0#3 ++ m.toBits) (immS n 0 hb ha ho))
  | .vmul ho ha hb n b m => some (word 0x76 0 0 b (0#3 ++ m.toBits) (immS n 0 hb ha ho))
  | .vfma ho ha hb hc n b m => some (word 0x77 0 0 b (0#3 ++ m.toBits) (immS n hc hb ha ho))
  | .vmax ho ha hb n b m => some (word 0x78 0 0 b (0#3 ++ m.toBits) (immS n 0 hb ha ho))
  | .vmin ho ha hb n b m => some (word 0x79 0 0 b (0#3 ++ m.toBits) (immS n 0 hb ha ho))
  | .vexp2 ho ha n b m => some (word 0x7A 0 0 b (0#3 ++ m.toBits) (immS n 0 0 ha ho))
  | .vrcp ho ha n b m => some (word 0x7B 0 0 b (0#3 ++ m.toBits) (immS n 0 0 ha ho))
  | .vrsq ho ha n b m => some (word 0x7C 0 0 b (0#3 ++ m.toBits) (immS n 0 0 ha ho))
  | .vcvt ho ha n b m => some (word 0x7D 0 0 b (0#3 ++ m.toBits) (immS n 0 0 ha ho))
  | .vscale ho ha n b m => some (word 0x7E 0 0 b (0#3 ++ m.toBits) (immS n 0 0 ha ho))
  | .vredsum d ha n b m => some (word 0x7F d 0 b (0#3 ++ m.toBits) (immS n 0 0 ha 0))
  | .vredmax d ha n b => some (word 0x80 d 0 b 0 (immS n 0 0 ha 0))
  | .vcmp d c ho ha hb a n b => some (word 0x81 d a b (c.toBits ++ 0#3) (immS n 0 hb ha ho))
  | .vsel ho ha hb hc n b m => some (word 0x82 0 0 b (0#3 ++ m.toBits) (immS n hc hb ha ho))
  | .vgath ho ha a s n b => some (word 0x83 0 a b (0#2 ++ BitVec.ofBool s ++ 0#3) (immS n 0 0 ha ho))
  | .vscat o ha hb a s n b m => some (word 0x84 0 a b (0#1 ++ BitVec.ofBool o ++ BitVec.ofBool s ++ m.toBits) (immS n 0 hb ha 0))
  | .vbits o ho ha hb a n b m => some (word 0x85 0 a b (o.toBits ++ m.toBits) (immS n 0 hb ha ho))
  | .vfillc v ho a n b m => some (word 0x86 0 a b (0#2 ++ BitVec.ofBool v ++ m.toBits) (immS n 0 0 0 ho))
  | .viota ho a b n m => some (word 0x87 0 a b (0#3 ++ m.toBits) (immS n 0 0 0 ho))
  | .mfmt fa fb a => some (word 0x90 0 a 0 (fb ++ fa) 0)
  | .bload l a => some (word 0x91 0 a 0 0 (immT 0 l 0 0))
  | .brot l => some (word 0x92 0 0 0 0 (immT 0 l 0 0))
  | .mma t l s v => some (word 0x93 0 0 0 0 (immT s l t v))
  | .mmas t l s a v => some (word 0x94 0 a 0 0 (immT s l t v))
  | .mma2 d t l s v => some (word 0x95 d 0 0 0 (immT s l t v))
  | .azero t v => some (word 0x96 0 0 0 0 (immT 0 false t v))
  | .aver d t => some (word 0x97 d 0 0 0 (immT 0 false t 0))
  | .aepi ty v bi t s b e => some (word 0x98 0 0 b (0#1 ++ BitVec.ofBool v ++ BitVec.ofBool bi ++ bits 0 3 ty.toBits) (immT s false t e))
  | .atopkInit a => some (word 0x99 0 a 0 0 0)
  | .atopkAcc t a b v => some (word 0x99 0 a b 1 (immT 0 false t v))
  | .acselInit a => some (word 0x9A 0 a 0 0 0)
  | .acselAcc t a b v => some (word 0x9A 0 a b 1 (immT 0 false t v))
  | .ardk d a v => some (word 0x9B d a 0 v.toBits 0)
  | .ardkClr d a => some (word 0x9B d a 0 3 0)
  | .awaitv t v => some (word 0x9C 0 0 0 0 (immT 0 false t v))
  | .xcopy d a s t => some (word 0xA0 d a 0 (0#4 ++ s) (immX 0 t))
  | .xconv d a s t => some (word 0xA1 d a 0 (0#4 ++ s) (immX 0 t))
  | .xscript d a s t => some (word 0xA2 d a 0 (0#4 ++ s) (immX 0 t))
  | .xsela d a b v s t => some (word 0xA3 d a b (0#2 ++ BitVec.ofBool v ++ 0#1 ++ s) (immX 0 t))
  | .xremPut d a s t => some (word 0xA4 d a 0 (0#4 ++ s) (immX 0 t))
  | .xremAddmx d a s t => some (word 0xA4 d a 0 (1#3 ++ 0#1 ++ s) (immX 0 t))
  | .msend d a b t => some (word 0xA5 d a b 0 (immX 0 t))
  | .mwait d a => some (word 0xA6 d a 0 0 0)
  | .mrecv d e a => some (word 0xA7 d a e 0 0)
  | .cpost a b i => some (word 0xA8 0 a b 0 (immX i 0))
  | .cwait d a b v => some (word 0xA9 d a b (0#2 ++ BitVec.ofBool v ++ 0#3) 0)
  | .crdc d a b => some (word 0xAA d a b 0 0)
  | .xdrain d => some (word 0xAB d 0 0 0 0)
  | .evarr d n => some (word 0xB0 d 0 0 0 (0#28 ++ n))
  | .evwait d b n l => some (word 0xB1 d 0 b 0 (0#27 ++ BitVec.ofBool l ++ n))
  | .evtwait d a b n l => some (word 0xB2 d a b 0 (0#27 ++ BitVec.ofBool l ++ n))
  | .mtxlock d n => some (word 0xB3 d 0 0 0 (0#28 ++ n))
  | .mtxrel n => some (word 0xB4 0 0 0 0 (0#28 ++ n))
  | .evsigSig d n => some (word 0xB5 d 0 0 0 (0#28 ++ n))
  | .evsigCfg a b n => some (word 0xB5 0 a b 1 (0#28 ++ n))
  | .gbar d => some (word 0xB6 d 0 0 0 0)
  | .sstep d v => some (word 0xB7 d 0 0 (0#5 ++ BitVec.ofBool v) 0)
  | .launch d a v => some (word 0xC0 d a 0 (0#5 ++ BitVec.ofBool v) 0)
  | .ltrig => some (word 0xC1 0 0 0 0 0)
  | .gballot d a v => some (word 0xC2 d a 0 (0#5 ++ BitVec.ofBool v) 0)
  | .gcancel d a => some (word 0xC3 d a 0 0 0)
  | .gstat d a v => some (word 0xC4 d a 0 (0#3 ++ v) 0)
  | .draw d a b v => some (word 0xC5 d a b (0#5 ++ BitVec.ofBool v) 0)
  | .pgref d a => some (word 0xC6 d a 0 0 0)
  | .pgrel d a => some (word 0xC7 d a 0 0 0)
  | .tlbinvPage a b v => some (word 0xE0 0 a b (0#3 ++ BitVec.ofBool v ++ 0#2) 0)
  | .tlbinvAll a b v => some (word 0xE0 0 a b (0#3 ++ BitVec.ofBool v ++ 1#2) 0)
  | .tlbinvCode a b v => some (word 0xE0 0 a b (0#3 ++ BitVec.ofBool v ++ 2#2) 0)
  | .pgmap d a b l w => some (word 0xE1 d a b (0#2 ++ BitVec.ofBool w ++ l) 0)
  | .ctxsaveThr d a => some (word 0xE2 d a 0 0 0)
  | .ctxsaveGang d a b v => some (word 0xE2 d a b (0#4 ++ BitVec.ofBool v ++ 1#1) 0)
  | .ctxloadThr d a => some (word 0xE3 d a 0 0 0)
  | .ctxloadGang d a b v => some (word 0xE3 d a b (0#4 ++ BitVec.ofBool v ++ 1#1) 0)
  | .injectPsn d a => some (word 0xE4 d a 0 0 0)
  | .injectClr d a => some (word 0xE4 d a 0 1 0)
  | .injectSig d a => some (word 0xE4 d a 0 2 0)
  | .injectTclr d a => some (word 0xE4 d a 0 3 0)
  | .injectHalt d a => some (word 0xE4 d a 0 4 0)
  | .sretRes d a => some (word 0xE5 d a 0 0 0)
  | .sretSkip d a => some (word 0xE5 d a 0 1 0)
  | .sretUser d a => some (word 0xE5 d a 0 2 0)
  | .sretAbort d a => some (word 0xE5 d a 0 3 0)
  | .sretAbortGang d a => some (word 0xE5 d a 0 7 0)
  | .locsetSet d a b => some (word 0xE6 d a b 0 0)
  | .locsetInv d a => some (word 0xE6 d a 0 1 0)
  | .tensetSet d a b => some (word 0xE7 d a b 0 0)
  | .tensetClr d a => some (word 0xE7 d a 0 1 0)
  | .patrolScrubRead _ _ => none
  | .recalibration _ => none
  | .powerInterval _ _ _ => none
  | .mailboxArrival _ => none
  | .counterPost _ => none
  | .trapDelivery _ _ => none
  | .asyncTrapTake _ _ => none
  | .registerFill _ _ _ => none
  | .contextRelease _ _ => none
  | .tableRefreshEnd _ _ => none
  | .debugHalt _ _ => none
  | .ringWaitStart _ _ => none
  | .vectorComplete _ => none
  | .matrixAccept _ _ => none
  | .matrixComplete _ _ => none
  | .brotStep _ _ => none
  | .brotTimeout _ _ => none
  | .mma2GroupOp _ => none
  | .mma2Timeout _ => none
  | .mailboxReserve _ _ => none
  | .streamerRequestStart _ => none
  | .streamerCompletion _ _ => none
  | .remoteRequest _ _ _ => none
  | .remoteAck _ _ _ => none
  | .flitReceive _ _ => none
  | .portSignalDetect _ => none
  | .laneAligned _ => none
  | .deskewTimeout _ => none
  | .equaliseSettled _ => none
  | .equaliseTimeout _ => none
  | .capabilityRecord _ _ => none
  | .signalLoss _ => none
  | .portEnWrite _ _ => none
  | .portRetrain _ => none
  | .hostMemRead _ _ => none
  | .hostMemWrite _ _ => none
  | .queueEnableWrite _ _ => none
  | .qprodWrite _ _ => none
  | .queueErrClear _ => none
  | .recordFetch _ => none
  | .recordReserving _ => none
  | .gangStart _ => none
  | .copyRecordRun _ => none
  | .gangRetire _ => none
  | .preemptHalt _ => none
  | .swapOut _ => none
  | .swapIn _ => none
  | .gangStall _ => none
  | .evtwaitTimeout _ _ => none
  | .spanReport _ => none
  | .collectiveComplete _ => none
  | .rollback _ => none
  | .rollbackRestore _ => none
  | .cancelArrival _ => none
  | .drawAccept _ _ => none
  | .tlbinvComplete _ => none
  | .pageReleaseComplete _ => none
  | .attcmdWrite _ => none
  | .pcapWrite _ => none
  | .scrWrite _ => none
  | .rclWrite _ => none
  | .registerWrite _ _ => none
  | .accessPerformed _ _ _ => none
  | .thermalLimitReached _ => none
  | .resetRelease => none
  | .fwverify => none
  | .memtrain => none
  | .sraminit => none
  | .linkup => none
  | .ready => none
  | .powerLoss => none
  | .supervisorNotification => none
  | .admission => none
  | .schedulerPreempt => none
  | .listLaunch => none
  | .listWaitc => none
  | .listSkipif => none
  | .listJump => none
  | .listCall => none
  | .listRet => none
  | .listPost => none
  | .listFence => none
  | .listTable => none
  | .quoteComplete => none
  | .elogRead => none
  | .decodeFailure => none
  | .cxlLinkDown => none

/-- The instruction that the decoder reads from a word as the opcode table numbers its bits. -/
def decodeTableWord (nbits w : Nat) : Option Instr :=
  if nbits ≤ 64 then (decode (BitVec.ofNat 64 w)).toOption else none

end Sys2Proof
end

