-- ==== Sys2Proof/Machine/Vector.lean ====
section
/-! DEFINITION. Ring handles and the vector engine (spec/09): descriptors, streams, the checks of R178, the wait and the start
of R171, and the element computations of R175 and R176. -/

set_option linter.constructorNameAsVariable false

namespace Sys2Proof.Machine

/-! ## Handles (R169, R170) -/

namespace Ring

/-- An unbound handle. -/
def unbound : Ring := ⟨0, 0, 0⟩

/-- BASE: byte offset of slot 0. -/
def base (r : Ring) : Nat := natBits 0 21 r.desc

/-- The space: scratchpad for code 1, else ABUF. -/
def space (r : Ring) : Space := if natBits 21 3 r.desc = 1 then .sp else .ab

/-- The slot count N. -/
def slots (r : Ring) : Nat := 2 ^ natBits 24 4 r.desc

/-- The elements E of a slot. -/
def elems (r : Ring) : Nat := 32 * (natBits 28 6 r.desc + 1)

/-- The element type, where its code names one. -/
def type? (r : Ring) : Option Fmt := Fmt.ofBits (bits 34 4 r.desc)

/-- The element type of a valid descriptor. -/
def type (r : Ring) : Fmt := r.type?.getD .f32

/-- FSAT. -/
def fsat (r : Ring) : Bool := bit 38 r.desc

/-- Size of an element in bytes. -/
def size (r : Ring) : Nat := fmtBytes r.type

/-- A valid descriptor (R169). -/
def valid (r : Ring) : Bool :=
  decide (bits 39 25 r.desc = 0) && decide (r.base % 32 = 0) &&
    (decide (natBits 21 3 r.desc = 1) || decide (natBits 21 3 r.desc = 3)) && decide (natBits 24 4 r.desc ≤ 8) &&
    r.type?.isSome && decide (r.base + r.slots * r.elems * r.size ≤ spaceSize r.space)

/-- The filled count F (R170). -/
def filled (r : Ring) : Nat := (r.p - r.c).toNat

/-- The slots that m elements occupy (R170). -/
def slotsFor (r : Ring) (m : Nat) : Nat := (m + r.elems - 1) / r.elems

/-- The byte offset of element j of a stream that begins at a pointer (R170). -/
def elemAddr (r : Ring) (x : Half) (j : Nat) : Nat :=
  r.base + (x.toNat + j / r.elems) % r.slots * (r.elems * r.size) + j % r.elems * r.size

end Ring

namespace State

/-- The ring handles of the team of a context (R169, R92). -/
def ringsOf (s : State) (c k : Nat) : SMap Ring :=
  match (s.thread c k).owner with
  | .sup => (s.coreAt c).supRings
  | .none => (s.coreAt c).rings
  | .gang _ => (s.coreAt c).rings

/-- A handle of the running thread's team. -/
def ringAt (s : State) (h : Nat) : Ring := (s.ringsOf s.core s.ctx).get Ring.unbound h

/-- A handle of the running thread's team changed; those of the supervisor's team are no state of a gang's superstep (R92, R322). -/
def setRing (s : State) (h : Nat) (r : Ring) : State :=
  match s.me.owner with
  | .sup => s.modMyCore (fun x => { x with supRings := x.supRings.set Ring.unbound h r })
  | .none => s
  | .gang _ => (s.modMyCore (fun x => { x with rings := x.rings.set Ring.unbound h r })).touchCore s.core [unitOfRings]
      (some (s.core, s.ctx))

/-- A vector instruction of the running thread's team that has started and names a handle. -/
def ringBusy (s : State) (h : Nat) : Bool :=
  s.myCore.vec.any (fun j => (j.rings.find? h).isSome &&
    (decide ((s.thread s.core j.ctx).owner = .sup) == decide (s.me.owner = .sup)))

end State

/-! ## Streams of an instruction -/

/-- What an entry allows on a handle (R178, check 3). -/
inductive ElemRule where
  | any | float | int32 | index
deriving DecidableEq, Repr

/-- A type that a rule allows. -/
def ElemRule.ok : ElemRule → Fmt → Bool
  | .any, _ => true
  | .float, t => !fmtIsInt t
  | .int32, t => decide (t = .i32)
  | .index, t => fmtIsInt t

/-- A stream that an instruction names: the handle, the element count as a function of n, and what the entry allows. -/
structure Stream where
  h    : Nat
  m    : Nat
  out  : Bool
  rule : ElemRule
deriving DecidableEq, Repr

/-- INT32 elements that hold a bitmap of n bits (VCMP). -/
def bitmapLen (n : Nat) : Nat := (n + 31) / 32

/-- What the checks of R177 and R178 look at: the immediate count, the count register, the table base with its space, the
output handle, the input handles with their rules and whether each is a bitmap. -/
structure VForm where
  imm   : BitVec 16
  count : Option Reg
  base  : Option Reg
  sp    : Bool
  out   : Option (BitVec 4 × Bool)
  ins   : List (BitVec 4 × ElemRule × Bool)

/-- The form of an elementwise instruction over one, two or three streams. -/
def VForm.elementwise (ho : BitVec 4) (ins : List (BitVec 4)) (n : BitVec 16) (b : Reg) : VForm :=
  ⟨n, some b, none, false, some (ho, false), ins.map (fun h => (h, .any, false))⟩

/-- The form of a vector instruction; other instructions have an empty one. -/
def vform : Instr → VForm
  | .vadd ho ha hb n b _ => .elementwise ho [ha, hb] n b
  | .vsub ho ha hb n b _ => .elementwise ho [ha, hb] n b
  | .vmul ho ha hb n b _ => .elementwise ho [ha, hb] n b
  | .vmax ho ha hb n b _ => .elementwise ho [ha, hb] n b
  | .vmin ho ha hb n b _ => .elementwise ho [ha, hb] n b
  | .vfma ho ha hb hc n b _ => .elementwise ho [ha, hb, hc] n b
  | .vexp2 ho ha n b _ => .elementwise ho [ha] n b
  | .vrcp ho ha n b _ => .elementwise ho [ha] n b
  | .vrsq ho ha n b _ => .elementwise ho [ha] n b
  | .vcvt ho ha n b _ => .elementwise ho [ha] n b
  | .vscale ho ha n _ _ => ⟨n, none, none, false, some (ho, false), [(ha, .any, false)]⟩
  | .vredsum _ ha n b _ => ⟨n, some b, none, false, none, [(ha, .float, false)]⟩
  | .vredmax _ ha n b => ⟨n, some b, none, false, none, [(ha, .float, false)]⟩
  | .vcmp _ _ ho ha hb a n b =>
    ⟨n, some b, none, false, some (ho, true), (ha, .any, false) :: (if a = 0 then [(hb, .any, false)] else [])⟩
  | .vsel ho ha hb hc n b _ =>
    ⟨n, some b, none, false, some (ho, false), [(ha, .any, false), (hb, .any, false), (hc, .int32, true)]⟩
  | .vbits _ ho ha hb _ n b _ => ⟨n, some b, none, false, some (ho, false), [(ha, .any, false), (hb, .int32, true)]⟩
  | .vgath ho ha a sp n b => ⟨n, some b, some a, sp, some (ho, false), [(ha, .index, false)]⟩
  | .vscat _ ha hb a sp n b _ => ⟨n, some b, some a, sp, none, [(ha, .any, false), (hb, .index, false)]⟩
  | .vfillc _ ho _ n b _ => ⟨n, some b, none, false, some (ho, false), []⟩
  | .viota ho _ _ n _ => ⟨n, none, none, false, some (ho, false), []⟩
  | _ => ⟨0, none, none, false, none, []⟩

/-- The streams of n elements, output first. -/
def VForm.streams (f : VForm) (n : Nat) : List Stream :=
  (match f.out with
    | some (h, map) => [⟨h.toNat, if map then bitmapLen n else n, true, if map then .int32 else .any⟩]
    | none => []) ++
  f.ins.map (fun x => ⟨x.1.toNat, if x.2.2 then bitmapLen n else n, false, x.2.1⟩)

/-- The scalar operands A and B that enter the values, not addresses or counts (R176). -/
def vscalars : Instr → Reg × Reg
  | .vcmp _ _ _ _ _ a _ _ => (a, 0)
  | .vbits _ _ _ _ a _ _ _ => (a, 0)
  | .vfillc _ _ a _ _ _ => (a, 0)
  | .viota _ a b _ _ => (a, b)
  | .vscale _ _ _ b _ => (0, b)
  | .vgath _ _ a _ _ _ => (a, 0)
  | .vscat _ _ _ a _ _ _ _ => (a, 0)
  | _ => (0, 0)

/-- The rounding sub-field of a vector instruction (R175). -/
def vrounding : Instr → Rnd
  | .vadd _ _ _ _ _ m => m
  | .vsub _ _ _ _ _ m => m
  | .vmul _ _ _ _ _ m => m
  | .vmax _ _ _ _ _ m => m
  | .vmin _ _ _ _ _ m => m
  | .vfma _ _ _ _ _ _ m => m
  | .vexp2 _ _ _ _ m => m
  | .vrcp _ _ _ _ m => m
  | .vrsq _ _ _ _ m => m
  | .vcvt _ _ _ _ m => m
  | .vscale _ _ _ _ m => m
  | .vredsum _ _ _ _ m => m
  | .vsel _ _ _ _ _ _ m => m
  | .vbits _ _ _ _ _ _ _ m => m
  | .vscat _ _ _ _ _ _ _ m => m
  | .vfillc _ _ _ _ _ m => m
  | .viota _ _ _ _ m => m
  | _ => .mode

namespace State

/-! ## Checks, wait and start (R171, R177, R178) -/

/-- A stream meets its need under the present binding (R171); one whose handle no longer suits its instruction after a RING
does not (log 30). -/
def streamReady (rings : SMap Ring) (x : Stream) : Bool :=
  let r := rings.get Ring.unbound x.h
  decide (r.desc ≠ 0) && x.rule.ok r.type && decide (r.slotsFor x.m ≤ if x.out then r.slots - r.filled else r.filled)

/-- A context's vector instruction starts (R171): the handles named are captured, and it queues for the engine (R174). -/
def startVector (s : State) (c k : Nat) (i : Instr) (n : Nat) : State :=
  let t := s.thread c k
  let rings := s.ringsOf c k
  let named := (vform i).streams n
  let job : VecJob :=
    { ctx := k, ins := i, n := n, a := t.reg (vscalars i).1, b := t.reg (vscalars i).2,
      rings := named.foldl (fun m x => m.put x.h (rings.get Ring.unbound x.h)) [] }
  let s := s.modThread c k (fun t => { t with stat := .issued, wait := .stall .vector })
  s.modCore c (fun x => { x with vec := x.vec ++ [job] })

/-- The element count of R177. -/
def vcount (t : Thread) (f : VForm) : Nat :=
  f.imm.toNat + (match f.count with
    | some b => (t.reg b).v.toNat
    | none => 0)

/-- The first failing check of R178: its cause and s.tval, none for the instruction word. The manual states s.tval of RANGE as n
for R177's own limit, and states none for the limit of an entry (VGATH and VSCAT in .sp): n there too is the model's choice
(log 22). -/
def vectorCheck (s : State) (f : VForm) (n : Nat) : Option (BitVec 8 × Option Word) :=
  let poisoned (r : Option Reg) : Bool := match r with
    | some a => (s.reg a).p
    | none => false
  let named := f.streams n
  let base : Nat := match f.base with
    | some a => (s.reg a).v.toNat
    | none => 0
  let tableSize : Nat := match f.out, f.ins with
    | some (h, _), _ => (s.ringAt h.toNat).size
    | none, (h, _) :: _ => (s.ringAt h.toNat).size
    | none, [] => 1
  if poisoned f.base || poisoned f.count then some (Cause.poisonConsumed, none)
  else match named.find? (fun x => decide ((s.ringAt x.h).desc = 0)) with
  | some x => some (Cause.ringConfig, some (BitVec.ofNat 64 x.h))
  | none => match named.find? (fun x => !x.rule.ok (s.ringAt x.h).type) with
  | some x => some (Cause.ringConfig, some (BitVec.ofNat 64 x.h))
  | none =>
    if n > 65535 || (f.base.isSome && f.sp && decide (n > 4096)) then some (Cause.range, some (BitVec.ofNat 64 n))
    else match named.find? (fun x => decide ((s.ringAt x.h).slotsFor x.m > (s.ringAt x.h).slots)) with
    | some x => some (Cause.ringConfig, some (BitVec.ofNat 64 x.h))
    | none =>
      if f.base.isSome && decide (base % tableSize ≠ 0) then some (Cause.misaligned, some (BitVec.ofNat 64 base))
      else none

/-- The context of a started vector instruction has an outstanding access to a byte that the instruction writes: one of its output
elements, or the space of its table for VSCAT (R262 row 7, R263). -/
def vectorMeets (s : State) (c : Nat) (job : VecJob) : Bool :=
  let f := vform job.ins
  let place (sp : Space) (x : Access) : Bool := decide (x.space = sp) && decide (x.place = placeOf sp c)
  (s.thread c job.ctx).out.any (fun x => match f.out, f.base with
    | some (h, map), _ =>
      let r := job.rings.get Ring.unbound h.toNat
      place r.space x && (List.range (if map then bitmapLen job.n else job.n)).any (fun j =>
        decide (x.addr < r.elemAddr r.p j + r.size) && decide (r.elemAddr r.p j < x.addr + x.bytes))
    | none, some _ => place (if f.sp then .sp else .ab) x
    | none, none => false)

/-- The instruction of a parked ring wait and its count, if every stream meets its need and the thread's gang is not being halted for
a pre-emption or a rollback (R171, R173, R304, R326). Check 6 of R178 is not made again where RING has rebound a handle meanwhile
(DESIGN CHOICE, log 30). -/
def ringWaiter (s : State) (c k : Nat) : Option (Instr × Nat) :=
  let t := s.thread c k
  match t.stat, t.wait, t.held with
  | .parked, .ring, some i =>
    let n := vcount t (vform i)
    if s.mayIssue t && ((vform i).streams n).all (streamReady (s.ringsOf c k)) then some (i, n) else none
  | _, _, _ => none

/-- A ring wait that can end ends: its instruction starts. -/
def startWaiter (s : State) (c k : Nat) : State :=
  match s.ringWaiter c k with
  | some (i, n) => s.startVector c k i n
  | none => s

/-- A pointer or a binding of a core's handles has moved: its ring waits are tested again, and those that are met start in ascending
s.tid (R171, R173, R174). -/
def startWaiters (s : State) (c : Nat) : State := ((s.coreAt c).threads.map (·.1)).foldl (fun s k => s.startWaiter c k) s

/-- The ring wait of a core that starts next, where none has been tested since a restore: the lowest that is met (R174). -/
def nextWaiter (s : State) (c : Nat) : Option Nat := (((s.coreAt c).threads.map (·.1)).filter (fun k => (s.ringWaiter c k).isSome)).min?

/-- A vector instruction of the running thread: the checks of R178, then the start or the wait of R171. -/
def vector (s : State) (i : Instr) : State :=
  let f := vform i
  let n := vcount s.me f
  match s.vectorCheck f n with
  | some (c, some v) => s.raiseTrap c v
  | some (c, none) => s.raiseTrap c s.me.word
  | none =>
    if (f.streams n).all (streamReady (s.ringsOf s.core s.ctx)) then s.startVector s.core s.ctx i n
    else s.parkOr .ring (fun _ => s.retire)

/-! ## The engine (R174 to R176) -/

/-- Element j of an input stream: its bits and the poison of its word. -/
def velem (s : State) (c : Nat) (r : Ring) (j : Nat) : Nat × Bool :=
  let m := s.localMem r.space (placeOf r.space c)
  let a := r.elemAddr r.c j
  (m.read a r.size, m.poison a)

/-- The value of element j of an input stream. -/
def vval (s : State) (c : Nat) (r : Ring) (j : Nat) : Num := fmtValue r.type (s.velem c r j).1

/-- A bit of a bitmap stream with the poison of its word (VCMP). -/
def vbit (s : State) (c : Nat) (r : Ring) (j : Nat) : Bool × Bool :=
  let e := s.velem c r (j / 32)
  (e.1.testBit (j % 32), e.2)

/-- Poison of the elements of a word so far: an element at a word's first byte begins afresh. -/
def wordPoison (r : Ring) (j : Nat) (acc p : Bool) : Bool := if r.elemAddr r.p j % 8 = 0 then p else acc || p

/-- Element j of an output stream written. A word keeps its poison until its last element is written; then it has that of its
elements, which the stream has begun at the word's first byte (R158, R176). -/
def putElem (s : State) (c k : Nat) (r : Ring) (j v : Nat) (p acc : Bool) : State :=
  let place := placeOf r.space c
  let a := r.elemAddr r.p j
  let s := match r.space with
    | .sp => s.touchSpan place [a / 256] (some (c, k))
    | b => s.touchCore place [unitOfBuffer b a] (some (c, k))
  let mem := (s.localMem r.space place).write a r.size v
  s.setLocalMem r.space place (mem.setPoison a (if (a + r.size) % 8 = 0 then wordPoison r j acc p else mem.poison a || p))

/-- Every element of an output computed and written in ascending order (R175): the function gives the exact value, the poison
and the flags of element j. -/
def vmap (s : State) (c k : Nat) (o : Ring) (n : Nat) (mode : RMode) (f : State → Nat → Num × Bool × Flags) : State × Flags :=
  let r := (List.range n).foldl (fun (r : State × Flags × Bool) j =>
    let x := f r.1 j
    let y := fmtRound o.type o.fsat mode x.1
    (r.1.putElem c k o j y.1 x.2.1 r.2.2, r.2.1 ||| x.2.2 ||| y.2, wordPoison o j r.2.2 x.2.1)) (s, .none, false)
  (r.1, r.2.1)

end State

/-- The scalar of VCMP and VBITS in a stream's type. -/
def vscalar (t : Fmt) (v : Word) : Num := if fmtIsInt t then Num.ofInt v.toInt else f32 (natBits 0 32 v)

/-- An elementwise value with no flags of its own. -/
def plainElem (v : Num) (p : Bool) : Num × Bool × Flags := (v, p, .none)

/-- A function of FP32 encodings applied to an element (VEXP2, VRCP, VRSQ). -/
def vfun (f : Nat → Nat × Flags) (v : Num) (p : Bool) : Num × Bool × Flags :=
  let x := toF32 .rne v
  let y := f x.1
  (f32 y.1, p, x.2 ||| y.2)

/-! ### Reductions (R78) -/

/-- A sum rounded to FP32, or a maximum, with its flags. -/
def combine (max : Bool) (mode : RMode) (a b : Num) : Num × Flags :=
  if max then (numMinMax true a b, Flags.when (a.isSig || b.isSig) .nv)
  else
    let r := toF32 mode (a.add mode b)
    (f32 r.1, r.2)

/-- One level of the tree: neighbours combined, an only child passed through. -/
def pairUp (max : Bool) (mode : RMode) : List Num → List Num × Flags
  | a :: b :: r =>
    let x := combine max mode a b
    let y := pairUp max mode r
    (x.1 :: y.1, x.2 ||| y.2)
  | l => (l, .none)

/-- Levels of the tree over a chunk. -/
def treeUp (max : Bool) (mode : RMode) : Nat → List Num → List Num × Flags
  | 0, l => (l, .none)
  | n + 1, l =>
    let x := pairUp max mode l
    let y := treeUp max mode n x.1
    (y.1, x.2 ||| y.2)

/-- The total over chunks of 32 in stream order, at most n of them. -/
def reduceChunks (max : Bool) (mode : RMode) : Nat → Option Num → List Num → Option Num × Flags
  | 0, t, _ => (t, .none)
  | n + 1, t, l =>
    if l.isEmpty then (t, .none)
    else
      let x := treeUp max mode 5 (l.take 32)
      let h := x.1.headD .zero
      let y : Num × Flags := match t with
        | none => (h, .none)
        | some v => combine max mode v h
      let z := reduceChunks max mode n (some y.1) (l.drop 32)
      (z.1, x.2 ||| y.2 ||| z.2)

/-- ReduceSum and ReduceMax (R78) as an FP32 encoding with the flags. -/
def reduce (max : Bool) (mode : RMode) (l : List Num) : Nat × Flags :=
  let r := reduceChunks max mode (l.length / 32 + 1) none l
  match r.1 with
  | none => (if max then 0xFF800000 else 0, .none)
  | some v =>
    let x := toF32 .rne v
    (x.1, r.2 ||| x.2)

namespace State

/-! ### Tables of VGATH and VSCAT -/

/-- A table element's address, or s.tval of RANGE. -/
def tableAddr (job : VecJob) (sp : Space) (size idx : Nat) (t : Fmt) : Except Word Nat :=
  let ad : Int := job.a.v.toNat + signedNat (8 * fmtBytes t) idx * size
  if ad < 0 || ad + size > spaceSize sp then .error (BitVec.ofInt 64 ad) else .ok ad.toNat

/-- VGATH from element j on, n elements; it ends early with s.tval of RANGE. -/
def gatherFrom (c : Nat) (job : VecJob) (o x : Ring) (sp : Space) : Nat → Nat → Bool → State → State × Option Word
  | 0, _, _, s => (s, none)
  | n + 1, j, acc, s =>
    let i := s.velem c x j
    match tableAddr job sp o.size i.1 x.type with
    | .error v => (s, some v)
    | .ok ad =>
      let m := s.localMem sp (placeOf sp c)
      let p := m.poison ad || i.2
      gatherFrom c job o x sp n (j + 1) (wordPoison o j acc p) (s.putElem c job.ctx o j (m.read ad o.size) p acc)

/-- VSCAT from element j on, n elements. -/
def scatterFrom (c : Nat) (job : VecJob) (add : Bool) (v x : Ring) (sp : Space) (mode : RMode) :
    Nat → Nat → State → Flags → State × Flags × Option Word
  | 0, _, s, f => (s, f, none)
  | n + 1, j, s, f =>
    let i := s.velem c x j
    let e := s.velem c v j
    match tableAddr job sp v.size i.1 x.type with
    | .error w => (s, f, some w)
    | .ok ad =>
      let m := s.localMem sp (placeOf sp c)
      let y : Nat × Flags := if add then
        fmtRound v.type v.fsat mode ((fmtValue v.type (m.read ad v.size)).add mode (fmtValue v.type e.1)) else (e.1, .none)
      scatterFrom c job add v x sp mode n (j + 1)
        (s.storeAccess c job.ctx sp (placeOf sp c) ad v.size y.1 (e.2 || i.2)) (f ||| y.2)

/-! ### What each instruction does -/

/-- VCMP: the bitmap is written, and the count of set bits is the result. -/
def compareInto (s : State) (c : Nat) (job : VecJob) (cond : FCond) (o a : Ring) (b : Option Ring) : State × Flags × Nat :=
  let r := (List.range (bitmapLen job.n)).foldl (fun (r : State × Flags × Nat × Bool) e =>
    let js := (List.range 32).filter (fun i => decide (32 * e + i < job.n))
    let one (i : Nat) : Bool × Flags × Bool :=
      let j := 32 * e + i
      let y : Num × Bool := match b with
        | some b => (r.1.vval c b j, (r.1.velem c b j).2)
        | none => (vscalar a.type job.a.v, job.a.p)
      let z := fpCond cond (r.1.vval c a j) y.1
      (z.1, z.2, (r.1.velem c a j).2 || y.2)
    let v := js.foldl (fun v i => if (one i).1 then v + 2 ^ i else v) 0
    let p := js.any (fun i => (one i).2.2)
    (r.1.putElem c job.ctx o e v p r.2.2.2, js.foldl (fun f i => f ||| (one i).2.1) r.2.1, r.2.2.1 + js.countP (fun i => (one i).1),
     wordPoison o e r.2.2.2 p)) (s, .none, 0, false)
  (r.1, r.2.1, r.2.2.1)

/-- The effect of a vector instruction on the streams and tables, its result for D if it has one, its flags, and s.tval of
RANGE where it ends early. A zero that VIOTA's integer sum A + j * B gives is +0 in a float output in every mode: R7's arithmetic is exact and
has no sign of zero, while step 5 of R68 could be read to give -0 for terms of opposite sign under RDN (DESIGN CHOICE, log 24). -/
def runVector (s : State) (c : Nat) (job : VecJob) : State × Option (Reg × Val) × Flags × Option Word :=
  let k := job.ctx
  let mode := roundingOf (s.thread c k).rmode (vrounding job.ins)
  let ring (h : BitVec 4) : Ring := job.rings.get Ring.unbound h.toNat
  let scal := job.a.p || job.b.p
  let two (ho ha hb : BitVec 4) (f : Num → Num → Num) : State × Option (Reg × Val) × Flags × Option Word :=
    let r := s.vmap c k (ring ho) job.n mode (fun s j =>
      plainElem (f (s.vval c (ring ha) j) (s.vval c (ring hb) j)) ((s.velem c (ring ha) j).2 || (s.velem c (ring hb) j).2))
    (r.1, none, r.2, none)
  let one (ho ha : BitVec 4) (f : Num → Bool → Num × Bool × Flags) : State × Option (Reg × Val) × Flags × Option Word :=
    let r := s.vmap c k (ring ho) job.n mode (fun s j => f (s.vval c (ring ha) j) ((s.velem c (ring ha) j).2 || scal))
    (r.1, none, r.2, none)
  let values (ha : BitVec 4) : List Num := (List.range job.n).map (s.vval c (ring ha))
  let anyPsn (ha : BitVec 4) : Bool := (List.range job.n).any (fun j => (s.velem c (ring ha) j).2)
  match job.ins with
  | .vadd ho ha hb _ _ _ => two ho ha hb (fun x y => x.add mode y)
  | .vsub ho ha hb _ _ _ => two ho ha hb (fun x y => x.add mode y.negate)
  | .vmul ho ha hb _ _ _ => two ho ha hb Num.mul
  | .vmax ho ha hb _ _ _ => two ho ha hb (numMinMax true)
  | .vmin ho ha hb _ _ _ => two ho ha hb (numMinMax false)
  | .vfma ho ha hb hc _ _ _ =>
    let r := s.vmap c k (ring ho) job.n mode (fun s j =>
      plainElem (((s.vval c (ring ha) j).mul (s.vval c (ring hb) j)).add mode (s.vval c (ring hc) j))
        ((s.velem c (ring ha) j).2 || (s.velem c (ring hb) j).2 || (s.velem c (ring hc) j).2))
    (r.1, none, r.2, none)
  | .vexp2 ho ha _ _ _ => one ho ha (vfun fpExp2)
  | .vrcp ho ha _ _ _ => one ho ha (vfun fpRcp)
  | .vrsq ho ha _ _ _ => one ho ha (vfun fpRsq)
  | .vcvt ho ha _ _ _ => one ho ha plainElem
  | .vscale ho ha _ _ _ => one ho ha (fun x p => plainElem (x.scale (Max.max (-400) (Min.min job.b.v.toInt 400))) p)
  | .vredsum d ha _ _ _ =>
    let r := reduce false mode (values ha)
    (s, some (d, ⟨BitVec.ofNat 64 r.1, anyPsn ha⟩), r.2, none)
  | .vredmax d ha _ _ =>
    let r := reduce true mode (values ha)
    (s, some (d, ⟨BitVec.ofNat 64 r.1, anyPsn ha⟩), r.2, none)
  | .vcmp d cond ho ha hb a _ _ =>
    let r := s.compareInto c job cond (ring ho) (ring ha) (if a = 0 then some (ring hb) else none)
    (r.1, some (d, ⟨BitVec.ofNat 64 r.2.2, false⟩), r.2.1, none)
  | .vsel ho ha hb hc _ _ _ =>
    let r := s.vmap c k (ring ho) job.n mode (fun s j =>
      let b := s.vbit c (ring hc) j
      let x := if b.1 then ring ha else ring hb
      plainElem (s.vval c x j) ((s.velem c x j).2 || b.2))
    (r.1, none, r.2, none)
  | .vbits op ho ha hb _ _ _ _ =>
    let y := vscalar (ring ha).type job.a.v
    let r := s.vmap c k (ring ho) job.n mode (fun s j =>
      let x := s.vval c (ring ha) j
      let b := s.vbit c (ring hb) j
      let v := if b.1 then
        (match op with
          | .set => y
          | .add => x.add mode y
          | .mul => x.mul y
          | .max => numMinMax true x y
          | .min => numMinMax false x y) else x
      plainElem v ((s.velem c (ring ha) j).2 || b.2 || scal))
    (r.1, none, r.2, none)
  | .vgath ho ha _ sp _ _ =>
    let r := gatherFrom c job (ring ho) (ring ha) (if sp then .sp else .ab) job.n 0 false s
    (r.1, none, .none, r.2)
  | .vscat add ha hb _ sp _ _ _ =>
    let r := scatterFrom c job add (ring ha) (ring hb) (if sp then .sp else .ab) mode job.n 0 s .none
    (r.1, none, r.2.1, r.2.2)
  | .vfillc isInt ho _ _ _ _ =>
    let v := if isInt then Num.ofInt job.a.v.toInt else f32 (natBits 0 32 job.a.v)
    let r := s.vmap c k (ring ho) job.n mode (fun _ _ => plainElem v scal)
    (r.1, none, r.2, none)
  | .viota ho _ _ _ _ =>
    let r := s.vmap c k (ring ho) job.n mode (fun _ j => plainElem (Num.ofInt (job.a.v.toInt + j * job.b.v.toInt)) scal)
    (r.1, none, r.2, none)
  | _ => (s, none, .none, none)

/-- The instruction at the head of the engine has run (R174): its flags, its result, and its retirement or its trap. -/
def finishVector (s : State) (c : Nat) (job : VecJob) : State :=
  let r := s.runVector c job
  let s := r.1.modThread c job.ctx (fun t => t.addFlags r.2.2.1)
  match r.2.2.2 with
  | some v => s.raiseTrapAt c job.ctx Cause.range v
  | none => (match r.2.1 with
    | some (d, v) => s.setRegAt c job.ctx d v
    | none => s).retireAt c job.ctx

/-- The instruction at the head of the engine completes (R174), once its thread's earlier accesses to what it writes have been
performed (R263). -/
def completeVector (s : State) (c : Nat) : State :=
  match (s.coreAt c).vec with
  | [] => s
  | job :: rest => if s.vectorMeets c job then s else (s.modCore c (fun x => { x with vec := rest })).finishVector c job

/-- RADV and RREL (R172, R173): checks, the release, then the pointer moves and ring waits are tested. -/
def moveRing (s : State) (h : BitVec 4) (n : BitVec 16) (b : Reg) (producer : Bool) : State :=
  let r := s.ringAt h.toNat
  let k := n.toNat + (s.reg b).v.toNat
  if (s.reg b).p then s.raisePoison
  else if r.desc = 0 then s.raiseTrap Cause.ringConfig (zext h)
  else if k > (if producer then r.slots - r.filled else r.filled) then s.raiseTrap Cause.range (BitVec.ofNat 64 k)
  else s.afterAccesses .core (fun s =>
    (s.setRing h.toNat (if producer then { r with p := r.p + BitVec.ofNat 32 k } else { r with c := r.c + BitVec.ofNat 32 k })).retire.startWaiters s.core)

end State

/-! ## Instructions and events -/

/-- RING (R169). -/
def execRing (h : BitVec 4) (a : Reg) (s : State) : Out :=
  .next (
    let x := s.reg a
    if x.p then s.raisePoison
    else if decide (x.v ≠ 0) && !(Ring.mk x.v 0 0).valid then s.raiseTrap Cause.ringConfig x.v
    else if s.ringBusy h.toNat then s.stall .ring
    else (s.setRing h.toNat ⟨x.v, 0, 0⟩).retire.startWaiters s.core)

/-- RADV (R172). -/
def execRadv (h : BitVec 4) (n : BitVec 16) (b : Reg) (s : State) : Out := .next (s.moveRing h n b true)

/-- RREL (R172). -/
def execRrel (h : BitVec 4) (n : BitVec 16) (b : Reg) (s : State) : Out := .next (s.moveRing h n b false)

/-- RSTAT. -/
def execRstat (d : Reg) (h : BitVec 4) (desc : Bool) (s : State) : Out :=
  .next (let r := s.ringAt h.toNat; s.finish d ⟨if desc then r.desc else r.c ++ r.p, false⟩)

/-- VADD (R175). -/
def execVadd (ho ha hb : BitVec 4) (n : BitVec 16) (b : Reg) (rm : Rnd) (s : State) : Out :=
  .next (s.vector (.vadd ho ha hb n b rm))

/-- VSUB. -/
def execVsub (ho ha hb : BitVec 4) (n : BitVec 16) (b : Reg) (rm : Rnd) (s : State) : Out :=
  .next (s.vector (.vsub ho ha hb n b rm))

/-- VMUL. -/
def execVmul (ho ha hb : BitVec 4) (n : BitVec 16) (b : Reg) (rm : Rnd) (s : State) : Out :=
  .next (s.vector (.vmul ho ha hb n b rm))

/-- VFMA. -/
def execVfma (ho ha hb hc : BitVec 4) (n : BitVec 16) (b : Reg) (rm : Rnd) (s : State) : Out :=
  .next (s.vector (.vfma ho ha hb hc n b rm))

/-- VMAX. -/
def execVmax (ho ha hb : BitVec 4) (n : BitVec 16) (b : Reg) (rm : Rnd) (s : State) : Out :=
  .next (s.vector (.vmax ho ha hb n b rm))

/-- VMIN. -/
def execVmin (ho ha hb : BitVec 4) (n : BitVec 16) (b : Reg) (rm : Rnd) (s : State) : Out :=
  .next (s.vector (.vmin ho ha hb n b rm))

/-- VEXP2. -/
def execVexp2 (ho ha : BitVec 4) (n : BitVec 16) (b : Reg) (rm : Rnd) (s : State) : Out :=
  .next (s.vector (.vexp2 ho ha n b rm))

/-- VRCP. -/
def execVrcp (ho ha : BitVec 4) (n : BitVec 16) (b : Reg) (rm : Rnd) (s : State) : Out :=
  .next (s.vector (.vrcp ho ha n b rm))

/-- VRSQ. -/
def execVrsq (ho ha : BitVec 4) (n : BitVec 16) (b : Reg) (rm : Rnd) (s : State) : Out :=
  .next (s.vector (.vrsq ho ha n b rm))

/-- VCVT. -/
def execVcvt (ho ha : BitVec 4) (n : BitVec 16) (b : Reg) (rm : Rnd) (s : State) : Out :=
  .next (s.vector (.vcvt ho ha n b rm))

/-- VSCALE. -/
def execVscale (ho ha : BitVec 4) (n : BitVec 16) (b : Reg) (rm : Rnd) (s : State) : Out :=
  .next (s.vector (.vscale ho ha n b rm))

/-- VREDSUM. -/
def execVredsum (d : Reg) (ha : BitVec 4) (n : BitVec 16) (b : Reg) (rm : Rnd) (s : State) : Out :=
  .next (s.vector (.vredsum d ha n b rm))

/-- VREDMAX. -/
def execVredmax (d : Reg) (ha : BitVec 4) (n : BitVec 16) (b : Reg) (s : State) : Out :=
  .next (s.vector (.vredmax d ha n b))

/-- VCMP. -/
def execVcmp (d : Reg) (cond : FCond) (ho ha hb : BitVec 4) (a : Reg) (n : BitVec 16) (b : Reg) (s : State) : Out :=
  .next (s.vector (.vcmp d cond ho ha hb a n b))

/-- VSEL. -/
def execVsel (ho ha hb hc : BitVec 4) (n : BitVec 16) (b : Reg) (rm : Rnd) (s : State) : Out :=
  .next (s.vector (.vsel ho ha hb hc n b rm))

/-- VBITS. -/
def execVbits (op : BitOp) (ho ha hb : BitVec 4) (a : Reg) (n : BitVec 16) (b : Reg) (rm : Rnd) (s : State) : Out :=
  .next (s.vector (.vbits op ho ha hb a n b rm))

/-- VGATH. -/
def execVgath (ho ha : BitVec 4) (a : Reg) (sp : Bool) (n : BitVec 16) (b : Reg) (s : State) : Out :=
  .next (s.vector (.vgath ho ha a sp n b))

/-- VSCAT. -/
def execVscat (add : Bool) (ha hb : BitVec 4) (a : Reg) (sp : Bool) (n : BitVec 16) (b : Reg) (rm : Rnd) (s : State) : Out :=
  .next (s.vector (.vscat add ha hb a sp n b rm))

/-- VFILLC. -/
def execVfillc (isInt : Bool) (ho : BitVec 4) (a : Reg) (n : BitVec 16) (b : Reg) (rm : Rnd) (s : State) : Out :=
  .next (s.vector (.vfillc isInt ho a n b rm))

/-- VIOTA. -/
def execViota (ho : BitVec 4) (a b : Reg) (n : BitVec 16) (rm : Rnd) (s : State) : Out :=
  .next (s.vector (.viota ho a b n rm))

/-- RING_WAIT_START (R171, R174): a parked instruction whose streams all meet their need starts, the lowest s.tid of its core first. A
move of a pointer starts those that it meets itself; this event starts one that a halt of its gang had held back. -/
def execRingWaitStart (core ctx : Nat) (s : State) : Out :=
  .next (if s.nextWaiter core = some ctx then s.startWaiter core ctx else s)

/-- VECTOR_COMPLETE (R174). -/
def execVectorComplete (core : Nat) (s : State) : Out := .next (s.completeVector core)

end Sys2Proof.Machine
end

