-- ==== Sys2Proof/Machine/Waits.lean ====
section
/-! DEFINITION. Waits that end without their condition (R155, R173, R182, R209, R231, R234, R240, R353, R302), counters and
the records that wait for them, posts, the sibling group's state word, and failures of a host queue. -/

set_option linter.constructorNameAsVariable false

namespace Sys2Proof.Machine

/-- A status in D[39:32] (R240). -/
def statusWord (st : Nat) : Word := BitVec.ofNat 64 (st * 2 ^ 32)

/-- The destination of a kick (R206). -/
def kickDest : Instr → Option Reg
  | .xcopy d _ _ _ => some d
  | .xconv d _ _ _ => some d
  | .xscript d _ _ _ => some d
  | .xsela d _ _ _ _ _ => some d
  | .xremPut d _ _ _ => some d
  | .xremAddmx d _ _ _ => some d
  | _ => none

namespace Group

/-- The siblings of a group. -/
def sibs (g : Group) : List Nat := List.range g.n

/-- Highest count of any hash (R362). -/
def top (g : Group) : Nat :=
  if g.stat = .decided then g.votes.countP (fun e => e.2 = g.winner)
  else (g.votes.map (fun e => g.votes.countP (fun x => x.2 = e.2))).foldl max 0

/-- The state word of R362 as it concerns a sibling. -/
def word (g : Group) (sib : Nat) (counted : Bool) (st : Nat) : Word :=
  let state : Nat := match g.stat with
    | .free => 0
    | .opened => 1
    | .decided => 2
    | .nodecision => 3
  BitVec.ofNat 64 (state + (if g.closed then 4 else 0) + (if counted then 8 else 0) + (if bit sib g.kept then 16 else 0)
    + (if bit sib g.cxl then 32 else 0) + popcount g.voted * 2 ^ 8 + g.top * 2 ^ 16 + (g.n - 1) * 2 ^ 22 + st * 2 ^ 32)

end Group

namespace State

/-- The group slot of a gang, as its index in the map of slots (R347). -/
def groupIndex (g : Gang) : Option Nat := g.group.map (fun slot => 64 * g.tenant + slot)

/-- A group slot. -/
def groupAt (s : State) (i : Nat) : Group := s.groups.get Group.free i

/-- The state with a group slot changed. -/
def modGroup (s : State) (i : Nat) (f : Group → Group) : State := { s with groups := s.groups.put i (f (s.groupAt i)) }

/-- A named barrier of a span. -/
def barAt (s : State) (span n : Nat) : Bar := (s.spanAt span).bars.get ⟨0, 0, 0, 0⟩ n

/-- A mutex of a span. -/
def mutexAt (s : State) (span n : Nat) : Mutex := (s.spanAt span).mutexes.get Mutex.free n

/-- An event line of a span. -/
def lineAt (s : State) (span n : Nat) : Half := (s.spanAt span).lines.get 0 n

/-- A context's matrix instructions that have not begun are taken out of the sequence (R182). -/
def withdrawPartner (s : State) (c k : Nat) : State :=
  s.modCore c (fun x => { x with mx := x.mx.without (fun j => decide (j.ctx = k) &&
    (j.op.isBrot true || j.op.isBrot false || j.op.isMma2)) })

/-- The superstep number that a context reads (R101). -/
def stepOf (s : State) (c k : Nat) : Nat := ((s.gangOf (s.thread c k)).map (·.step)).getD 0

/-- A wait of a context ends with a status other than OK and changes no object, except that its place in a queue is given up. A
CWAIT's D receives the status in [39:32] and a free value elsewhere (R234, log 11). -/
def endWait (s : State) (c k : Nat) (st : Nat) : State :=
  let t := s.thread c k
  let span := spanOf c
  match t.wait with
  | .none => s
  | .mailbox d _ _ => s.finishAt c k d (BitVec.ofNat 64 (st * 2 ^ 16))
  | .counter d _ _ _ => s.freeValue.2.finishAt c k d (putBits s.freeValue.1 32 8 st)
  | .bar d n _ _ => s.finishAt c k d (zext (s.barAt span n).p ||| statusWord st)
  | .line d n _ _ => s.finishAt c k d (zext (s.lineAt span n) ||| statusWord st)
  | .mutex d n =>
    ((s.touchSpan span [unitOfEvents] (some (c, k))).modSpan span (fun x =>
      let m := x.mutexes.get Mutex.free n
      { x with mutexes := x.mutexes.put n { m with queue := m.queue.filter (· ≠ (c, k)) } })).finishAt c k d (statusWord st)
  | .collective d _ => s.finishAt c k d (BitVec.ofNat 64 (s.stepOf c k % 2 ^ 32) ||| statusWord st)
  | .ballot d counted =>
    match s.gangOf t with
    | some g => match groupIndex g with
      | some i => s.finishAt c k d ((s.groupAt i).word g.sib counted st)
      | none => s.finishAt c k d (statusWord st)
    | none => s.finishAt c k d (statusWord st)
  | .ring => s.retireAt c k
  | .take d a => (s.setRegAt c k d Val.zero |>.retireAt c k).leaveSlot c k a
  | .fill a _ => (s.retireAt c k).leaveSlot c k a
  | .draw => s
  | .drain _ _ => s
  | .stall .version =>
    match t.held with
    | some (.mma2 d _ _ _ _) => s.finishAt c k d (BitVec.ofNat 64 st)
    | _ => s.retireAt c k
  | .stall .partner =>
    match t.held with
    | some (.mma2 d _ _ _ _) => (s.withdrawPartner c k).finishAt c k d (BitVec.ofNat 64 st)
    | _ => (s.withdrawPartner c k).retireAt c k
  | .stall .mailroom =>
    match t.held.bind kickDest with
    | some d => s.finishAt c k d (statusWord st)
    | none => s.retireAt c k
  | .stall _ => s

/-- The waits that a cancel or an abort ends: every parked wait but a draw, the waits of R182 in ISSUED that no accepted instruction will
release, and that of R209 (R353, R302). -/
def endsByStatus (s : State) (c k : Nat) : Bool :=
  let t := s.thread c k
  match t.stat, t.wait with
  | .parked, .draw => false
  | .parked, _ => true
  | .issued, .stall .version => s.stuck c k
  | .issued, .stall .partner => s.stuck c k
  | .issued, .stall .mailroom => true
  | _, _ => false

/-- A cancel or an abort reaches some contexts at one position (R353, R302). -/
def statusReaches (s : State) (l : List (Nat × Nat)) (st : Nat) : State :=
  (l.filter (fun x => s.endsByStatus x.1 x.2)).foldl (fun s x => s.endWait x.1 x.2 st) s

/-- The status that a wait of a context ends with at once: 7 in an aborting gang, 6 after a cancel (R302, R353). -/
def pendingStatus (s : State) (c k : Nat) : Option Nat :=
  if s.aborting c k then some 7 else if s.cancelled c k then some 6 else none

/-- The running thread parks; a wait that a cancel or an abort has already reached ends at once. -/
def waitOn (s : State) (w : Wait) : State :=
  match s.pendingStatus s.core s.ctx with
  | some st => (s.park w).endWait s.core s.ctx st
  | none => s.park w

/-! ## Counters (R233, R234) -/

/-- A counter of a core. -/
def counterAt (s : State) (c idx : Nat) : Half := (s.coreAt c).counters.get 0 idx

/-! ### Records that wait for a counter (R277, R280) -/

/-- A record's wait condition has passed its test, or holds (R277, R280). -/
def waitMet (s : State) (r : FRec) : Bool :=
  let w := r.words.getD 5 0
  r.passed || !bit 22 w || decide (((s.coreAt (natBits 0 14 w)).counters.get 0 (natBits 14 8 w) - bits 32 32 w).toInt ≥ 0)

/-- The head of a host queue: a record that a list has submitted stands in the list's place, and nothing else of the queue comes
before the list's end (R279). -/
def hostHead (s : State) (q : Nat) : Option FRec :=
  let mine := s.pool.filter (fun r => decide (r.q.map (·.1) = some q))
  match mine.find? (fun r => r.list.isSome) with
  | some r => some r
  | none => if s.walkers.any (fun w => decide (w.q = q)) then none else mine.head?

/-- A gang whose device queue is not saved with it (R286). -/
def queueOpen (g : Gang) : Bool :=
  match g.stat with
  | .swapping | .swapped | .restoring => false
  | .starting | .running | .halting | .draining | .aborting | .retired => true

/-- The records that can be considered: the first of each queue, if its wait condition holds (R280). -/
def heads (s : State) : List FRec :=
  let hosts := (List.range 64).filterMap s.hostHead
  let devs := s.gangs.filterMap (fun e => if queueOpen e.2 then s.pool.find? (fun r => decide (r.dev = some e.1)) else none)
  let moved := (List.range 16).filterMap (fun t => s.pool.find? (fun r => r.q.isNone && r.dev.isNone && decide (r.tenant = t)))
  (hosts ++ devs ++ moved).filter s.waitMet

/-- Counters are about to change: a record that can be considered and waits for one of them has passed its test, whatever the counter
does afterwards (R280). -/
def latchWaits (s : State) (p : Nat → Nat → Bool) : State :=
  let hs := s.heads
  let waits (r : FRec) : Bool := let w := r.words.getD 5 0; bit 22 w && p (natBits 0 14 w) (natBits 14 8 w)
  { s with pool := s.pool.map (fun r => if waits r && hs.any (fun x => decide (x.seq = r.seq)) then { r with passed := true } else r) }

/-- A counter written; the change is journalled (R322). -/
def setCounterAt (s : State) (c idx : Nat) (v : Half) (by_ : Option (Nat × Nat)) : State :=
  ((s.latchWaits (fun x i => decide (x = c) && decide (i = idx))).touchCore c [unitOfCounter idx] by_).modCore c (fun x =>
    { x with counters := x.counters.set 0 idx v })

/-- A counter meets a target (R234). -/
def reached (v tg : Half) : Bool := decide ((v - tg).toInt ≥ 0)

/-- A CWAIT of a context is tested: it ends when its counter has reached the target (R234). One that subtracts meets the loads of the
counter that others have outstanding (R262 row 7). -/
def testCounter (s : State) (c k : Nat) : State :=
  match (s.thread c k).wait with
  | .counter d idx tg sub =>
    let v := s.counterAt c idx
    if reached v tg then
      let s := if sub then (s.meetWindow (.thread c k) c idx).setCounterAt c idx (v - tg) (some (c, k)) else s
      s.finishAt c k d (zext v)
    else s
  | _ => s

/-- The context whose parked CWAIT on a counter has been met, the lowest first (R234). -/
def metWait (s : State) (c idx : Nat) : Option Nat :=
  (List.find? (fun (e : Nat × Thread) => match e.2.stat, e.2.wait with
    | .parked, .counter _ i tg _ => decide (i = idx) && reached (s.counterAt c idx) tg
    | _, _ => false) (s.coreAt c).threads).map (·.1)

/-- Parked CWAITs on a counter are tested in arbiter order, again after each that subtracts, over at most n of them (R234). -/
def retestCounterFor (c idx : Nat) : Nat → State → State
  | 0, s => s
  | n + 1, s =>
    match s.metWait c idx with
    | some k => retestCounterFor c idx n (s.testCounter c k)
    | none => s

/-- Parked CWAITs on a counter are tested at an event on it (R234). -/
def retestCounter (s : State) (c idx : Nat) : State := retestCounterFor c idx 64 s

/-- A core that keeps a post from outside its gang over a rollback (R323). -/
def keepPost (x : Core) (idx : Nat) (inc : Half) : Core := { x with keptPost := x.keptPost.set 0 idx (x.keptPost.get 0 idx + inc) }

/-- A post that reaches a counter while a gang in a replayable superstep is swapped out comes from outside that gang (R295, R323). -/
def keepAway (s : State) (core idx : Nat) (inc : Half) : State :=
  { s with gangs := s.gangs.mapVals (fun _ g => match g.image with
      | some img => match img.cores.find? core with
        | some x => if g.replay then { g with image := some { img with cores := img.cores.put core (keepPost x idx inc) } } else g
        | none => g
      | none => g) }

/-- A post takes effect at its core's arbiter (R233). What comes from outside a gang in a replayable superstep is kept over its
rollback (R323). -/
def applyPost (s : State) (gang : Option Nat) (by_ : Option (Nat × Nat)) (core idx : Nat) (inc : Half) : State :=
  let v := s.counterAt core idx
  let outside := decide (gang ≠ s.holder core)
  let keep := outside && (s.replaying (spanOf core)).isSome
  let s := s.setCounterAt core idx (v + inc) (if outside then none else s.liveBy by_)
  let s := if keep then s.modCore core (keepPost · idx inc) else s
  (s.keepAway core idx inc).retestCounter core idx

/-! ## Failures of a host queue (R276) -/

/-- A host queue. -/
def queueAt (s : State) (q : Nat) : HostQueue := s.queues.get HostQueue.reset q

/-- The state with a host queue changed. -/
def modQueue (s : State) (q : Nat) (f : HostQueue → HostQueue) : State := { s with queues := s.queues.put q (f (s.queueAt q)) }

/-- A queue halts with an error code and the index of a record (R276). A failure that comes while ERR is 1 already, of a record
fetched before, overwrites CODE and EIDX: R276 does not say which failure is kept (DESIGN CHOICE, log 43). -/
def failQueue (s : State) (q idx code : Nat) : State :=
  s.modQueue q (fun x => { x with err := true, code := code, eidx := BitVec.ofNat 32 idx })

end State

end Sys2Proof.Machine
end

