-- ==== Sys2Proof/Machine/Mailbox.lean ====
section
/-! DEFINITION. Mailboxes and counters (spec/11): MSEND, MWAIT, MRECV, CPOST, CWAIT, CRDC, XDRAIN, arrivals and posts. -/

set_option linter.constructorNameAsVariable false

namespace Sys2Proof.Machine

namespace State

/-- Whether a core lies outside the running thread's gang; a supervisor thread has no gang to leave (R218, R92). -/
def outsideGang (s : State) (core : Nat) : Bool :=
  match s.gangOf s.me with
  | some g => !g.holdsSpan (spanOf core)
  | none => false

/-- The checks of R230 that MSEND and CPOST share, on a target core. -/
def targetChecked (s : State) (a b : Reg) (bad : Bool) (core : Nat) (k : State → State) : State :=
  if (s.reg a).p || (s.reg b).p then s.raisePoison
  else if bad then s.raiseOpen Cause.range
  else if !s.inSubmesh (s.tenantOf s.me) core then s.raiseTrap Cause.tenant (BitVec.ofNat 64 core)
  else if s.inReplay && s.outsideGang core then s.raiseTrap Cause.replayStore (BitVec.ofNat 64 core)
  else s.afterAccesses .dev k

/-- Entries of a core's mailbox that are occupied or reserved (R209). -/
def mailUsed (s : State) (c : Nat) : Nat := (s.coreAt c).mail.length + (s.coreAt c).reserved

/-- A message is stored in a core's mailbox, and waiting MWAITs test again (R231). -/
def storeMail (s : State) (c : Nat) (m : Msg) (by_ : Option (Nat × Nat)) : State :=
  ((s.touchCore c unitsOfMailbox by_).modCore c (fun x => { x with mail := x.mail ++ [m] })).retestMail c

/-- A message is kept over a rollback of the gang that holds its core (R323). -/
def keepMail (s : State) (c : Nat) (m : Msg) : State :=
  if (s.replaying (spanOf c)).isSome then s.modCore c (fun x => { x with keptMail := x.keptMail ++ [m] }) else s

/-- The gang of a core refuses messages: it is halting, swapping, swapped out or being restored, and no other gang holds the
core (R307). -/
def refusesMail (s : State) (c : Nat) : Bool :=
  match (s.holder c).bind s.gangAt with
  | some g => match g.stat with
    | .halting => true
    | .swapping => true
    | .restoring => true
    | .swapped => true
    | .starting => false
    | .running => false
    | .draining => false
    | .aborting => false
    | .retired => false
  | none => s.gangs.any (fun e => (match e.2.stat with
      | .swapping => true
      | .swapped => true
      | .restoring => true
      | _ => false) && e.2.holdsSpan (spanOf c))

/-- MSEND's answer reaches the sender (R230). -/
def answerSend (s : State) (m : MsgFlight) (v : Word) : State :=
  let t := s.thread m.core m.ctx
  match t.wait, t.held with
  | .stall .answer, some (.msend d _ _ _) => s.finishAt m.core m.ctx d v
  | _, _ => s

/-- A message arrives at its target's arbiter (R230, R232, R296). -/
def arrive (s : State) (m : MsgFlight) : State :=
  if m.sup && decide (m.target = 0) then
    if s.supMail.length < 64 then (({ s with supMail := s.supMail ++ [m.msg] } : State).retestMail 0).answerSend m 0
    else s.answerSend m 1
  else if !m.sup && decide ((s.spanAt (spanOf m.target)).tenant ≠ m.tenant) then s.report (.dropped m.target)
  else if s.mailUsed m.target ≥ 64 || s.refusesMail m.target then s.answerSend m 1
  else
    let outside := decide (m.gang ≠ s.holder m.target)
    let s := if outside then s.keepMail m.target m.msg else s
    (s.storeMail m.target m.msg (if outside then none else some (m.core, m.ctx))).answerSend m 0

/-- A message filter's operand is checked (R231). -/
def filtered (s : State) (a : Reg) (k : Nat → Nat → State) : State :=
  let w := (s.reg a).v
  if (s.reg a).p then s.raisePoison
  else if bits 32 32 w ≠ 0 then s.raiseTrap Cause.range w
  else k (natBits 0 16 w) (natBits 16 16 w)

/-- The oldest message taken out of the mailbox that the running thread reads, by a test (R231, R232). -/
def removeMail (s : State) (p : Msg → Bool) : State :=
  if s.me.owner = .sup then { s with supMail := s.supMail.eraseP p }
  else (s.touchCore s.core unitsOfMailbox (some (s.core, s.ctx))).modMyCore (fun x => { x with mail := x.mail.eraseP p })

/-- The operands of CWAIT and CRDC are checked (R234), their poison before the range of A, which R234 does not order (DESIGN CHOICE, log
43); the thread's own posts to the counter and its own loads of it through the window
come first, and what others have outstanding there is met (R262 row 7). -/
def counterChecked (s : State) (a b : Reg) (k : Nat → Half → State → State) : State :=
  if (s.reg a).p || (s.reg b).p then s.raisePoison
  else if bits 8 56 (s.reg a).v ≠ 0 then s.raiseOpen Cause.range
  else if s.postPending s.core s.ctx s.core (natBits 0 8 (s.reg a).v) ||
      s.mustFollow .gl (windowAddr s.core (natBits 0 8 (s.reg a).v)) 8 then s.stall .order
  else k (natBits 0 8 (s.reg a).v) (bits 0 32 (s.reg b).v) (s.meetWindow (.thread s.core s.ctx) s.core (natBits 0 8 (s.reg a).v))

end State

/-- MSEND (R230): a release; it waits in ISSUED for the answer. -/
def execMsend (d a b : Reg) (tag : BitVec 16) (s : State) : Out :=
  let _ := d
  .next (s.targetChecked a b (decide (bits 14 50 (s.reg a).v ≠ 0)) (natBits 0 14 (s.reg a).v) (fun s =>
    let t := s.me
    let m : MsgFlight :=
      { core := s.core, ctx := s.ctx, sup := decide (t.owner = .sup), gang := t.gang?, tenant := s.tenantOf t,
        target := natBits 0 14 (s.reg a).v, msg := ⟨(s.reg b).v, msgHeader tag 0 0 0 false (s.core + s.ctx * 2 ^ 14)⟩ }
    ({ s with msgs := s.msgs ++ [m] } : State).stall .answer))

/-- MWAIT (R231). -/
def execMwait (d a : Reg) (s : State) : Out :=
  .next (s.filtered a (fun tag mask =>
    match (s.mailFor s.core s.ctx).find? (fun m => m.matches tag mask) with
    | some m => s.finish d ⟨m.header, false⟩
    | none => s.waitOn (.mailbox d tag mask)))

/-- MRECV (R231): the payload, then the header; V = 0 when nothing matches. -/
def execMrecv (d e a : Reg) (s : State) : Out :=
  .next (s.filtered a (fun tag mask =>
    match (s.mailFor s.core s.ctx).find? (fun m => m.matches tag mask) with
    | some m => (((s.removeMail (fun m => m.matches tag mask)).setD d ⟨m.payload, m.pz⟩).setD e ⟨m.header, false⟩).retire
    | none => ((s.setD d Val.zero).setD e Val.zero).retire))

/-- CPOST (R233): a release; it retires when the post is sent. -/
def execCpost (a b : Reg) (imm : BitVec 16) (s : State) : Out :=
  .next (s.targetChecked a b (decide (bits 22 42 (s.reg a).v ≠ 0)) (natBits 0 14 (s.reg a).v) (fun s =>
    (s.sendPost (s.tenantOf s.me) s.me.gang? (some (s.core, s.ctx)) (natBits 0 22 (s.reg a).v)
      (bits 0 32 (s.reg b).v + imm.setWidth 32)).retire))

/-- CWAIT.keep and CWAIT.sub (R234). -/
def execCwait (d a b : Reg) (sub : Bool) (s : State) : Out :=
  .next (s.counterChecked a b (fun idx tg s =>
    if State.reached (s.counterAt s.core idx) tg then
      ((s.park (.counter d idx tg sub)).testCounter s.core s.ctx).retestCounter s.core idx
    else s.waitOn (.counter d idx tg sub)))

/-- CRDC (R234): the change is an event on the counter, at which parked CWAITs test again. -/
def execCrdc (d a b : Reg) (s : State) : Out :=
  .next (s.counterChecked a b (fun idx v s =>
    ((s.setCounterAt s.core idx v (some (s.core, s.ctx))).finish d ⟨zext (s.counterAt s.core idx), false⟩).retestCounter s.core idx))

/-- XDRAIN (R235). -/
def execXdrain (d : Reg) (s : State) : Out :=
  .next (
    let n := s.me.kicks.length
    if n = 0 then s.finish d Val.zero else s.modMe (fun t => { t with stat := .issued, wait := .drain d n }))

/-- MAILBOX_ARRIVAL (R230): the k-th message under way arrives. -/
def execMailboxArrival (k : Nat) (s : State) : Out :=
  .next (match s.msgs[k]? with
    | some m => ({ s with msgs := s.msgs.take k ++ s.msgs.drop (k + 1) } : State).arrive m
    | none => s)

/-- A post under way can be performed: the earlier ones of the same launch or list, each a release, have been (R265, R284, R288). -/
def State.postReady (s : State) (k : Nat) (p : PostFlight) : Bool :=
  p.rec_.isNone || (s.posts.take k).all (fun x => decide (x.rec_ ≠ p.rec_))

/-- COUNTER_POST (R233, R296): a post under way, or one of a CXL agent with the tenant of its mapping, reaches its core's arbiter,
or is dropped before a span of another tenant. -/
def execCounterPost (src : PostSrc) (s : State) : Out :=
  .next (match src with
    | .underWay k => match s.posts[k]? with
      | some p =>
        if !s.postReady k p then s
        else
        let s : State := { s with posts := s.posts.take k ++ s.posts.drop (k + 1) }
        if p.tenant.isSome && decide ((s.spanAt (spanOf p.core)).tenant ≠ p.tenant) then s.report (.dropped p.core)
        else s.applyPost p.gang p.by_ p.core p.idx p.inc
      | none => s
    | .outside tenant core idx inc =>
      if core < 16384 ∧ idx < 256 then
        if (s.spanAt (spanOf core)).tenant ≠ some tenant then s.report (.dropped core) else s.applyPost none none core idx inc
      else s)

end Sys2Proof.Machine
end

