-- ==== Sys2Proof/Machine/Request.lean ====
section
/-! DEFINITION. Request blocks of the pier streamer (spec/11): address words, formats, the checks of R208 on a block, and the
streamer's reads and writes of memory. -/

set_option linter.constructorNameAsVariable false

namespace Sys2Proof.Machine

/-! ## Address words (R207) -/

/-- A place that an address word names. -/
structure Loc where
  space : Space
  place : Nat
  addr  : Nat
deriving DecidableEq, Repr

/-- The place that an address word names; none where it is invalid (R207). -/
def locOf (w : Word) : Option Loc :=
  if bits 51 13 w ≠ 0 then none
  else match natBits 48 3 w with
    | 0 => some ⟨.gl, 0, natBits 0 48 w⟩
    | 1 => if bits 29 19 w = 0 then some ⟨.sp, natBits 21 8 w, natBits 0 21 w⟩ else none
    | 2 => if bits 35 13 w = 0 then some ⟨.wb, natBits 21 14 w, natBits 0 21 w⟩ else none
    | 3 => if bits 35 13 w = 0 then some ⟨.ab, natBits 21 14 w, natBits 0 21 w⟩ else none
    | 4 => if bits 35 13 w = 0 then some ⟨.cb, natBits 21 14 w, natBits 0 21 w⟩ else none
    | _ => none

/-- The code of a space in an address word. -/
def spaceCode : Space → Nat
  | .gl => 0
  | .sp => 1
  | .wb => 2
  | .ab => 3
  | .cb => 4
  | .cx => 5

/-- The address word of an address in the place of a location; none where it has no representation. -/
def Loc.wordAt (l : Loc) (a : Int) : Option Word :=
  if a < 0 ∨ a ≥ (if l.space = .gl then 2 ^ 48 else 2 ^ 21 : Nat) then none
  else if l.space = .gl then some (BitVec.ofNat 64 a.toNat)
  else some (BitVec.ofNat 64 (spaceCode l.space * 2 ^ 48 + l.place * 2 ^ 21 + a.toNat))

/-- A core in the span that a local location names. -/
def Loc.core (l : Loc) : Nat := if l.space = .sp then coreOfSpan l.place 0 else l.place

/-- The span of a local location. -/
def Loc.span (l : Loc) : Nat := if l.space = .sp then l.place else spanOf l.place

/-! ## Formats (R220) -/

/-- The formats of XCONV and XSCRIPT. -/
inductive SFmt where
  | scalar (t : Fmt)
  | raw
  | bfp (m : Nat)
  | mx (e5m2 : Bool)
deriving DecidableEq, Repr

namespace SFmt

/-- The format of a code. -/
def ofCode (c : Nat) : SFmt :=
  match Fmt.ofBits (BitVec.ofNat 4 c) with
  | some t => .scalar t
  | none => if c = 6 then .mx false else if c = 7 then .mx true else if c = 8 then .raw else .bfp (c % 16 - 7)

/-- A format that comes in images of blocks. -/
def isBlock : SFmt → Bool
  | .scalar _ => false
  | .raw => false
  | .bfp _ => true
  | .mx _ => true

/-- Bytes of an element that stands alone. -/
def bytes : SFmt → Nat
  | .scalar t => fmtBytes t
  | .raw => 8
  | .bfp _ => 1
  | .mx _ => 1

/-- Bytes of a block in the first plane of an image. -/
def blockBytes : SFmt → Nat
  | .bfp m => 4 * m
  | .mx _ => 32
  | .scalar _ => 0
  | .raw => 0

/-- The alignment of SRC or DST. -/
def align (f : SFmt) : Nat := if f.isBlock then 256 else f.bytes

/-- Bytes of n elements. -/
def size (f : SFmt) (n : Nat) : Nat := if f.isBlock then imageSize f.blockBytes (n / 32) else n * f.bytes

/-- Bytes of n elements as a range that can be computed from a block (R208): an image whose n is no multiple of 32 has none
(DEDUCED, log 43). -/
def range (f : SFmt) (n : Nat) : Nat := if f.isBlock && decide (n % 32 ≠ 0) then 0 else f.size n

end SFmt

/-! ## Fields of a block (R208 check 4) -/

/-- An address word whose space is among some, aligned, with its address (R145, R207) and n bytes inside its space. -/
def addrOk (w : Word) (spaces : List Nat) (n align : Nat) : Bool :=
  match locOf w with
  | none => false
  | some l => spaces.contains (spaceCode l.space) && decide (l.addr % align = 0) &&
      (decide (l.space = .gl) || decide (l.addr + max n 1 ≤ spaceSize l.space))

/-- Two ranges in one space and place that share a byte (R220). -/
def rangesMeet (a b : Word) (na nb : Nat) : Bool :=
  match locOf a, locOf b with
  | some x, some y => decide (x.space = y.space) && decide (x.place = y.place) && decide (x.addr < y.addr + nb) &&
      decide (y.addr < x.addr + na)
  | _, _ => false

/-- A word of a block. -/
def blkWord (b : List Word) (i : Nat) : Word := b.getD i 0

/-- LEN of a copy: a multiple of 8, at least 8 (R219). -/
def lenOk (w : Word) : Bool := decide (bits 32 32 w = 0) && decide (natBits 0 32 w % 8 = 0) && decide (natBits 0 32 w ≥ 8)

/-- Word 3 of XCONV and XSCRIPT (R219, R220). -/
def convOk (w : Word) (blocks : Bool) : Bool :=
  let sf := SFmt.ofCode (natBits 0 4 w)
  let df := SFmt.ofCode (natBits 4 4 w)
  let r := natBits 8 3 w
  decide (bits 12 52 w = 0) && (decide (r = 0) || decide (r ≥ 4)) && (decide (sf = .raw) == decide (df = .raw)) &&
    (!bit 11 w || decide (df = .scalar .e4m3) || decide (df = .scalar .e5m2)) && (blocks || (!sf.isBlock && !df.isBlock))

/-- Whether each word of a request block is valid, with ranges that overlap counted against word 1 (R208, R219, R220, R222,
R225, R229). A range that passes its space, or meets another, is counted from the LEN, count or bucket count of its word whether or not
that word is valid, for s.tval names the first bad word.

The manual leaves open, and the model chooses (DESIGN CHOICE, log 43): XREM's SRC is a multiple of 8, as LEN is, for R229 names no
alignment; .addmx asks no more of SRC, nor of the remote address, though the images of R66 and R67 begin at a multiple of 256; and
SRC + 4n past CBUF, which R225 states with word 2, is counted against word 0 (SRC), whose range it is. -/
def fieldsOk (kind : ReqKind) (b : List Word) : List Bool :=
  let w := blkWord b
  let zero (i : Nat) : Bool := decide (w i = 0)
  match kind with
  | .copy =>
    let n := natBits 0 32 (w 2)
    let src := addrOk (w 0) [0, 1, 2, 3, 4] n 8
    let dst := addrOk (w 1) [0, 1, 2, 3] n 8
    [src, dst && !(src && rangesMeet (w 0) (w 1) n n), lenOk (w 2), zero 3, zero 4, zero 5, zero 6, zero 7]
  | .conv =>
    let sf := SFmt.ofCode (natBits 0 4 (w 3))
    let df := SFmt.ofCode (natBits 4 4 (w 3))
    let n := natBits 0 32 (w 2)
    let ok3 := convOk (w 3) true
    let ok2 := decide (bits 32 32 (w 2) = 0) && decide (n ≥ 1) && (decide (n % 32 = 0) || !(sf.isBlock || df.isBlock))
    let ns := sf.range n
    let nd := df.range n
    let src := addrOk (w 0) [0, 1, 2, 3, 4] ns sf.align
    let dst := addrOk (w 1) [0, 1, 2, 3] nd df.align
    [src, dst && !(src && rangesMeet (w 0) (w 1) ns nd), ok2, ok3, zero 4, zero 5, zero 6, zero 7]
  | .script =>
    let sf := SFmt.ofCode (natBits 0 4 (w 3))
    let df := SFmt.ofCode (natBits 4 4 (w 3))
    let ok3 := convOk (w 3) false
    let ok2 := decide (bits 6 58 (w 2) = 0) && decide (1 ≤ natBits 0 6 (w 2)) && decide (natBits 0 6 (w 2) ≤ 32)
    [addrOk (w 0) [0, 1, 2, 3, 4] 0 sf.align, addrOk (w 1) [0, 1, 2, 3] 0 df.align,
      ok2, ok3, addrOk (w 4) [0, 1, 2, 3] (8 * natBits 0 6 (w 2)) 8,
      zero 5 || addrOk (w 5) [0, 1, 2, 3, 4] 0 4, decide (bits 32 32 (w 6) = 0), zero 7]
  | .sela _ =>
    let n := natBits 0 15 (w 2)
    let bk := natBits 0 9 (w 3)
    let ok2 := decide (bits 15 17 (w 2) = 0) && decide (1 ≤ n) && decide (n ≤ 16384)
    let ok3 := decide (bits 9 7 (w 3) = 0) && decide (bits 32 32 (w 3) = 0) && decide (1 ≤ bk) && decide (bk ≤ 256)
    [addrOk (w 0) [4] (4 * n) 4, addrOk (w 1) [0, 1, 3] (16 + 8 * bk) 8, ok2, ok3,
      zero 4, zero 5, zero 6, zero 7]
  | .remPut =>
    [addrOk (w 0) [0, 1, 2, 3, 4] (natBits 0 32 (w 2)) 8, decide (bits 48 16 (w 1) = 0), lenOk (w 2),
      decide (bits 30 34 (w 3) = 0) && (!bit 28 (w 3) || decide (bits 0 16 (w 3) = 0)), zero 4, zero 5, zero 6, zero 7]
  | .remAddmx =>
    [addrOk (w 0) [0, 1, 2, 3, 4] (natBits 0 32 (w 2)) 8, decide (bits 48 16 (w 1) = 0), lenOk (w 2),
      decide (bits 31 33 (w 3) = 0) && (!bit 28 (w 3) || decide (bits 0 16 (w 3) = 0)), zero 4, zero 5, zero 6, zero 7]

/-- The number of the first word that is not valid (R208). -/
def firstBad (l : List Bool) : Option Nat := (List.range l.length).find? (fun i => !l.getD i true)

/-- The words of a block that name places (R207). -/
def placeWords : ReqKind → List Nat
  | .script => [0, 1, 4, 5]
  | .remPut => [0]
  | .remAddmx => [0]
  | .copy => [0, 1]
  | .conv => [0, 1]
  | .sela _ => [0, 1]

namespace State

/-- The first address word of a block that names a place outside a tenant's sub-mesh (R208 check 5). -/
def placeOutside (s : State) (tenant : Option Nat) (kind : ReqKind) (b : List Word) : Option Word :=
  ((placeWords kind).map (blkWord b)).find? (fun w => match locOf w with
    | some l => decide (l.space ≠ .gl) && !s.inSubmesh tenant l.core
    | none => false)

/-- Checks 2 of R208 on the running thread's block: the words and whether one is poisoned, or a trap with s.tval. -/
def readBlock (s : State) (sp : Space) (ad : Word) : Except (BitVec 8) (List Word × Bool × State) :=
  if ad.toNat % 64 ≠ 0 then .error Cause.misaligned
  else if sp = .gl then
    match s.checkGlobal .load ad.toNat with
    | .error c => .error c
    | .ok (pa, s) => .ok ((List.range 8).map (fun i => s.physWord (pa + 8 * i)),
        (List.range 8).any (fun i => s.physPoison (pa + 8 * i)), s)
  else
    match s.checkLocal sp ad.toNat 64 with
    | some c => .error c
    | none =>
      let m := s.localMem sp (placeOf sp s.core)
      .ok ((List.range 8).map (fun i => BitVec.ofNat 64 (m.read (ad.toNat + 8 * i) 8)), m.anyPoison ad.toNat 64, s)

/-! ## Reads and writes of a request -/

/-- Local lines changed by an engine for a context (R322). -/
def touchLocal (s : State) (sp : Space) (place a n : Nat) (by_ : Option (Nat × Nat)) : State :=
  match sp with
  | .sp => s.touchSpan place ((List.range ((a + n + 255) / 256 - a / 256)).map (fun i => a / 256 + i)) by_
  | .gl => s
  | .cx => s
  | .wb => s.touchRange place .wb a n by_
  | .ab => s.touchRange place .ab a n by_
  | .cb => s.touchRange place .cb a n by_

end State

/-- A request in execution: the device's state so far, the bytes written, the flags, the poison of what was written, words
that it has written in part, with the bytes written as a mask and their poison, and how it failed. -/
structure Run where
  s     : State
  span  : Nat
  tenant : Option Nat
  by_   : Option (Nat × Nat)
  bytes : Nat
  fl    : Flags
  pz    : Bool
  cov   : List ((Space × Nat × Nat) × Nat × Bool)
  /-- status and the failing address word, none where it has no representation -/
  fail  : Option (Nat × Option Word)

namespace Run

/-- The request fails, unless it has failed already. -/
def failWith (r : Run) (st : Nat) (w : Option Word) : Run := if r.fail.isSome then r else { r with fail := some (st, w) }

/-- An address lies in the space of a location (R224). -/
def within (l : Loc) (a : Int) (n : Nat) : Bool := decide (0 ≤ a) && decide (a + n ≤ (spaceSize l.space : Nat))

/-- Status of a translation that faults (R336). -/
def statusOf (c : BitVec 8) : Nat := if c = Cause.pageFault then 2 else 1

/-- The physical pieces of a global range that crosses at most one page boundary, as (address, length). -/
def translateRange (r : Run) (l : Loc) (a n : Nat) (rt : Rights) : Run × List (Nat × Nat) :=
  match r.s.spanTranslate r.span r.tenant a rt with
  | .error c => (r.failWith (statusOf c) (l.wordAt a), [])
  | .ok (pa, s) =>
    let r := { r with s := s }
    let room := 2 ^ 16 - a % 2 ^ 16
    if n ≤ room then (r, [(pa, n)])
    else match r.s.spanTranslate r.span r.tenant (a + room) rt with
      | .error c => (r.failWith (statusOf c) (l.wordAt (a + room : Nat)), [])
      | .ok (pb, s) => ({ r with s := s }, [(pa, room), (pb, n - room)])

/-- A read of n bytes: the number they hold and the poison of the words that hold them. A counter outside the tenant's sub-mesh
is not read (R161). -/
def rd (r : Run) (l : Loc) (a : Int) (n : Nat) : Run × Nat × Bool :=
  if r.fail.isSome then (r, 0, false)
  else if !within l a n then (r.failWith 3 (l.wordAt a), 0, false)
  else if l.space = .gl then
    let x := r.translateRange l a.toNat n .read
    if x.2.any (fun p => inCwin p.1 && !r.s.inSubmesh r.tenant ((p.1 - Config.cwinBase) / 2048)) then
      (x.1.failWith 1 (l.wordAt a), 0, false)
    else
      let v := x.2.foldr (fun p acc => x.1.s.physRead p.1 p.2 + 2 ^ (8 * p.2) * acc) 0
      (x.1, v, x.2.any (fun p => !inCwin p.1 && x.1.s.mem.anyPoison p.1 p.2))
  else
    let m := r.s.localMem l.space l.place
    (r, m.read a.toNat n, m.anyPoison a.toNat n)

/-- The poison of a word after bytes of it are written (R217, R318): a word written whole by the request takes the poison of
what fed it; one written in part keeps an earlier poison as well. -/
def coverWord (r : Run) (sp : Space) (place : Nat) (m : Memory) (w lo k : Nat) (p : Bool) : Run × Memory :=
  let key := (sp, place, w)
  let old : Nat × Bool := ((r.cov.find? (fun e => e.1 = key)).map (·.2)).getD (0, false)
  let mask := old.1 ||| ((2 ^ k - 1) * 2 ^ lo)
  let q := p || old.2
  if k = 8 then (r, m.setPoison (8 * w) p)
  else
    let r := { r with cov := (key, mask, q) :: r.cov.filter (fun e => e.1 ≠ key) }
    (r, m.setPoison (8 * w) (if mask = 255 then q else q || m.poison (8 * w)))

/-- The poison of every word that holds some of n bytes. -/
def coverRange (r : Run) (sp : Space) (place : Nat) (m : Memory) (a n : Nat) (p : Bool) : Run × Memory :=
  (List.range ((a + n + 7) / 8 - a / 8)).foldl (fun x i =>
    let w := a / 8 + i
    let lo := max a (8 * w) - 8 * w
    x.1.coverWord sp place x.2 w lo (min (a + n) (8 * w + 8) - 8 * w - lo) p) (r, m)

/-- A write of n bytes with poison (R217, R322), which takes every line it touches from its owners (R159): poisoned data bound for global
memory ends the request with POISON, also where the address is not translated or may not be written: R217 does not rank POISON against
PAGE_FAULT and ACCESS (DESIGN CHOICE, log 27). -/
def wr (r : Run) (l : Loc) (a : Int) (n v : Nat) (p : Bool) : Run :=
  if r.fail.isSome then r
  else if !within l a n then r.failWith 3 (l.wordAt a)
  else if l.space = .gl then
    if p then r.failWith 4 (l.wordAt a)
    else
      let x := r.translateRange l a.toNat n .write
      if x.1.fail.isSome then x.1
      else if x.2.any (fun y => inCwin y.1) then x.1.failWith 1 (l.wordAt a)
      else
        let y := x.2.foldl (fun (z : Run × Nat) q =>
          let s := z.1.s.takeRange none q.1 q.2
          let c := ({ z.1 with s := s } : Run).coverRange .gl 0 (s.mem.write q.1 q.2 (z.2 % 2 ^ (8 * q.2))) q.1 q.2 false
          ({ c.1 with s := { c.1.s with mem := c.2 } }, z.2 / 2 ^ (8 * q.2))) (x.1, v)
        { y.1 with bytes := y.1.bytes + n }
  else
    let s := r.s.touchLocal l.space l.place a.toNat n r.by_
    let m := (s.localMem l.space l.place).write a.toNat n v
    let c := ({ r with s := s } : Run).coverRange l.space l.place m a.toNat n p
    { c.1 with s := c.1.s.setLocalMem l.space l.place c.2, bytes := c.1.bytes + n, pz := c.1.pz || p }

/-- A step done for i, i + 1, … as often as told, until the request fails. -/
def loop (f : Nat → Run → Run) : Nat → Nat → Run → Run
  | 0, _, r => r
  | n + 1, i, r => if r.fail.isSome then r else loop f n (i + 1) (f i r)

/-- Flags joined to the request's. -/
def addFlags (r : Run) (f : Flags) : Run := { r with fl := r.fl ||| f }

end Run

end Sys2Proof.Machine
end

