-- ==== Sys2Proof/Machine/Streamer.lean ====
section
/-! DEFINITION. The pier streamer (spec/11): kicks, the copies, conversions, scripts and selections that requests perform, and
completions. -/

set_option linter.constructorNameAsVariable false

namespace Sys2Proof.Machine

/-! ## Elements (R217, R220, R221) -/

namespace Run

/-- Source element j of n: its value, its raw bits, and the poison of the words that feed it. -/
def element (r : Run) (l : Loc) (f : SFmt) (n j : Nat) : Run × Num × Nat × Bool :=
  match f with
  | .scalar t =>
    let x := r.rd l (l.addr + j * fmtBytes t : Nat) (fmtBytes t)
    (x.1, fmtValue t x.2.1, x.2.1, x.2.2)
  | .raw =>
    let x := r.rd l (l.addr + 8 * j : Nat) 8
    (x.1, .zero, x.2.1, x.2.2)
  | .bfp m =>
    let base := l.addr + 4 * m * (j / 32)
    let lo := m * (j % 32) / 8
    let hi := (m * (j % 32) + m - 1) / 8
    let e := r.rd l (l.addr + planeSize (4 * m) (n / 32) + j / 32 : Nat) 1
    let x := e.1.rd l (base + lo : Nat) (hi - lo + 1)
    (x.1, bfpElem m e.2.1 (signedNat m (x.2.1 / 2 ^ (m * (j % 32) - 8 * lo))), 0, e.2.2 || x.2.2)
  | .mx e5 =>
    let e := r.rd l (l.addr + planeSize 32 (n / 32) + j / 32 : Nat) 1
    let x := e.1.rd l (l.addr + j : Nat) 1
    (x.1, mxElem e5 e.2.1 x.2.1, 0, e.2.2 || x.2.2)

/-- A value converted and written as an element that stands alone (R73). Its flags join the request's even where its own write fails, as
a block's do in putBlock: R221 says only that FLAGS are the OR over all elements (DESIGN CHOICE, log 43). -/
def put (r : Run) (l : Loc) (a : Int) (f : SFmt) (mode : RMode) (sat : Bool) (v : Num) (raw : Nat) (p : Bool) : Run :=
  if r.fail.isSome then r
  else match f with
    | .scalar t =>
      let x := fmtRound t sat mode v
      (r.wr l a (fmtBytes t) x.1 p).addFlags x.2
    | _ => r.wr l a 8 raw p

/-- Source elements from j on, k of them: their values and whether one is poisoned. -/
def gatherElems (l : Loc) (f : SFmt) (n : Nat) : Nat → Nat → Run → Run × List Num × Bool
  | 0, _, r => (r, [], false)
  | k + 1, j, r =>
    let x := r.element l f n j
    let y := gatherElems l f n k (j + 1) x.1
    (y.1, x.2.1 :: y.2.1, x.2.2.2 || y.2.2)

/-- Destination block b of an image of n elements (R74, R75, R217). Its elements are written before its exponent or scale byte, so where that
byte's own write fails they stand written: R213 does not say whether a failing block is written in part (DESIGN CHOICE, log 27). -/
def putBlock (r : Run) (l : Loc) (f : SFmt) (n b : Nat) (xs : List Num) (p : Bool) : Run :=
  let p0 := l.addr + f.blockBytes * b
  let p1 := l.addr + planeSize f.blockBytes (n / 32) + b
  if r.fail.isSome then r
  else match f with
    | .bfp m =>
      let x := toBfp m xs
      ((r.wr l p0 (4 * m) (packMants m x.2.1) p).wr l p1 1 x.1 p).addFlags x.2.2
    | .mx e5 =>
      let x := toMx e5 xs
      ((r.wr l p0 32 (ofBytes (x.2.1.map (BitVec.ofNat 8))) p).wr l p1 1 x.1 p).addFlags x.2.2
    | _ => r

/-- The bytes of an image that pad its planes, written as zero (R66). -/
def pad (r : Run) (l : Loc) (f : SFmt) (n : Nat) : Run :=
  let used := f.blockBytes * (n / 32)
  let plane := planeSize f.blockBytes (n / 32)
  let r := loop (fun i r => r.wr l (l.addr + used + i : Nat) 1 0 false) (plane - used) 0 r
  loop (fun i r => r.wr l (l.addr + plane + n / 32 + i : Nat) 1 0 false) (up256 (n / 32) - n / 32) 0 r

/-! ## XCOPY and XCONV (R221) -/

/-- A copy of 8-byte words in ascending order. -/
def copy (r : Run) (src dst : Loc) (words : Nat) : Run :=
  loop (fun i r =>
    let x := r.rd src (src.addr + 8 * i : Nat) 8
    x.1.wr dst (dst.addr + 8 * i : Nat) 8 x.2.1 x.2.2) words 0 r

/-- The mode of a conversion: elements of blocks become FP32 under RNE, whatever the mode (R73). -/
def convMode (sf df : SFmt) (mode : RMode) : RMode := if sf.isBlock && decide (df = .scalar .f32) then .rne else mode

/-- A conversion of n elements, element by element or block by block. -/
def conv (r : Run) (src dst : Loc) (sf df : SFmt) (mode : RMode) (sat : Bool) (n : Nat) : Run :=
  if df.isBlock then
    (loop (fun b r =>
      let x := gatherElems src sf n 32 (32 * b) r
      x.1.putBlock dst df n b x.2.1 x.2.2) (n / 32) 0 r).pad dst df n
  else
    loop (fun j r =>
      let x := r.element src sf n j
      x.1.put dst (dst.addr + df.bytes * j : Nat) df (convMode sf df mode) sat x.2.1 x.2.2.1 x.2.2.2) n 0 r

end Run

/-! ## XSCRIPT (R222 to R224) -/

/-- OP of a step (R223). -/
def stepOp (w : Word) : Nat := natBits 0 4 w

/-- The body length of a LOOP step, else 0. -/
def loopLen (w : Word) : Nat := if stepOp w = 1 then natBits 20 5 w else 0

/-- A step of a script is valid at its place (R222, R223); a GROW needs an index list. -/
def stepOk (steps : List Word) (i : Nat) (hasIndex : Bool) : Bool :=
  let w := steps.getD i 0
  let around := (List.range i).countP (fun j => decide (loopLen (steps.getD j 0) ≠ 0) && decide (i ≤ j + loopLen (steps.getD j 0)))
  match stepOp w with
  | 1 => decide (bits 25 39 w = 0) && decide (bits 4 16 w ≠ 0) && decide (natBits 20 5 w ≠ 0) &&
      decide (i + natBits 20 5 w < steps.length) && decide (around < 4)
  | 2 => decide (bits 4 4 w = 0) && decide (bits 56 8 w = 0)
  | 3 => decide (bits 44 20 w = 0) && decide (bits 4 16 w ≠ 0)
  | 4 => decide (bits 40 24 w = 0) && decide (1 ≤ natBits 4 6 w) && decide (natBits 4 6 w ≤ 32) && decide (1 ≤ natBits 10 6 w) &&
      decide (natBits 10 6 w ≤ 32)
  | 5 => decide (bits 44 20 w = 0) && decide (bits 4 16 w ≠ 0) && hasIndex
  | _ => false

/-- A script in execution: the request, the cursors s and d, the index counter x and the moves made (R224). -/
structure Cursor where
  r : Run
  s : Int
  d : Int
  x : Nat
  moves : Nat

/-- What a script moves: its places, formats and rounding. -/
structure Script where
  src : Loc
  dst : Loc
  index : Option Loc
  sf  : SFmt
  df  : SFmt
  mode : RMode
  sat : Bool
  kmax : Nat
  steps : List Word

namespace Cursor

/-- Move(o) (R224). A move too many names the place where it would have written: R224 says only the failing address (DESIGN CHOICE, log 27). -/
def move (c : Cursor) (k : Script) (o : Int) : Cursor :=
  if c.r.fail.isSome then c
  else if c.moves ≥ 2 ^ 32 - 1 then { c with r := c.r.failWith 3 (k.dst.wordAt (k.dst.addr + c.d)) }
  else
    let x := c.r.rd k.src (k.src.addr + o) k.sf.bytes
    let v : Num := match k.sf with
      | .scalar t => fmtValue t x.2.1
      | _ => .zero
    { c with r := x.1.put k.dst (k.dst.addr + c.d) k.df k.mode k.sat v x.2.1 x.2.2, d := c.d + k.df.bytes, moves := c.moves + 1 }

/-- A step done for i, i + 1, … as often as told, until the request fails. -/
def loop (f : Nat → Cursor → Cursor) : Nat → Nat → Cursor → Cursor
  | 0, _, c => c
  | n + 1, i, c => if c.r.fail.isSome then c else loop f n (i + 1) (f i c)

/-- A step that is no LOOP (R224). An index out of range names the index entry's address (DESIGN CHOICE, log 27). -/
def step (c : Cursor) (k : Script) (w : Word) : Cursor :=
  match stepOp w with
  | 2 => { c with s := c.s + (bits 8 24 w).toInt, d := c.d + (bits 32 24 w).toInt }
  | 3 => loop (fun e c => c.move k (c.s + e * (bits 20 24 w).toInt)) (natBits 4 16 w) 0 c
  | 4 => loop (fun j c => loop (fun e c => c.move k (c.s + e * natBits 16 24 w + j * k.sf.bytes)) (natBits 4 6 w) 0 c)
      (natBits 10 6 w) 0 c
  | 5 =>
    match k.index with
    | none => c
    | some l =>
      let a : Int := l.addr + 4 * c.x
      let y := c.r.rd l a 4
      let v := signedNat 32 y.2.1
      let r := if y.2.2 then y.1.failWith 4 (l.wordAt a)
        else if v < 0 || v ≥ k.kmax then y.1.failWith 3 (l.wordAt a) else y.1
      loop (fun e c => c.move k (c.s + v * natBits 20 24 w + e * k.sf.bytes)) (natBits 4 16 w) 0 { c with r := r, x := c.x + 1 }
  | _ => c

/-- Run(first, cnt) (R224); every call goes to a later step, so a fuel of the number of steps is enough. -/
def run (k : Script) : (fuel first cnt : Nat) → Cursor → Cursor
  | 0, _, _, c => c
  | fuel + 1, first, cnt, c =>
    if cnt = 0 || c.r.fail.isSome then c
    else
      let w := k.steps.getD first 0
      if stepOp w = 1 then
        let body := natBits 20 5 w
        run k fuel (first + 1 + body) (cnt - 1 - body) (loop (fun _ c => run k fuel (first + 1) body c) (natBits 4 16 w) 0 c)
      else run k fuel (first + 1) (cnt - 1) (c.step k w)

end Cursor

namespace Run

/-- The steps of a script, read whole; a poisoned one ends the request (R222). -/
def readSteps (l : Loc) : Nat → Nat → Run → Run × List Word
  | 0, _, r => (r, [])
  | n + 1, i, r =>
    let x := r.rd l (l.addr + 8 * i : Nat) 8
    let r := if x.2.2 then x.1.failWith 4 (l.wordAt (l.addr + 8 * i : Nat)) else x.1
    let y := readSteps l n (i + 1) r
    (y.1, BitVec.ofNat 64 x.2.1 :: y.2)

/-- XSCRIPT: the script is read and checked, then run (R222, R224). A bad step names the script word's address (DESIGN CHOICE, log 27). -/
def script (r : Run) (l : Loc) (count : Nat) (k : Script) : Run :=
  let x := readSteps l count 0 r
  if x.1.fail.isSome then x.1
  else match (List.range count).find? (fun i => !stepOk x.2 i k.index.isSome) with
    | some i => x.1.failWith 3 (l.wordAt (l.addr + 8 * i : Nat))
    | none => (Cursor.run { k with steps := x.2 } (count + 1) 0 count ⟨x.1, 0, 0, 0, 0⟩).r

/-! ## XSELA (R225 to R228) -/

end Run

/-- The result area of XSELA (R226) with the poison of each word. -/
structure Sela where
  m   : Nat
  s   : Nat
  cnt : Nat
  w   : List (Nat × Nat)
  psn : List Bool
  fl  : Flags

/-- One element of XSELA (R227). -/
def selaStep (sc ibase b : Nat) (a : Sela) (j x : Nat) : Sela :=
  let z := fpMul .rne x sc
  let a := { a with fl := a.fl ||| z.2 }
  let v := f32 z.1
  if v.isNan then { a with fl := a.fl ||| .nv }
  else if z.1 = 0xFF800000 then a
  else
    let infIn := decide (z.1 = 0x7F800000)
    let z := if infIn then 0x7F7FFFFF else z.1
    let a := if infIn then { a with fl := a.fl ||| .of } else a
    let a : Sela :=
      if (f32 a.m).lt (f32 z) then
        let d := fpSub .rne a.m z
        let e := fpExp2 d.1
        let s := fpFma .rne a.s e.1 0x3F800000
        { a with m := z, s := s.1, fl := a.fl ||| d.2 ||| e.2 ||| s.2 }
      else
        let d := fpSub .rne z a.m
        let e := fpExp2 d.1
        let s := fpAdd .rne a.s e.1
        { a with s := s.1, fl := a.fl ||| d.2 ||| e.2 ||| s.2 }
    let t := (ibase + j) % 2 ^ 32
    let old := a.w.getD (t % b) (0xFF800000, 0xFFFFFFFF)
    { a with cnt := (a.cnt + 1) % 2 ^ 32, w := if (f32 old.1).lt (f32 z) then a.w.set (t % b) (z, t) else a.w }

namespace Run

/-- The result area of a .cont request, read when it starts (R227). -/
def readArea (l : Loc) : Nat → Nat → Run → Run × List (Nat × Bool)
  | 0, _, r => (r, [])
  | n + 1, i, r =>
    let x := r.rd l (l.addr + 8 * i : Nat) 8
    let y := readArea l n (i + 1) x.1
    (y.1, x.2 :: y.2)

/-- Elements j, j + 1, … of XSELA, n of them, until the request fails; a poisoned word is used and remembered. -/
def selaLoop (src : Loc) (sc ibase b : Nat) : Nat → Nat → Run × Sela × Bool → Run × Sela × Bool
  | 0, _, x => x
  | n + 1, j, x =>
    if x.1.fail.isSome then x
    else
      let y := x.1.rd src (src.addr + 4 * j : Nat) 4
      selaLoop src sc ibase b n (j + 1) (y.1, selaStep sc ibase b x.2.1 j y.2.1, x.2.2 || y.2.2)

/-- XSELA: the request afterwards and its payload (R227, R228). -/
def sela (r : Run) (src area : Loc) (init : Bool) (n ibase b sc : Nat) : Run × Word :=
  let start := if init then (r, []) else readArea area (b + 2) 0 r
  let word (i : Nat) : Nat := (start.2.getD i (0, false)).1
  let a : Sela :=
    { m := if init then 0xFF800000 else word 0 % 2 ^ 32, s := if init then 0 else word 0 / 2 ^ 32,
      cnt := if init then 0 else word 1 % 2 ^ 32,
      w := (List.range b).map (fun i => if init then (0xFF800000, 0xFFFFFFFF) else (word (i + 2) % 2 ^ 32, word (i + 2) / 2 ^ 32)),
      psn := (List.range (b + 2)).map (fun i => (start.2.getD i (0, false)).2), fl := .none }
  let x := selaLoop src sc ibase b n 0 (start.1, a, false)
  let a := x.2.1
  let words : List Nat := (a.m + a.s * 2 ^ 32) :: a.cnt :: a.w.map (fun e => e.1 + e.2 * 2 ^ 32)
  let r : Run := { x.1 with pz := x.1.pz || x.2.2 || a.psn.any id }
  let r := loop (fun i r => r.wr area (area.addr + 8 * i : Nat) 8 (words.getD i 0) (x.2.2 || a.psn.getD i false)) (b + 2) 0 r
  (r.addFlags a.fl, BitVec.ofNat 64 (a.m + a.s * 2 ^ 32))

end Run

/-! ## Requests -/

/-- How a request ended: its status, its payload, none for a failing address without a representation, its flags as R211 places
them, and the poison of its results. -/
structure Ended where
  status  : Nat
  payload : Option Word
  flags   : BitVec 6
  pz      : Bool
deriving DecidableEq, Repr

/-- FLAGS of a completion (R211): NV, OF, UF, NX, SAT, SHORT. -/
def mailFlags (f : Flags) (short : Bool) : BitVec 6 :=
  BitVec.ofNat 6 ((if bit 0 f then 1 else 0) + (if bit 2 f then 2 else 0) + (if bit 3 f then 4 else 0) + (if bit 4 f then 8 else 0) +
    (if bit 5 f then 16 else 0) + (if short then 32 else 0))

/-- The rounding of a request: that of word 3, or the RM captured at the kick (R219). -/
def Req.mode (q : Req) : RMode :=
  let w := blkWord q.blk 3
  if bits 8 3 w = 0 then RMode.ofBits q.rm else RMode.ofBits (bits 8 2 w)

/-- The end of a run that copies, converts or rearranges (R212). -/
def Run.ended (r : Run) : Ended :=
  match r.fail with
  | some (st, w) => ⟨st, w, mailFlags r.fl false, r.pz⟩
  | none => ⟨0, some (BitVec.ofNat 64 r.bytes), mailFlags r.fl false, r.pz⟩

namespace State

/-- The thread that issued a request, while its context still holds it: the kick has not posted yet, so it is among the kicks that the
thread waits for (R235, R324). A host copy has none (R279). -/
def issuedBy (s : State) (q : Req) : Option (Nat × Nat) :=
  if q.host.isNone && decide ((s.thread q.core q.ctx).gang? = q.gang) && (s.thread q.core q.ctx).kicks.contains q.ticket then
    s.liveBy (some (q.core, q.ctx))
  else none

/-- A local request runs whole on the streamer of a span (R213, log 6). -/
def runRequest (s : State) (span : Nat) (q : Req) : State × Ended :=
  let w := blkWord q.blk
  let r : Run := { s := s, span := span, tenant := q.tenant, by_ := s.issuedBy q, bytes := 0, fl := .none, pz := false, cov := [], fail := none }
  match locOf (w 0), locOf (w 1) with
  | some src, some dst =>
    let sf := SFmt.ofCode (natBits 0 4 (w 3))
    let df := SFmt.ofCode (natBits 4 4 (w 3))
    match q.kind with
    | .copy => let r := r.copy src dst (natBits 0 32 (w 2) / 8); (r.s, r.ended)
    | .conv => let r := r.conv src dst sf df q.mode (bit 11 (w 3)) (natBits 0 32 (w 2)); (r.s, r.ended)
    | .script =>
      match locOf (w 4) with
      | some l =>
        let r := r.script l (natBits 0 6 (w 2))
          { src := src, dst := dst, index := if w 5 = 0 then none else locOf (w 5), sf := sf, df := df, mode := q.mode,
            sat := bit 11 (w 3), kmax := natBits 0 32 (w 6), steps := [] }
        (r.s, r.ended)
      | none => (s, r.ended)
    | .sela init =>
      let b := natBits 0 9 (w 3)
      let need := natBits 16 16 (w 3)
      let x := r.sela src dst init (natBits 0 15 (w 2)) (natBits 32 32 (w 2)) b q.sc.toNat
      let short := decide (need > b)
      (x.1.s, match x.1.fail with
        | some (st, a) => ⟨st, a, mailFlags x.1.fl short, x.1.pz⟩
        | none => ⟨0, some x.2, mailFlags x.1.fl short, x.1.pz⟩)
    | .remPut => (s, r.ended)
    | .remAddmx => (s, r.ended)
  | _, _ => (s, r.ended)

/-! ## Completions (R211 to R214) -/

/-- KIND of a completion (R211). -/
def kindCode : ReqKind → Nat
  | .copy => 1
  | .conv => 1
  | .script => 1
  | .sela _ => 2
  | .remPut => 3
  | .remAddmx => 3

/-- Bytes that a completion adds to BYT (R355). -/
def countedBytes (q : Req) (e : Ended) : Nat :=
  if e.status ≠ 0 then 0
  else match q.kind with
    | .sela _ => 16 + 8 * natBits 0 9 (blkWord q.blk 3)
    | _ => (e.payload.getD 0).toNat

/-- A completion at a core that a cancel has reached is counted for its sibling (R355). -/
def countBytes (s : State) (q : Req) (e : Ended) : State :=
  match q.gang.bind s.gangAt with
  | some g =>
    if (s.coreAt q.core).cancel then
      match groupIndex g with
      | some i => s.modGroup i (fun x => { x with byt := x.byt.put g.sib (min (x.byt.get 0 g.sib + countedBytes q e) (2 ^ 48 - 1)) })
      | none => s
    else s
  | none => s

/-- A kick of a context has posted: its XDRAIN ends with the last (R235). -/
def kickPosted (s : State) (c k : Nat) (ticket : Half) : State :=
  let s := s.modThread c k (fun t => { t with kicks := t.kicks.filter (· ≠ ticket) })
  match (s.thread c k).wait with
  | .drain d n => if (s.thread c k).kicks.isEmpty then s.finishAt c k d (BitVec.ofNat 64 n) else s
  | _ => s

/-- A launch that a list submitted has completed (R288 FENCE). -/
def submittedDone (s : State) (seq : Nat) : State :=
  { s with walkers := s.walkers.map (fun w => { w with subs := w.subs.filter (· ≠ seq) }) }

/-- A host copy ends: its DCT is posted on OK, and the queue fails with CODE 7 otherwise (R279). -/
def hostCopyDone (s : State) (seq status : Nat) : State :=
  match s.copies.find? (fun c => c.seq = seq) with
  | none => s
  | some c =>
    let s := { s with copies := s.copies.filter (fun x => x.seq ≠ seq) }
    let s := if status = 0 then s.postField c.tenant seq (blkWord c.words 6) 0
      else match c.q with
        | some (q, i) => s.failQueue q i 7
        | none => s
    s.submittedDone seq

/-- A request posts its completion message (R211, R214), or ends its copy record. -/
def complete (s : State) (q : Req) (e : Ended) : State :=
  match q.host with
  | some seq => s.hostCopyDone seq e.status
  | none =>
    let (w, s) : Word × State := match e.payload with
      | some w => (w, s)
      | none => s.freeValue
    let m : Msg := ⟨w, msgHeader q.tag e.status (kindCode q.kind) e.flags e.pz q.ticket.toNat⟩
    let s := s.countBytes q e
    let old := match q.gang.bind s.gangAt with
      | some g => g.replay && decide (q.step < g.step)
      | none => false
    let s := if old then s.modCore q.core (fun x => { x with keptMail := x.keptMail ++ [m] }) else s
    let who := s.issuedBy q
    let s := (s.touchCore q.core unitsOfMailbox who).modCore q.core (fun x => { x with reserved := x.reserved - 1 })
    (s.storeMail q.core m who).kickPosted q.core q.ctx q.ticket

/-! ## Kicks (R206 to R209, R218) -/

/-- The span whose streamer owns a source (R207): for a global source the home slice of the first byte; where that has no
translation, of its virtual address. -/
def ownerSpan (s : State) (tenant : Option Nat) (w : Word) : Nat :=
  match locOf w with
  | none => 0
  | some l =>
    if l.space = .gl then
      homeSlice (match tenant with
        | some t => match s.walk t l.addr with
          | some h => pageAddr h.entry (pageSize h.level) l.addr
          | none => l.addr
        | none => l.addr)
    else l.span

/-- A request joins the queue of the streamer that owns its source (R210). -/
def sendRequest (s : State) (q : Req) : State :=
  s.modSpan (s.ownerSpan q.tenant (blkWord q.blk 0)) (fun x => { x with queue := x.queue ++ [q] })

/-- The ACTIVE port of lowest number whose partner is a device (R375, R380). -/
def portTo (s : State) (dev : BitVec 16) : Option Nat :=
  (List.range 24).find? (fun p => decide ((s.ports.get Port.reset p).stat = .active) && decide ((s.ports.get Port.reset p).pdev = dev))

/-- The request's own check (R225, R375): a trap with its s.tval, where the manual gives one. TENANT names the remote address
(R314). -/
def ownCheck (s : State) (tenant : Option Nat) (kind : ReqKind) (b : List Word) : Option (BitVec 8 × Option Word) :=
  let w := blkWord b 3
  let remote (addmx : Bool) : Option (BitVec 8 × Option Word) :=
    if addmx && bit 29 w then some (Cause.range, none)
    else if bit 28 w then none
    else if bits 0 16 w = s.devnum then some (Cause.range, none)
    else match s.portTo (bits 0 16 w) with
      | none => some (Cause.fabric, some 24)
      | some p => match tenant with
        | some t => if bit t (s.ports.get Port.reset p).tmapv then none else some (Cause.tenant, some (blkWord b 1))
        | none => some (Cause.tenant, some (blkWord b 1))
  match kind with
  | .sela _ => if natBits 16 16 w > 256 then some (Cause.selShort, some (zext (bits 16 16 w))) else none
  | .remPut => remote false
  | .remAddmx => remote true
  | .copy => none
  | .conv => none
  | .script => none

/-- The destination of a request is global memory, or another device (R218). -/
def globalDst (kind : ReqKind) (b : List Word) : Bool :=
  match kind with
  | .remPut => true
  | .remAddmx => true
  | _ => match locOf (blkWord b 1) with
    | some l => decide (l.space = .gl)
    | none => false

/-- The destination of a request is a local space outside the running thread's gang (R324). -/
def foreignDst (s : State) (kind : ReqKind) (b : List Word) : Bool :=
  if globalDst kind b then false
  else match locOf (blkWord b 1) with
    | some l => s.outsideGang l.core
    | none => false

/-- The next ticket of a context's team (R209). -/
def ticketOf (s : State) (c k : Nat) : Half :=
  if (s.thread c k).owner = .sup then (s.coreAt c).supTicket else (s.coreAt c).ticket

/-- A checked kick reserves its entry, takes its ticket and is sent, or held in a replayable superstep (R209, R218). -/
def launchKick (s : State) (kind : ReqKind) (d : Reg) (sc : Half) (tag : BitVec 16) (b : List Word) : State :=
  if s.mailUsed s.core ≥ 64 then
    match s.pendingStatus s.core s.ctx with
    | some st => s.finish d ⟨statusWord st, false⟩
    | none => s.stall .mailroom
  else
    let t := s.me
    let n := s.ticketOf s.core s.ctx
    let q : Req :=
      { kind := kind, blk := b, ticket := n, tag := tag, core := s.core, ctx := s.ctx, gang := t.gang?, tenant := s.tenantOf t,
        rm := bits 0 2 t.rmode, sc := sc, host := none, step := s.stepOf s.core s.ctx }
    let s := (s.touchCore s.core unitsOfMailbox (some (s.core, s.ctx))).modMyCore (fun x =>
      if t.owner = .sup then { x with reserved := x.reserved + 1, supTicket := x.supTicket + 1 }
      else { x with reserved := x.reserved + 1, ticket := x.ticket + 1 })
    let s := s.modMe (fun t => { t with kicks := t.kicks ++ [n] })
    let s := s.finish d ⟨zext n, false⟩
    match t.gang? with
    | some h => if ((s.gangAt h).elim false (·.replay)) && globalDst kind b then s.modGang h (fun g => { g with held := g.held ++ [q] })
        else s.sendRequest q
    | none => s.sendRequest q

/-- A kick is about to read its block: what its thread and the streamer meet there of accesses that count as made is performed
first (R215, R259). -/
def meetBlock (s : State) (sp : Space) (ad : Word) : State :=
  let meet (s : State) (a : Nat) : State :=
    let block := Access.plain .store sp s.core a (0, 0) 64 0 Val.zero
    (s.reveal (.spanUnit (spanOf s.core)) block.overlaps).reveal (.thread s.core s.ctx) block.overlaps
  if sp = .gl then
    match s.checkGlobal .load ad.toNat with
    | .error _ => s
    | .ok (pa, s) => meet s pa
  else meet s ad.toNat

/-- A kick (R208), a release at .dev (R215, R259): the checks in their order, then the request. The refusal of R324 comes after check 6:
R208 does not place it (DESIGN CHOICE, log 43). -/
def kick (s : State) (kind : ReqKind) (d a : Reg) (b : Reg) (sp : BitVec 2) (tag : BitVec 16) : State :=
  let ad := (s.reg a).v
  let space : Space := match sp.toNat with
    | 0 => .gl
    | 1 => .sp
    | 2 => .wb
    | _ => .ab
  if (s.reg a).p || (s.reg b).p then s.raisePoison
  else s.afterAccesses .dev (fun s =>
    match (s.meetBlock space ad).readBlock space ad with
    | .error c => s.raiseTrap c ad
    | .ok (blk, psn, s) =>
      let tenant := s.tenantOf s.me
      if psn then s.raiseTrap Cause.poisonConsumed ad
      else match firstBad (fieldsOk kind blk) with
        | some i => s.raiseTrap Cause.range (BitVec.ofNat 64 i)
        | none => match s.placeOutside tenant kind blk with
          | some w => s.raiseTrap Cause.tenant w
          | none => match s.ownCheck tenant kind blk with
            | some (c, some v) => s.raiseTrap c v
            | some (c, none) => s.raiseOpen c
            | none =>
              if s.inReplay && s.foreignDst kind blk then s.raiseTrap Cause.replayStore (blkWord blk 1)
              else s.launchKick kind d (bits 0 32 (s.reg b).v) tag blk)

/-- A request that runs on the streamer itself completes (R214): everything it moves, moves here (log 6). -/
def completeRequest (s : State) (span k : Nat) : State :=
  let remote (q : Req) : Bool := match q.kind with
    | .remPut => true
    | .remAddmx => true
    | _ => false
  match (s.spanAt span).running[k]? with
  | none => s
  | some q =>
    if remote q then s
    else
      let s := s.modSpan span (fun x => { x with running := x.running.take k ++ x.running.drop (k + 1) })
      let r := s.runRequest span q
      r.1.complete q r.2

end State

/-! ## Instructions -/

/-- XCOPY (R219, R221). -/
def execXcopy (d a : Reg) (sp : BitVec 2) (tag : BitVec 16) (s : State) : Out := .next (s.kick .copy d a 0 sp tag)

/-- XCONV (R219, R221). -/
def execXconv (d a : Reg) (sp : BitVec 2) (tag : BitVec 16) (s : State) : Out := .next (s.kick .conv d a 0 sp tag)

/-- XSCRIPT (R222). -/
def execXscript (d a : Reg) (sp : BitVec 2) (tag : BitVec 16) (s : State) : Out := .next (s.kick .script d a 0 sp tag)

/-- XSELA.init and .cont (R225). -/
def execXsela (d a b : Reg) (init : Bool) (sp : BitVec 2) (tag : BitVec 16) (s : State) : Out :=
  .next (s.kick (.sela init) d a b sp tag)

/-- XREM.put (R229). -/
def execXremPut (d a : Reg) (sp : BitVec 2) (tag : BitVec 16) (s : State) : Out := .next (s.kick .remPut d a 0 sp tag)

/-- XREM.addmx (R229, R378). -/
def execXremAddmx (d a : Reg) (sp : BitVec 2) (tag : BitVec 16) (s : State) : Out := .next (s.kick .remAddmx d a 0 sp tag)

/-- MAILBOX_RESERVE (R209): a kick that waits for an entry tries again, in the place of its thread. -/
def execMailboxReserve (core ctx : Nat) (s : State) : Out :=
  let s' : State := { s with core := core, ctx := ctx }
  let waiting : Bool := match s'.me.stat, s'.me.wait with
    | .issued, .stall .mailroom => true
    | _, _ => false
  if waiting && s'.mayIssue s'.me then
    match s'.me.held with
    | some (.xcopy d a sp tag) => execXcopy d a sp tag s'
    | some (.xconv d a sp tag) => execXconv d a sp tag s'
    | some (.xscript d a sp tag) => execXscript d a sp tag s'
    | some (.xsela d a b init sp tag) => execXsela d a b init sp tag s'
    | some (.xremPut d a sp tag) => execXremPut d a sp tag s'
    | some (.xremAddmx d a sp tag) => execXremAddmx d a sp tag s'
    | _ => .next s
  else .next s

/-- STREAMER_COMPLETION (R214). -/
def execStreamerCompletion (span k : Nat) (s : State) : Out := .next (s.completeRequest span k)

end Sys2Proof.Machine
end

