-- ==== Sys2Proof/Machine/Event.lean ====
section
/-! DEFINITION. The event unit (spec/13): named barriers, lines, mutexes, collectives and supersteps, the stall monitor. -/

set_option linter.constructorNameAsVariable false

namespace Sys2Proof.Machine

/-- Neither FREE nor DONE (R245). -/
def Thread.live (t : Thread) : Bool := decide (t.stat ≠ .free) && decide (t.stat ≠ .done)

/-- Arrived at the gang's collective (R245). -/
def Thread.arrived (t : Thread) : Bool :=
  match t.stat, t.wait with
  | .parked, .collective _ _ => true
  | _, _ => false

/-- PRIO of a record (R277). -/
def recPrio (w : List Word) : Nat := natBits 30 3 (blkWord w 4)

/-- A fetched or submitted record. -/
def mkRecord (words : List Word) (tenant prio : Nat) : FRec :=
  { seq := 0, q := none, dev := none, list := none, words := words, tenant := tenant, prio := prio, passed := false, since := none,
    reserving := false, images := [], sent := false }

namespace State

/-- The contexts that a gang has claimed on some cores, as (core, context). -/
def threadsOn (s : State) (h : Nat) (cores : List Nat) : List (Nat × Nat) :=
  cores.flatMap (fun c => (((s.coreAt c).threads.filter (fun e => decide (e.2.owner = .gang h))).map (fun e => (c, e.1))))

/-- A change to a span's event unit is journalled (R322). -/
def touchEvents (s : State) (span : Nat) : State := s.touchSpan span [unitOfEvents] (some (s.core, s.ctx))

/-- A named barrier changed by the running thread. -/
def setBar (s : State) (span n : Nat) (b : Bar) : State :=
  (s.touchEvents span).modSpan span (fun x => { x with bars := x.bars.set ⟨0, 0, 0, 0⟩ n b })

/-- A phase has completed (R241). -/
def phaseDone (b : Bar) (p : Nat) : Bool := decide ((b.p - BitVec.ofNat 16 p).toInt ≥ 1)

/-- A line has reached a target (R243). -/
def lineReached (seq t : Half) : Bool := decide ((seq - t).toInt ≥ 0)

/-- Whether a deadline has passed: only in a cycle after it (R250). -/
def expired (s : State) : Option Nat → Bool
  | some d => decide (s.clock > d)
  | none => false

/-- A parked wait on a barrier or a line of a context is tested (R240, R250). -/
def testEvent (s : State) (c k : Nat) : State :=
  match (s.thread c k).stat, (s.thread c k).wait with
  | .parked, .bar d n p deadline =>
    let b := s.barAt (spanOf c) n
    if phaseDone b p then
      if s.expired deadline then s.endWait c k 4 else s.finishAt c k d (zext b.p)
    else s
  | .parked, .line d n t deadline =>
    let q := s.lineAt (spanOf c) n
    if lineReached q t then
      if s.expired deadline then s.endWait c k 4 else s.finishAt c k d (zext q)
    else s
  | _, _ => s

/-- Waits of a span's threads are tested, by ascending core offset, then context (R239, R240). -/
def testEvents (s : State) (span : Nat) : State :=
  (spanCores span).foldl (fun s c => (s.coreAt c).threads.foldl (fun s e => s.testEvent c e.1) s) s

/-- EVARR sequenced (R241). After an abort no phase completes (R249, R302): an arrival that would complete one changes nothing
(log 29). -/
def arriveBar (s : State) (d : Reg) (n : Nat) : State :=
  let span := spanOf s.core
  let b := s.barAt span n
  if b.count = 0 then s.raiseTrap Cause.range (BitVec.ofNat 64 n)
  else if !bit (coreOffset s.core) b.mask then s.raiseTrap Cause.access (BitVec.ofNat 64 n)
  else
    let last := decide (b.arr + 1 = b.count)
    let done := last && !s.aborting s.core s.ctx
    let b' : Bar := if done then { b with p := b.p + 1, arr := 0 } else if last then b else { b with arr := b.arr + 1 }
    let s := (s.setBar span n b').finish d ⟨zext b.p, false⟩
    if done then s.testEvents span else s

/-- EVWAIT and EVTWAIT sequenced (R252): a wait on an unconfigured barrier traps RANGE, with no stated s.tval (log 11). -/
def waitEvent (s : State) (d b : Reg) (n : Nat) (line : Bool) (deadline : Option Nat) : State :=
  let span := spanOf s.core
  let w := (s.reg b).v
  if line then
    let q := s.lineAt span n
    let t := bits 0 32 w
    if lineReached q t then s.finish d ⟨zext q, false⟩ else s.waitOn (.line d n t deadline)
  else
    let x := s.barAt span n
    let p := natBits 0 16 w
    if x.count = 0 then s.raiseOpen Cause.range
    else if phaseDone x p then s.finish d ⟨zext x.p, false⟩
    else s.waitOn (.bar d n p deadline)

/-- A mutex changed by the running thread. -/
def setMutex (s : State) (span n : Nat) (m : Mutex) : State :=
  (s.touchEvents span).modSpan span (fun x => { x with mutexes := x.mutexes.put n m })

/-- MTXLOCK sequenced (R244). -/
def lockMutex (s : State) (d : Reg) (n : Nat) : State :=
  let span := spanOf s.core
  let me := (s.core, s.ctx)
  let m := s.mutexAt span n
  match m.owner with
  | none => (s.setMutex span n { m with owner := some me, broken := false }).finish d ⟨statusWord (if m.broken then 5 else 0), false⟩
  | some o =>
    if o = me then s.raiseTrap Cause.range (BitVec.ofNat 64 n)
    else (s.setMutex span n { m with queue := m.queue ++ [me] }).waitOn (.mutex d n)

/-- MTXREL sequenced (R244). -/
def unlockMutex (s : State) (n : Nat) : State :=
  let span := spanOf s.core
  if (s.mutexAt span n).owner = some (s.core, s.ctx) then (s.passMutex span n 0 (some (s.core, s.ctx))).retire
  else s.raiseTrap Cause.access (BitVec.ofNat 64 n)

/-- EVSIG.sig sequenced (R243). -/
def signalLine (s : State) (d : Reg) (n : Nat) : State :=
  let span := spanOf s.core
  let q := s.lineAt span n + 1
  (((s.touchEvents span).modSpan span (fun x => { x with lines := x.lines.set 0 n q })).finish d ⟨zext q, false⟩).testEvents span

/-- EVSIG.cfg (R254). -/
def configureBar (s : State) (a b : Reg) (n : Nat) : State :=
  let c := (s.reg b).v
  let span := spanOf s.core
  let x := s.barAt span n
  if (s.reg a).p || (s.reg b).p then s.raisePoison
  else if c = 0 ∨ c.toNat > 4096 then s.raiseTrap Cause.range c
  else if x.arr ≠ 0 then s.raiseTrap Cause.range (BitVec.ofNat 64 n)
  else (s.setBar span n { x with mask := (s.reg a).v, count := c.toNat }).retire

/-- An arrival at the gang's collective (R245, R247): a release; it first waits for the core's matrix sequence when it seals a
replayable superstep. No collective applies to a supervisor thread (R92): it goes on with a free value (log 17). -/
def arriveCollective (s : State) (d : Reg) (want : Option Bool) : State :=
  match s.gangOf s.me with
  | none => s.freeValue.2.finish d ⟨s.freeValue.1, false⟩
  | some g => s.afterAccesses .sys (fun s =>
    if g.replay && !s.myCore.mx.seq.isEmpty then s.stall .order else s.waitOn (.collective d want))

/-! ## Collectives (R245, R246) -/

/-- The cores of a span have arrived at their gang's collective (R245): every live thread has, and at one that seals a replayable superstep
the core's matrix sequence is empty, also where the threads that filled it have ended (R191). -/
def spanArrived (s : State) (h : Nat) (g : Gang) (span : Nat) : Bool :=
  (s.threadsOn h (spanCores span)).all (fun x => !(s.thread x.1 x.2).live || (s.thread x.1 x.2).arrived) &&
    (!g.replay || (spanCores span).all (fun c => !g.cores.contains c || (s.coreAt c).mx.seq.isEmpty))

/-- A span's event unit reports once its cores have arrived (R191, R245). -/
def spanReport (s : State) (span : Nat) : State :=
  match (s.spanAt span).gang with
  | none => s
  | some h => match s.gangAt h with
    | none => s
    | some g => if s.spanArrived h g span then s.modSpan span (fun x => { x with reported := true }) else s

/-- The cores and spans of a gang as they stand. -/
def imageOf (s : State) (g : Gang) : Image :=
  { cores := s.cores.filter (fun e => g.cores.contains e.1), spans := s.spans.filter (fun e => g.spans.contains e.1), recs := [] }

/-- A record joins the pool of records that wait for admission. -/
def addRecord (s : State) (r : FRec) : State := { s with pool := s.pool ++ [{ r with seq := s.seq }], seq := s.seq + 1 }

/-- A record joins its gang's device queue, its priority capped at that of the issuing launch (R286). -/
def queueRecord (s : State) (h : Nat) (g : Gang) (w : List Word) : State :=
  let prio := ((s.launches.find? (fun l => l.id = g.launch)).map (·.prio)).getD g.prio
  let n := s.seq
  (s.addRecord { mkRecord w g.tenant (min (recPrio w) prio) with dev := some h }).modGang h (fun g =>
    { g with devq := g.devq ++ [n] })

/-- A superstep is sealed (R246 step 1, R325): the journal is emptied, held requests and records are released and held LTRIG marks
take effect. -/
def sealStep (s : State) (h : Nat) (g : Gang) : State :=
  let s := g.cores.foldl (fun s c => s.modCore c (fun x => { x with journal := [], keptMail := [], keptPost := [] })) s
  let s := g.spans.foldl (fun s n => s.modSpan n (fun x => { x with journal := [], reported := false })) s
  let s := (s.threadsOn h g.cores).foldl (fun s x => s.modThread x.1 x.2 (fun t =>
    { t with trig := t.trig || t.trigHeld, trigHeld := false })) s
  let s := g.heldRec.foldl (fun s w => s.queueRecord h g w) s
  let s := g.held.foldl (fun s q => s.sendRequest q) s
  s.modGang h (fun g => { g with held := [], heldRec := [], replays := 0, replay := false, snap := none })

/-- The mode of the superstep that opens (R246 step 3). -/
def openMode (s : State) (g : Gang) (arrivals : List (Nat × Nat)) : Bool :=
  arrivals.all (fun x => match (s.thread x.1 x.2).wait with
    | .collective _ want => want.getD g.replay
    | _ => true)

/-- A collective completes (R246), once every span has reported and every live thread of the gang has arrived. -/
def completeCollective (s : State) (h : Nat) : State :=
  match s.gangAt h with
  | none => s
  | some g =>
    let live := (s.threadsOn h g.cores).filter (fun x => (s.thread x.1 x.2).live)
    if g.stat = .running && !g.rolling && !live.isEmpty && live.all (fun x => (s.thread x.1 x.2).arrived) &&
        g.spans.all (fun n => (s.spanAt n).reported) then
      let mode := s.openMode g live
      let s := (s.sealStep h g).modGang h (fun g => { g with step := g.step + 1 })
      let v : Word := BitVec.ofNat 64 ((g.step + 1) % 2 ^ 32 + (if mode then 2 ^ 40 else 0))
      let s := live.foldl (fun s x => match (s.thread x.1 x.2).wait with
        | .collective d _ => s.finishAt x.1 x.2 d v
        | _ => s) s
      let s := s.checkTrigger g.launch
      if mode then s.modGang h (fun g => { g with replay := true, snap := some (s.imageOf g) }) else s
    else s

/-! ## The stall monitor (R248) -/

/-- Requests of a core that a streamer holds. Those held for a sealing collective (R218) are not among them: R209 speaks of requests in flight,
and R235 counts held ones as in flight for XDRAIN (DESIGN CHOICE, log 4). -/
def coreRequests (s : State) (c : Nat) : Bool :=
  s.spans.any (fun e => e.2.queue.any (fun q => q.host.isNone && decide (q.core = c)) ||
    e.2.running.any (fun q => q.host.isNone && decide (q.core = c)))

/-- Requests of a gang that a streamer holds (R210). -/
def gangRequests (s : State) (h : Nat) : Bool :=
  s.spans.any (fun e => e.2.queue.any (fun q => decide (q.gang = some h)) || e.2.running.any (fun q => decide (q.gang = some h)))

/-- What GANG_STALL writes to s.tval for a context: the park reason, or 6 or 7 for a wait in ISSUED that counts as parked; none
where the context does not count (R248, R182, R209), or where its wait is over: a version that has come, a deadline that has passed
(R250), or a mailbox entry that is free. -/
def stallReason (s : State) (c k : Nat) : Option Nat :=
  let t := s.thread c k
  match t.stat, t.wait with
  | .parked, .bar d n p dl => if s.expired dl then none else some (Wait.bar d n p dl).reason
  | .parked, .line d n p dl => if s.expired dl then none else some (Wait.line d n p dl).reason
  | .parked, w => some w.reason
  | .issued, .stall .version => if s.stuck c k then some 6 else none
  | .issued, .stall .partner => if s.stuck c k then some 6 else none
  | .issued, .stall .mailroom => if s.coreRequests c || decide (s.mailUsed c < 64) then none else some 7
  | _, _ => none

/-- Engine work of a gang in flight: vector instructions, accepted matrix instructions but for collectives that wait for partners,
and requests (R182, R210). -/
def engineWork (s : State) (h : Nat) (g : Gang) : Bool :=
  s.gangRequests h ||
    g.cores.any (fun c => let x := s.coreAt c
      x.vec.any (fun j => decide ((s.thread c j.ctx).owner = .gang h)) ||
        x.mx.seq.any (fun j => !s.lacksPartner c j))

/-- A context is taken out of its wait without effect: its place in a queue, a slot or a sequence is given up. A vote that GBALLOT.wait has
cast stays cast, for it was counted at its ballot position before the wait (R248 does not say, DESIGN CHOICE, log 29). What waits in the overflow
order of a bank then is retried by retrySpan, once every context that leaves has left (R153). -/
def withdrawWait (s : State) (c k : Nat) : State :=
  let span := spanOf c
  match (s.thread c k).wait with
  | .mutex _ n => (s.touchSpan span [unitOfEvents] (some (c, k))).modSpan span (fun x =>
      let m := x.mutexes.get Mutex.free n
      { x with mutexes := x.mutexes.put n { m with queue := m.queue.filter (· ≠ (c, k)) } })
  | .take _ _ => s.freeSlot span c k
  | .fill _ _ => s.freeSlot span c k
  | .draw => s.modCore c (fun x => { x with drawQ := x.drawQ.filter (· ≠ k) })
  | .stall .partner => s.withdrawPartner c k
  | _ => s

/-- GANG_STALL (R248): every parked thread of the gang leaves its wait and traps. -/
def gangStall (s : State) (h : Nat) : State :=
  match s.gangAt h with
  | none => s
  | some g =>
    if g.stat = .running && decide (g.stall ≥ g.stallT) then
      let hit := (s.threadsOn h g.cores).filterMap (fun x => (s.stallReason x.1 x.2).map (fun r => (x, r)))
      let s := hit.foldl (fun s y => s.withdrawWait y.1.1 y.1.2) s
      let s := g.spans.foldl (fun s n => s.retrySpan n) s
      let s := hit.foldl (fun s y => s.raiseTrapAt y.1.1 y.1.2 Cause.gangStall (BitVec.ofNat 64 y.2)) s
      s.modGang h (fun g => { g with stall := 0 })
    else s

end State

/-- EVARR (R241, R251): a release. -/
def execEvarr (d : Reg) (n : BitVec 4) (s : State) : Out := .next (s.afterAccesses .span (fun s => s.arriveBar d n.toNat))

/-- EVWAIT (R252). -/
def execEvwait (d b : Reg) (n : BitVec 4) (line : Bool) (s : State) : Out :=
  .next (if (s.reg b).p then s.raisePoison else s.waitEvent d b n.toNat line none)

/-- EVTWAIT (R250, R252). -/
def execEvtwait (d a b : Reg) (n : BitVec 4) (line : Bool) (s : State) : Out :=
  .next (if (s.reg a).p || (s.reg b).p then s.raisePoison
    else s.waitEvent d b n.toNat line (some (s.clock + natBits 0 32 (s.reg a).v)))

/-- MTXLOCK (R253). -/
def execMtxlock (d : Reg) (n : BitVec 4) (s : State) : Out := .next (s.lockMutex d n.toNat)

/-- MTXREL (R253): a release. -/
def execMtxrel (n : BitVec 4) (s : State) : Out := .next (s.afterAccesses .span (fun s => s.unlockMutex n.toNat))

/-- EVSIG.sig (R254): a release. -/
def execEvsigSig (d : Reg) (n : BitVec 4) (s : State) : Out := .next (s.afterAccesses .span (fun s => s.signalLine d n.toNat))

/-- EVSIG.cfg (R254). -/
def execEvsigCfg (a b : Reg) (n : BitVec 4) (s : State) : Out := .next (s.configureBar a b n.toNat)

/-- GBAR (R255). -/
def execGbar (d : Reg) (s : State) : Out := .next (s.arriveCollective d none)

/-- SSTEP (R255). -/
def execSstep (d : Reg) (replay : Bool) (s : State) : Out := .next (s.arriveCollective d (some replay))

/-- EVTWAIT_TIMEOUT (R250): a deadline has passed. -/
def execEvtwaitTimeout (core ctx : Nat) (s : State) : Out :=
  .next (match (s.thread core ctx).stat, (s.thread core ctx).wait with
    | .parked, .bar _ _ _ deadline => if s.expired deadline then s.endWait core ctx 4 else s
    | .parked, .line _ _ _ deadline => if s.expired deadline then s.endWait core ctx 4 else s
    | _, _ => s)

/-- SPAN_REPORT (R245). -/
def execSpanReport (span : Nat) (s : State) : Out := .next (s.spanReport span)

/-- COLLECTIVE_COMPLETE (R246). -/
def execCollectiveComplete (h : Nat) (s : State) : Out := .next (s.completeCollective h)

/-- GANG_STALL (R248). -/
def execGangStall (h : Nat) (s : State) : Out := .next (s.gangStall h)

end Sys2Proof.Machine
end

