-- ==== Sys2Proof/Machine/Group.lean ====
section
/-! DEFINITION. Sibling groups and the draw unit (spec/21): ballots, cancels, accounting, DRAW. -/

set_option linter.constructorNameAsVariable false

namespace Sys2Proof.Machine

/-- The bits of the siblings 0 to n - 1 that satisfy a test. -/
def sibMask (n : Nat) (p : Nat → Bool) : Half :=
  BitVec.ofNat 32 ((List.range n).foldl (fun a i => a + if p i then 2 ^ i else 0) 0)

namespace Group

/-- Every sibling has voted, is cancel-pending or has retired (R349). -/
def exhausted (g : Group) : Bool := g.sibs.all (fun i => bit i g.voted || bit i g.cxl || bit i g.retired)

/-- An OPEN group that can no longer decide becomes NODECISION (R349). -/
def settle (g : Group) : Group := if g.stat = .opened && g.exhausted then { g with stat := .nodecision } else g

/-- A sibling's GBALLOT at its position (R351): the group afterwards and whether the vote counts. -/
def vote (g : Group) (sib : Nat) (hash : Word) (psn : Bool) : Group × Bool :=
  if g.stat = .opened && !bit sib g.voted && !bit sib g.cxl then
    let g := { g with voted := withBit g.voted sib true }
    if psn then ({ g with spoiled := withBit g.spoiled sib true }.settle, true)
    else
      let g := { g with votes := g.votes.put sib hash }
      if g.votes.countP (fun e => e.2 = hash) ≥ g.t then
        let kept := sibMask g.n (fun i => decide (g.votes.find? i = some hash))
        ({ g with stat := .decided, winner := hash, kept := kept,
                  cxl := g.cxl ||| sibMask g.n (fun i => !bit i kept && !bit i g.retired) }, true)
      else (g.settle, true)
  else (g, false)

end Group

/-- A gang's cores hold its threads, set up: a cancel that reaches them takes effect at once (R353, R357). -/
def Gang.onCores (g : Gang) : Bool :=
  match g.stat with
  | .starting | .restoring | .swapped => false
  | .running | .halting | .swapping | .draining | .aborting | .retired => true

namespace State

/-- The gangs of a group slot, as (handle, gang). -/
def siblings (s : State) (i : Nat) : SMap Gang := s.gangs.filter (fun e => decide (groupIndex e.2 = some i))

/-- The cancel of a sibling is sent to every core of its gang (R353), or recorded while the gang is swapped out (R357). -/
def sendCancel (s : State) (h : Nat) (g : Gang) : State :=
  match g.stat with
  | .swapped => s.modGang h (fun g => { g with cxlLate := true })
  | .retired => s
  | _ => { s with cancels := s.cancels ++ g.cores.map (fun c => ⟨h, c⟩) }

/-- Waits of GBALLOT.wait end once the state is no longer OPEN or the waiter's sibling is cancel-pending (R356). -/
def wakeBallots (s : State) (i : Nat) : State :=
  let x := s.groupAt i
  (s.siblings i).foldl (fun s e =>
    if x.stat ≠ .opened || bit e.2.sib x.cxl then
      (s.threadsOn e.1 e.2.cores).foldl (fun s y =>
        match (s.thread y.1 y.2).stat, (s.thread y.1 y.2).wait with
        | .parked, .ballot d counted => s.finishAt y.1 y.2 d (x.word e.2.sib counted (if bit e.2.sib x.cxl then 6 else 0))
        | _, _ => s) s
    else s) s

/-- A group changes at a position of the ballot sequence (R350): cancels are sent to the siblings that have become cancel-pending,
and waits end. -/
def setGroup (s : State) (i : Nat) (x : Group) : State :=
  let old := s.groupAt i
  let s := s.modGroup i (fun _ => x)
  let s := (s.siblings i).foldl (fun s e => if bit e.2.sib x.cxl && !bit e.2.sib old.cxl then s.sendCancel e.1 e.2 else s) s
  s.wakeBallots i

/-- A sibling has retired (R348, R349). -/
def siblingRetired (s : State) (g : Gang) : State :=
  match groupIndex g with
  | none => s
  | some i =>
    let x := s.groupAt i
    let x := { x with retired := withBit x.retired g.sib true }
    let x := if x.sibs.all (fun j => bit j x.retired) then { x with closed := true } else x
    s.setGroup i x.settle

/-- Goes on with the group of the running thread's gang; a thread in no group traps ACCESS. -/
def inGroup (s : State) (k : State → Nat → Gang → State) : State :=
  match s.gangOf s.me with
  | none => s.raiseTrap Cause.access 0
  | some g => match groupIndex g with
    | none => s.raiseTrap Cause.access 0
    | some i => k s i g

/-- GBALLOT (R351, R356). -/
def ballot (s : State) (d a : Reg) (wait : Bool) : State :=
  s.inGroup (fun s i g => s.afterAccesses .dev (fun s =>
    let r := (s.groupAt i).vote g.sib (s.reg a).v (s.reg a).p
    let s := s.setGroup i r.1
    if wait && decide (r.1.stat = .opened) && !bit g.sib r.1.cxl then s.waitOn (.ballot d r.2)
    else s.finish d ⟨r.1.word g.sib r.2 0, false⟩))

/-- GCANCEL. -/
def cancelSiblings (s : State) (d a : Reg) : State :=
  s.inGroup (fun s i _ =>
    let x := s.groupAt i
    let m := (s.reg a).v
    if (s.reg a).p then s.raisePoison
    else if m.toNat / 2 ^ x.n ≠ 0 then s.raiseTrap Cause.range m
    else s.afterAccesses .dev (fun s =>
      let x := s.groupAt i
      let new := bits 0 32 m &&& ~~~ x.cxl &&& ~~~ x.retired
      (s.setGroup i { x with cxl := x.cxl ||| new }.settle).finish d ⟨zext new, false⟩))

/-- The variants of GSTAT for a sibling. -/
def statWord (x : Group) (sib : Nat) (var : BitVec 3) : Word :=
  match var.toNat with
  | 0 => x.word sib false 0
  | 1 => if x.stat = .decided then x.winner else 0
  | 2 => x.votes.get 0 sib
  | 3 => x.cxl ++ x.kept
  | 4 => x.spoiled ++ x.voted
  | 5 => BitVec.ofNat 64 (x.blk.get 0 sib)
  | 6 => BitVec.ofNat 64 (x.cyc.get 0 sib)
  | _ => BitVec.ofNat 64 (x.byt.get 0 sib)

/-- GSTAT. A supervisor thread has no tenant, so no slot: it reads a free value (log 17). -/
def readGroup (s : State) (d a : Reg) (var : BitVec 3) : State :=
  let w := (s.reg a).v
  let sib := natBits 16 5 w
  if (s.reg a).p then s.raisePoison
  else if bits 6 10 w ≠ 0 ∨ bits 21 43 w ≠ 0 then s.raiseTrap Cause.range w
  else
    match s.tenantOf s.me with
    | none => s.freeValue.2.finish d ⟨s.freeValue.1, false⟩
    | some t =>
      let x := s.groupAt (64 * t + natBits 0 6 w)
      if x.stat = .free then s.finish d Val.zero
      else if sib ≥ x.n then s.raiseTrap Cause.range w
      else s.finish d ⟨statWord x sib var, false⟩

/-- A cancel reaches a core (R353): key bit 12 rises, and waits of the sibling's threads there end. -/
def cancelReaches (s : State) (h c : Nat) : State :=
  let s := s.modCore c (fun x => { x with cancel := true })
  s.statusReaches (s.threadsOn h [c]) 6

/-- A recorded cancel is delivered to every core of a gang that has started or come back (R357). -/
def deliverCancel (s : State) (h : Nat) (g : Gang) : State :=
  if g.cxlLate then g.cores.foldl (fun s c => s.cancelReaches h c) (s.modGang h (fun g => { g with cxlLate := false })) else s

/-- CANCEL_ARRIVAL: the oldest cancel under way to a core arrives; where its gang is not there, or is being set up, it is recorded
until it is (R357). -/
def cancelArrives (s : State) (c : Nat) : State :=
  match s.cancels.find? (fun x => x.core = c) with
  | none => s
  | some x =>
    let s := { s with cancels := s.cancels.erase x }
    if s.holder c = some x.gang && (s.gangAt x.gang).any Gang.onCores then s.cancelReaches x.gang c
    else s.modGang x.gang (fun g => { g with cxlLate := true })

end State

/-! ## DRAW (R363) -/

/-- A round of the draw generator. -/
def drawRound (x m : Word) (sh : Nat) : Word :=
  let y := x * m
  y ^^^ (y >>> sh)

/-- The draw of a key, a step, a stream and a position. -/
def drawWord (key : Word) (a b : Word) : Word :=
  let x := key ^^^ ((b <<< 32) ||| (zext (bits 16 8 a) <<< 16) ||| zext (bits 0 16 a))
  drawRound (drawRound (drawRound (drawRound x 0xD1B54A32D192ED03 31) 0xAEF17502108EF2D9 29) 0xDB4F0B9175AE2165 32)
    0xF1357AEA2E62A9C5 33

/-- DRAW's result: the raw word, or k · 2^-24 as FP32. -/
def drawResult (raw : Bool) (x : Word) : Word :=
  if raw then x else BitVec.ofNat 64 (toF32 .rne (Num.fin false (x.toNat / 2 ^ 40) (-24))).1

namespace State

/-- The members before the running thread in the convoy that it issues with (R98, R363). -/
def convoyBefore (s : State) : Nat := if s.myCore.convoy.contains s.ctx then s.myCore.convoy.idxOf s.ctx else 0

/-- A DRAW of a context completes. -/
def finishDraw (s : State) (c k : Nat) (d a b : Reg) (raw : Bool) : State :=
  let t := s.thread c k
  (s.setRegAt c k d ⟨drawResult raw (drawWord t.drawkey (t.reg a).v (t.reg b).v), (t.reg a).p || (t.reg b).p⟩).retireAt c k

/-- DRAW (R363): a member of a convoy beyond the first four waits for the draw unit. One that is accepted at once stays in ISSUED for the
unit's 8 cycles, of which issuing counts the first (R87, R355). -/
def draw (s : State) (d a b : Reg) (raw : Bool) : State :=
  if bits 24 40 (s.reg a).v ≠ 0 then s.raiseTrap Cause.range (s.reg a).v
  else if bits 32 32 (s.reg b).v ≠ 0 then s.raiseTrap Cause.range (s.reg b).v
  else if s.convoyBefore < 4 then (s.countCycles s.core s.ctx 7).finishDraw s.core s.ctx d a b raw
  else (s.park .draw).modMyCore (fun x => { x with drawQ := x.drawQ ++ [s.ctx] })

/-- DRAW_ACCEPT: the lowest waiting context is accepted (R363). -/
def acceptDraw (s : State) (c k : Nat) : State :=
  let t := s.thread c k
  if (s.coreAt c).drawQ.contains k && (s.coreAt c).drawQ.all (fun j => decide (k ≤ j)) then
    let s := s.modCore c (fun x => { x with drawQ := x.drawQ.filter (· ≠ k) })
    match t.wait, t.held with
    | .draw, some (.draw d a b raw) => s.finishDraw c k d a b raw
    | _, _ => s
  else s

end State

/-- GBALLOT and GBALLOT.wait (R351, R356). -/
def execGballot (d a : Reg) (wait : Bool) (s : State) : Out := .next (s.ballot d a wait)

/-- GCANCEL. -/
def execGcancel (d a : Reg) (s : State) : Out := .next (s.cancelSiblings d a)

/-- GSTAT. -/
def execGstat (d a : Reg) (var : BitVec 3) (s : State) : Out := .next (s.readGroup d a var)

/-- DRAW and DRAW.raw (R363). -/
def execDraw (d a b : Reg) (raw : Bool) (s : State) : Out := .next (s.draw d a b raw)

/-- CANCEL_ARRIVAL (R353). -/
def execCancelArrival (core : Nat) (s : State) : Out := .next (s.cancelArrives core)

/-- DRAW_ACCEPT (R363). -/
def execDrawAccept (core ctx : Nat) (s : State) : Out := .next (s.acceptDraw core ctx)

end Sys2Proof.Machine
end

