-- ==== Sys2Proof/Machine/Page.lean ====
section
/-! DEFINITION. Pages (spec/20): references, invalidations, and table entries written by the supervisor. -/

set_option linter.constructorNameAsVariable false

namespace Sys2Proof.Machine

namespace State

/-! ## Releases (R342, R343) -/

/-- RC of a page goes down by one in its entry, and at 0 the page is RELEASED and its invalidation starts (R343): the entry's new
RC. -/
def dropCount (s : State) (tenant va addr : Nat) : Nat × State :=
  let e := s.physWord addr
  let rc := (natBits 48 16 e + 65535) % 65536
  let e := putBits e 48 16 rc
  if rc = 0 then
    let s := s.setPhysWord addr (putBits e 4 2 3)
    (rc, { s with invals := s.invals ++ [⟨tenant, some va, false, none, true⟩] })
  else (rc, s.setPhysWord addr e)

/-- The page that a translation of the running thread's tenant ends at. -/
def pageOf (s : State) (tenant va : Nat) : Option (PageRef × Word) :=
  (s.walk tenant va).map (fun h => (⟨va / pageSize h.level * pageSize h.level, pageSize h.level, h.addr⟩, h.entry))

/-- A reference on a gang's list is released as if by PGREL (R342): the count goes down in the entry that the page has now; a page
that is no longer mapped, or is RELEASED, has none. -/
def dropRef (s : State) (tenant : Nat) (r : PageRef) : State :=
  match s.pageOf tenant r.va with
  | none => s
  | some p => if natBits 4 2 p.2 = 3 then s else (s.dropCount tenant r.va p.1.entry).2

/-- Translation as a read (R346, checks 1 and 5 of R162): the cause, or the state with its caches. -/
def pageRead (s : State) (va : Nat) : Except (BitVec 8) State :=
  if va ≥ 2 ^ 48 then .error Cause.access
  else match s.coreTranslate s.core (s.tenantOf s.me) va .read with
    | .error c => .error c
    | .ok (_, s) => .ok s

/-- The checks that PGREF and PGREL share (R346): poison, translation as a read, a replayable superstep. A supervisor thread has no
pages, so its operand names none that is SHARED or listed. -/
def pageChecked (s : State) (a : Reg) (k : State → Nat → Gang → PageRef × Word → State) : State :=
  let w := (s.reg a).v
  if (s.reg a).p then s.raiseTrap Cause.poisonConsumed w
  else match s.pageRead w.toNat with
    | .error c => s.raiseTrap c w
    | .ok s =>
      if s.inReplay then s.raiseTrap Cause.replayStore w
      else match s.me.gang?, s.gangOf s.me with
        | some h, some g => match s.pageOf g.tenant w.toNat with
          | some p => if natBits 4 2 p.2 = 3 then s.raiseTrap Cause.pageFault w else k s h g p
          | none => s.raiseTrap Cause.pageFault w
        | _, _ => s.raiseTrap Cause.range w

/-- PGREF (R346). -/
def pageRef (s : State) (d a : Reg) : State :=
  s.pageChecked a (fun s h g p =>
    let w := (s.reg a).v
    let rc := natBits 48 16 p.2
    if natBits 4 2 p.2 ≠ 1 ∨ rc = 65535 ∨ g.refs.length ≥ 256 then s.raiseTrap Cause.range w
    else if g.refs.any (fun r => decide (r.va = p.1.va)) then s.finish d ⟨BitVec.ofNat 64 rc, false⟩
    else
      ((s.setPhysWord p.1.entry (putBits p.2 48 16 (rc + 1))).modGang h (fun g => { g with refs := g.refs ++ [p.1] })).finish d
        ⟨BitVec.ofNat 64 (rc + 1), false⟩)

/-- PGREL (R346): a release. -/
def pageRel (s : State) (d a : Reg) : State :=
  s.pageChecked a (fun s h g p =>
    let w := (s.reg a).v
    match g.refs.find? (fun r => decide (r.va = p.1.va)) with
    | none => s.raiseTrap Cause.range w
    | some r => s.afterAccesses .dev (fun s =>
      let x := (s.modGang h (fun g => { g with refs := g.refs.erase r })).dropCount g.tenant r.va p.1.entry
      x.2.finish d ⟨BitVec.ofNat 64 x.1, false⟩))

/-! ## Invalidations (R339, R344) -/

end State

namespace Inval

/-- A page at a base, of a size, of a tenant, is covered by an invalidation. -/
def covers (i : Inval) (tenant va size : Nat) : Bool :=
  decide (tenant = i.tenant) && (match i.page with
    | some a => decide (va ≤ a) && decide (a < va + size)
    | none => true)

/-- A cached translation that an invalidation leaves. -/
def leavesTlb (i : Inval) (x : Tlb) : Bool := !i.covers x.tenant x.va x.size

/-- A fetched copy of a code word that an invalidation leaves (R341, R344): all of them unless it is one of code. Those of a supervisor
thread it leaves as well, for R341 and R344 name a tenant's alone, and no rule says when they are dropped (DESIGN CHOICE, log 10). -/
def leavesCode (i : Inval) (x : CodeCopy) : Bool :=
  !i.code || (match x.tenant with
    | some t => !i.covers t x.page x.size
    | none => true)

end Inval

namespace State

/-- Everything that an invalidation covers is dropped. -/
def dropCached (s : State) (i : Inval) : State :=
  { s with
    cores := s.cores.mapVals (fun _ x => { x with tlb := x.tlb.filter i.leavesTlb, icache := x.icache.filter i.leavesCode })
    spans := s.spans.mapVals (fun _ x => { x with tlb := x.tlb.filter i.leavesTlb }) }

/-- No access that a dropped translation served is under way (R339): none of the tenant to the page, whose bounds are those of the
translation that it used. A request of a streamer translates in the one step in which it moves its data (log 6). -/
def quiet (s : State) (i : Inval) : Bool :=
  s.cores.all (fun e => e.2.threads.all (fun t => decide (s.tenantOf t.2 ≠ some i.tenant) || t.2.out.all (fun x =>
    decide (x.space ≠ .gl) || (match i.page with
      | some a => decide (a < x.page.1) || decide (x.page.1 + x.page.2 ≤ a)
      | none => false))))

/-- Of the invalidations, the 16 that came first are in flight (R339): a release of a page waits its turn as TLBINV does. -/
def inFlight (k : Nat) : Bool := decide (k < 16)

/-- An invalidation is complete (R339, R343): its counter is posted to, or firmware is notified of a released page. -/
def completeInval (s : State) (k : Nat) (release : Bool) : State :=
  match s.invals[k]? with
  | none => s
  | some i =>
    if inFlight k && decide (i.release = release) && s.quiet i then
      let s := { s.dropCached i with invals := s.invals.take k ++ s.invals.drop (k + 1) }
      let s := match i.post with
        | some ct => s.sendPost none none none ct 1
        | none => s
      if release then
        s.notify ⟨BitVec.ofNat 64 (i.page.getD 0), msgHeader 0x0100 0 4 0 false (i.tenant * 2 ^ 20)⟩
      else s
    else s

/-- TLBINV (R344), a release (R341): the code that the thread wrote or acquired is in memory when the invalidation begins, so that what is
fetched after its completion is the new words. -/
def tlbinv (s : State) (a b : Reg) (all code post : Bool) : State :=
  let w := (s.reg a).v
  let ct := (s.reg b).v
  let tenant := natBits 48 4 w
  if (s.reg a).p || (s.reg b).p then s.raisePoison
  else if bits 52 12 w ≠ 0 then s.raiseTrap Cause.range w
  else if post && decide (bits 22 42 ct ≠ 0) then s.raiseOpen Cause.range
  else if post && !s.inSubmesh (some tenant) (natBits 0 14 ct) then s.raiseTrap Cause.tenant (zext (bits 0 14 ct))
  else s.afterPublished (fun s =>
    if s.invals.length ≥ 16 then s.stall .inval
    else
      let i : Inval := ⟨tenant, if all then none else some (natBits 0 48 w), code, if post then some (natBits 0 22 ct) else none, false⟩
      ({ s with invals := s.invals ++ [i] } : State).retire)

/-! ## PGMAP (R345, R338, R310) -/

/-- The size of what an entry at a level covers (R334). -/
def levelSize (level : Nat) : Nat :=
  match level with
  | 1 => 2 ^ 39
  | 2 => 2 ^ 30
  | 3 => 2 ^ 21
  | _ => 2 ^ 16

/-- A thread on a halted list resumes at its PC, which is its faulting instruction, unless CTXLOAD.thr has loaded another, which is then
entered (R309, R338); one of a gang that is swapped out is marked READY in its record (R310). -/
def wakeFault (s : State) (f : Faulted) : State :=
  match s.gangAt f.gang with
  | none => s
  | some g => match g.image with
    | some img =>
      let x := img.cores.get Core.idle f.core
      let t := x.threads.get Thread.free f.ctx
      if t.owner = .gang f.gang && decide (t.stat = .halted) && decide (t.cause = Cause.pageFault) then
        let pa := g.recordAddr (ctxsOf x f.gang) f.core f.ctx + 8 * 64
        s.setPhysWord pa (putBits (s.physWord pa) 8 3 1)
      else s
    | none =>
      let t := s.thread f.core f.ctx
      if t.owner = .gang f.gang && decide (t.stat = .halted) && decide (t.cause = Cause.pageFault) then
        s.resumeAt f.core f.ctx t.pcBlk t.pcOff
      else s

/-- Every halted fault within a range of a tenant's addresses resumes, and its page leaves the pending set (R338, R345). -/
def wakeRange (s : State) (tenant va size : Nat) : State :=
  let hit (p : PendPage) : Bool := decide (p.tenant = tenant) && decide (va ≤ p.va) && decide (p.va < va + size)
  let woken := (s.pend.filter hit).flatMap (·.list)
  let s : State := { s with pend := s.pend.filter (fun p => !hit p) }
  woken.foldl wakeFault s

/-- PGMAP (R345): what the thread wrote before is at the home slices, where walkers read tables (R337). -/
def pageMap (s : State) (d a b : Reg) (lvl : Nat) (wake : Bool) : State :=
  let w := (s.reg a).v
  let e := (s.reg b).v
  let tenant := natBits 48 4 w
  let va := natBits 0 48 w
  if (s.reg a).p || (s.reg b).p then s.raisePoison
  else if bits 52 12 w ≠ 0 then s.raiseTrap Cause.range w
  else if s.malformed e lvl && decide (bits 0 2 e ≠ 0) then s.raiseTrap Cause.range e
  else match (s.tenantAt tenant).bind (fun t => s.entryAddr va [1, 2, 3, 4] lvl t.root) with
    | none => s.finish d ⟨0xFFFFFFFFFFFFFFFF, false⟩
    | some pa => s.afterPublished (fun s =>
      let old := s.physWord pa
      let s := s.setPhysWord pa e
      let s := if wake then s.wakeRange tenant (va / levelSize lvl * levelSize lvl) (levelSize lvl) else s
      s.finish d ⟨old, false⟩)

end State

/-- PGREF (R346). -/
def execPgref (d a : Reg) (s : State) : Out := .next (s.pageRef d a)

/-- PGREL (R346). -/
def execPgrel (d a : Reg) (s : State) : Out := .next (s.pageRel d a)

/-- TLBINV.page (R344). -/
def execTlbinvPage (a b : Reg) (post : Bool) (s : State) : Out := .next (s.tlbinv a b false false post)

/-- TLBINV.all (R344). -/
def execTlbinvAll (a b : Reg) (post : Bool) (s : State) : Out := .next (s.tlbinv a b true true post)

/-- TLBINV.code (R344). -/
def execTlbinvCode (a b : Reg) (post : Bool) (s : State) : Out := .next (s.tlbinv a b false true post)

/-- PGMAP (R345). -/
def execPgmap (d a b : Reg) (lvl : BitVec 3) (wake : Bool) (s : State) : Out := .next (s.pageMap d a b lvl.toNat wake)

/-- TLBINV_COMPLETE (R339). -/
def execTlbinvComplete (k : Nat) (s : State) : Out := .next (s.completeInval k false)

/-- PAGE_RELEASE_COMPLETE (R343). -/
def execPageReleaseComplete (k : Nat) (s : State) : Out := .next (s.completeInval k true)

end Sys2Proof.Machine
end

