-- ==== Sys2Proof/Machine/Queue.lean ====
section
/-! DEFINITION. The scheduler's queues (spec/15): host queue registers, fetching and checking records, placement and admission,
copy records, LAUNCH, LTRIG. -/

set_option linter.constructorNameAsVariable false

namespace Sys2Proof.Machine

/-! ## Reading a tenant's memory -/

namespace State

/-- The physical address of a tenant's virtual address, read by the scheduler (R278). -/
def tenantAddr (s : State) (tenant va : Nat) : Option Nat :=
  if va ≥ 2 ^ 48 then none
  else match s.walk tenant va with
    | none => none
    | some h => match refusal .read h.entry with
      | some _ => none
      | none => some (pageAddr h.entry (pageSize h.level) va)

/-- Words of a tenant's memory from an address on, n of them, and whether one is poisoned; none where one is not translated. -/
def tenantWords (s : State) (tenant : Nat) : Nat → Nat → Option (List Word × Bool)
  | _, 0 => some ([], false)
  | va, n + 1 =>
    match s.tenantAddr tenant va, tenantWords s tenant (va + 8) n with
    | some pa, some r => some (s.physWord pa :: r.1, s.physPoison pa || r.2)
    | _, _ => none

/-- A request block's address lies in the counter window of a core outside a tenant's sub-mesh (R162 check 5, R279). -/
def blockForeign (s : State) (tenant va : Nat) : Bool :=
  match s.tenantAddr tenant va with
  | some pa => inCwin pa && !s.inSubmesh (some tenant) ((pa - Config.cwinBase) / 2048)
  | none => false

end State

/-! ## The launch record (R277, R278, R293, R347) -/

/-- ADDR of a record. -/
def recAddr (w : List Word) : Nat := natBits 0 48 (blkWord w 0)

/-- KIND of a record. -/
def recKind (w : List Word) : Nat := natBits 48 4 (blkWord w 0)

/-- Width of a record's gangs in spans. -/
def recGw (w : List Word) : Nat := natBits 0 4 (blkWord w 4) + 1

/-- Height of a record's gangs in spans. -/
def recGh (w : List Word) : Nat := natBits 4 4 (blkWord w 4) + 1

/-- Number of a record's gangs. -/
def recN (w : List Word) : Nat := natBits 8 8 (blkWord w 4) + 1

/-- Contexts per core of a record's gangs. -/
def recCtx (w : List Word) : Nat := natBits 16 6 (blkWord w 4) + 1

/-- Tables per team of a record. -/
def recTbls (w : List Word) : Nat := natBits 22 4 (blkWord w 4)

/-- PAIRED of a record. -/
def recPaired (w : List Word) : Bool := bit 27 (blkWord w 4)

/-- GROUP of a record, or none. -/
def recGroup (w : List Word) : Option Half := if bits 0 32 (blkWord w 7) = 0xFFFFFFFF then none else some (bits 0 32 (blkWord w 7))

/-- The spans of a rectangle. -/
def rectSpans (nw gw gh : Nat) : List Nat := (List.range gh).flatMap (fun y => (List.range gw).map (fun x => nw + 16 * y + x))

/-- A rectangle whose north-west span is given lies in a tenant's sub-mesh, on an even column when paired (R297). -/
def rectFits (t : Tenant) (w : List Word) (nw : Nat) : Bool :=
  (!recPaired w || decide (nw % 2 = 0)) && decide (t.sx ≤ nw % 16) && decide (nw % 16 + recGw w ≤ t.sx + t.sw) &&
    decide (t.sy ≤ nw / 16) && decide (nw / 16 + recGh w ≤ t.sy + t.sh)

/-- Rectangles for k gangs, each the lowest of usable spans that the earlier ones have left (R297). -/
def placeGangs (t : Tenant) (w : List Word) (usable : Nat → Bool) : Nat → List Nat → Option (List Nat)
  | 0, _ => some []
  | k + 1, taken =>
    match (List.range 256).find? (fun nw => rectFits t w nw &&
        (rectSpans nw (recGw w) (recGh w)).all (fun n => usable n && !taken.contains n)) with
    | none => none
    | some nw => (placeGangs t w usable k (rectSpans nw (recGw w) (recGh w) ++ taken)).map (nw :: ·)

/-- The GROUP word is valid for a number of gangs (R347). -/
def groupOk (w : List Word) : Bool :=
  match recGroup w with
  | none => true
  | some g => decide (bits 6 10 g = 0) && decide (bits 22 10 g = 0) && decide (recN w ≤ 32) && decide (natBits 16 6 g ≤ recN w)

/-- A kernel descriptor is valid (R293). -/
def descOk (d : List Word) : Bool := decide (bits 8 56 (blkWord d 1) = 0) && decide (bits 6 2 (blkWord d 1) ≠ 0)

/-- Whether each word of a record is valid on its own (R277, R278). -/
def recordOk (w : List Word) : List Bool :=
  let zero (i : Nat) : Bool := decide (blkWord w i = 0)
  let k := recKind w
  let w4 := blkWord w 4
  let align := if k = 0 then 8 else if k = 4 then 32 else 64
  let w0 := decide (bits 52 12 (blkWord w 0) = 0) && decide (k ≤ 4) && decide (recAddr w % align = 0)
  let w5 := decide (bits 23 9 (blkWord w 5) = 0)
  let w6 := decide (bits 23 9 (blkWord w 6) = 0) && decide (bits 55 9 (blkWord w 6) = 0)
  if k = 0 then
    [w0, decide (bits 48 16 (blkWord w 1) = 0) && decide (natBits 0 48 (blkWord w 1) % 8 = 0),
      decide (bits 48 16 (blkWord w 2) = 0) && decide (natBits 0 48 (blkWord w 2) % 2 ^ 21 = 0), true,
      decide (bits 34 30 w4 = 0) && decide (recTbls w ≤ 8) && (!recPaired w || decide (recGw w % 2 = 0)), w5, w6,
      decide (bits 32 32 (blkWord w 7) = 0) && groupOk w]
  else [w0, zero 1, zero 2, true, decide (bits 0 30 w4 = 0) && decide (bits 33 31 w4 = 0), w5, w6, decide (blkWord w 7 = 0xFFFFFFFF)]

/-- The kind of streamer request that a copy record makes (R277, R279). -/
def copyKind (k : Nat) : ReqKind := if k = 1 then .copy else if k = 2 then .conv else .script

namespace State

/-- A counter target field that is used lies in a tenant's sub-mesh. -/
def targetOk (s : State) (tenant : Nat) (w : Word) (lo : Nat) : Bool :=
  !bit (lo + 22) w || s.inSubmesh (some tenant) (natBits lo 14 w)

/-- Word numbers of a record whose counter targets lie outside the sub-mesh. -/
def targetBad (s : State) (tenant : Nat) (w : List Word) (i : Nat) : Bool :=
  (decide (i = 5) && !s.targetOk tenant (blkWord w 5) 0) ||
    (decide (i = 6) && !(s.targetOk tenant (blkWord w 6) 0 && s.targetOk tenant (blkWord w 6) 32))

/-- The checks of a record (R278, R279, R293, R295), in the order of R290 for LAUNCH; for a record of a host queue or of a list a
bad first word (KIND, reserved bits, alignment of ADDR) comes before the translation of what it names (log 16): the CODE of R276 with
the word that is bad or, for CODE 4, the address without a translation; or the record with what the check read behind it: the two words
of the descriptor, or the request block. Nothing is read behind a bad first word, and a descriptor whose second word alone has no
translation comes after a bad word of the record (log 16). A block that stands in the counter window of a foreign core fails as TENANT
does (log 16). -/
def checkRecord (s : State) (tenant : Nat) (w : List Word) (psn launch : Bool) : Except (Nat × Word) (List Word) :=
  let k := recKind w
  let arg := natBits 0 48 (blkWord w 1)
  let first : Bool := !(recordOk w).getD 0 true || (launch && decide (k ≠ 0))
  match s.tenantAt tenant with
  | none => .error (3, 0)
  | some t =>
    if psn then .error (2, 0)
    else if !launch && first then .error (1, 0)
    else if (s.tenantAddr tenant (recAddr w)).isNone then .error (4, BitVec.ofNat 64 (recAddr w))
    else if (launch || decide (k = 0)) && (s.tenantAddr tenant arg).isNone then .error (4, BitVec.ofNat 64 arg)
    else if first then .error (1, 0)
    else
      let ok := recordOk w
      let behind := s.tenantWords tenant (recAddr w) (if k = 0 then 2 else if k = 4 then 0 else 8)
      let desc (p : List Word → Bool) : Bool := decide (k = 0) && behind.any (fun b => p b.1)
      let bad (i : Nat) : Bool := !ok.getD i true || s.targetBad tenant w i || (decide (i = 0) && desc (fun d => !descOk d)) ||
        (decide (i = 4) && desc (fun d => decide (recCtx w < natBits 0 6 (blkWord d 1) + 1))) ||
        (decide (i = 4) && decide (k = 0) && (placeGangs t w (fun _ => true) (recN w) []).isNone)
      match (List.range 8).find? bad with
      | some i => .error (if !ok.getD i true || !s.targetBad tenant w i then 1 else 3, BitVec.ofNat 64 i)
      | none =>
        match behind with
        | none => .error (4, BitVec.ofNat 64 (recAddr w + 8))
        | some (d, dp) =>
          if decide (k ≠ 0) && decide (k ≠ 4) && s.blockForeign tenant (recAddr w) then .error (3, 0)
          else if dp then .error (2, 0)
          else if k = 0 ∨ k = 4 then .ok (w ++ d)
          else if (firstBad (fieldsOk (copyKind k) d)).isSome then .error (1, 0)
          else if (s.placeOutside (some tenant) (copyKind k) d).isSome then .error (3, 0)
          else .ok (w ++ d)

/-! ## Host queue registers (R273, R275, R276) -/

/-- A write to the register at 0x08 of a queue (R273). EN is ignored before the device is READY (R385). -/
def writeEnable (s : State) (q : Nat) (v : Word) : State :=
  s.modQueue q (fun x =>
    let x := if x.en then x else { x with logsz := natBits 0 4 v }
    let x := { x with tenant := natBits 4 4 v, pcap := natBits 8 3 v }
    if !bit 16 v then { x with en := false }
    else if x.en then x
    else if s.mgmt.phase ≠ .ready then x
    else if x.logsz = 0 ∨ x.logsz > 12 then { x with err := true, code := 1, eidx := 0 }
    else { x with en := true })

/-- A producer index beyond the ring's capacity (R275). -/
def overrun (x : HostQueue) : Bool := decide ((x.qprod - x.qcons).toNat > 2 ^ x.logsz)

/-- A write of QPROD (R275): a queue that is enabled and whose index passes the ring's capacity halts. -/
def writeProd (s : State) (q : Nat) (v : Word) : State :=
  s.modQueue q (fun x =>
    let x := { x with qprod := bits 0 32 v }
    if x.en && !x.err && overrun x then { x with err := true, code := 5, eidx := x.qcons } else x)

/-- Writing 1 to ERR (R276). -/
def clearErr (s : State) (q : Nat) : State := s.modQueue q (fun x => { x with err := false })

/-! ## Fetching (R274, R276) -/

/-- Records of a queue that have been fetched and not admitted (R274); those a list has submitted do not count. -/
def unadmitted (s : State) (q : Nat) : Nat :=
  (s.pool.filter (fun r => decide (r.q.map (·.1) = some q) && r.list.isNone)).length

/-- The scheduler may fetch from a queue (R274). -/
def fetchable (s : State) (q : Nat) : Bool :=
  let x := s.queueAt q
  decide (s.mgmt.phase = .ready) && x.en && !x.err && decide (x.qcons ≠ x.qprod) && decide (s.unadmitted q < 16)

/-- RECORD_FETCH (R274 to R276): the slot at QCONS is read whole and checked. -/
def fetchRecord (s : State) (q : Nat) : State :=
  if !s.fetchable q then s
  else
    let x := s.queueAt q
    if overrun x then s.failQueue q x.qcons.toNat 5
    else
      let pa := x.qbase + 64 * (x.qcons.toNat % 2 ^ x.logsz)
      let w := (List.range 8).map (fun i => s.physWord (pa + 8 * i))
      let psn := (List.range 8).any (fun i => s.physPoison (pa + 8 * i))
      let s := s.modQueue q (fun x => { x with qcons := x.qcons + 1 })
      match s.checkRecord x.tenant w psn false with
      | .error e => s.failQueue q x.qcons.toNat e.1
      | .ok w => s.addRecord { mkRecord w x.tenant (min (recPrio w) x.pcap) with q := some (q, x.qcons.toNat) }

/-! ## Candidates (R279 to R281, R301, R307) -/

end State

/-- What the scheduler may let in. -/
inductive Cand where
  | record (r : FRec)
  /-- a swapped gang, and whether it is a cancel-pending sibling -/
  | restore (h : Nat) (g : Gang) (pending : Bool)
deriving DecidableEq, Repr

/-- The priority of a candidate. -/
def Cand.prio : Cand → Nat
  | .record r => r.prio
  | .restore _ g _ => g.prio

/-- The order among candidates of one priority: swapped gangs first, cancel-pending ones ahead (R307, R357), then records by age. -/
def Cand.rank : Cand → Nat × Nat
  | .restore _ g pending => (if pending then 0 else 1, g.born)
  | .record r => (2, r.seq)

/-- A candidate comes before another (R280). -/
def Cand.before (a b : Cand) : Bool :=
  if a.prio ≠ b.prio then decide (a.prio > b.prio)
  else if a.rank.1 ≠ b.rank.1 then decide (a.rank.1 < b.rank.1) else decide (a.rank.2 < b.rank.2)

/-- A candidate put at its place in a list in admission order. -/
def Cand.insertInto (c : Cand) : List Cand → List Cand
  | [] => [c]
  | x :: r => if c.before x then c :: x :: r else x :: Cand.insertInto c r

namespace State

/-- A gang is a cancel-pending sibling (R353). -/
def cancelPending (s : State) (g : Gang) : Bool :=
  match groupIndex g with
  | some i => bit g.sib (s.groupAt i).cxl
  | none => false

/-- The candidates in admission order. -/
def candidates (s : State) : List Cand :=
  let swapped := s.gangs.filterMap (fun e => if e.2.stat = .swapped && !e.2.abortLate then some (Cand.restore e.1 e.2 (s.cancelPending e.2)) else none)
  (s.heads.map Cand.record ++ swapped).foldl (fun (l : List Cand) (c : Cand) => c.insertInto l) []


/-! ## Placement (R90, R102, R294, R297, R298, R306, R347) -/

/-- The free contexts of a core that no team holds, rising (R90). -/
def openContexts (s : State) (c : Nat) : List Nat :=
  (List.range 64).filter (fun k => decide ((s.thread c k).stat = .free) && decide ((s.thread c k).owner = .none))

/-- The free tables of a core, rising (R102). -/
def openTables (s : State) (c : Nat) : List Nat :=
  (List.range 8).filter (fun n => decide (((s.coreAt c).tables.get Table.free n).owner = .none))

/-- A span is held by no gang, and its cores have room for a record's team (R297). -/
def spanUsable (s : State) (w : List Word) (n : Nat) : Bool :=
  (s.spanAt n).gang.isNone && (spanCores n).all (fun c =>
    decide (recCtx w ≤ (s.openContexts c).length) && decide (recTbls w ≤ (s.openTables c).length))

/-- The lowest free gang handles (R298). -/
def freeHandles (s : State) (n : Nat) : List Nat := ((List.range 1024).filter (fun h => (s.gangAt h).isNone)).take n

end State

/-- The first offset in a pool of a size at which a part fits beside the parts in use (log 16). -/
def poolFit (size : Nat) (used : List (Nat × Nat)) (n : Nat) : Option Nat :=
  let free (o : Nat) : Bool := decide (o + n ≤ size) && used.all (fun u => decide (o + n ≤ u.1) || decide (u.1 + u.2 ≤ o))
  ((0 :: used.map (fun u => u.1 + u.2)).filter free).foldl (fun m o => match m with
    | none => some o
    | some x => some (min x o)) none

/-- Parts of given sizes taken from a pool one after another: their offsets and the parts then in use, or none. -/
def poolTake (size : Nat) : List Nat → List (Nat × Nat) → Option (List Nat × List (Nat × Nat))
  | [], used => some ([], used)
  | n :: r, used =>
    match poolFit size used n with
    | none => none
    | some o => (poolTake size r ((o, n) :: used)).map (fun x => (o :: x.1, x.2))

/-- Bytes of a gang's context records and of its swap reserve (R294, R306). -/
def poolNeed (w : List Word) : List Nat :=
  let cores := 64 * recGw w * recGh w
  [1024 * recCtx w * cores, 1536 * recTbls w * cores + 1024]

/-- A gang as it is placed (R298 to R300). -/
def newGang (r : FRec) (t : Tenant) (launch index nw clock : Nat) (recs reserve : Nat × Nat) : Gang :=
  let w := r.words
  let d1 := blkWord w 9
  { stat := .starting, launch := launch, index := index, tenant := r.tenant, sx := nw % 16, sy := nw / 16, gw := recGw w, gh := recGh w,
    ctx := recCtx w, start := natBits 0 6 d1 + 1, tbls := recTbls w, mxu := bit 26 (blkWord w 4), paired := recPaired w,
    ring := 2 ^ natBits 6 2 d1, kern := recAddr w, entry := bits 0 32 (blkWord w 8), trap := bits 32 32 (blkWord w 8),
    arg := zext (bits 0 48 (blkWord w 1)), cwin := natBits 0 48 (blkWord w 2), dkey := blkWord w 3, rm := bits 28 2 (blkWord w 4),
    prio := r.prio, debug := bit 33 (blkWord w 4) && t.dbg, step := 0, replay := false, replays := 0, snap := none, rolling := false,
    rolled := false,
    stall := 0, stallT := if t.stallt = 0 then 2 ^ 24 else t.stallt, live := 0, devq := [], held := [], heldRec := [], refs := [],
    group := (recGroup w).map (natBits 0 6), sib := index, cxlLate := false, abortLate := false, post := [], image := none,
    slots := [], recs := recs, reserve := reserve, extra := [], images := r.images, born := clock }

namespace State

/-- A core's lowest free contexts and tables are assigned to a gang (R90, R102). -/
def assignCore (s : State) (h : Nat) (w : List Word) (c : Nat) : State :=
  let ks := (s.openContexts c).take (recCtx w)
  let ts := (s.openTables c).take (recTbls w)
  let s := ks.foldl (fun s k => s.modThread c k (fun t => { t with owner := .gang h })) s
  s.modCore c (fun x => { x with tables := ts.foldl (fun m n => m.put n { Table.free with owner := .gang h }) x.tables })

/-- A gang takes its spans, contexts and tables. -/
def assignGang (s : State) (h : Nat) (w : List Word) (g : Gang) : State :=
  let s : State := { s with gangs := s.gangs.put h g }
  let s := g.spans.foldl (fun s n => s.modSpan n (fun x => { x with gang := some h })) s
  g.cores.foldl (fun s c => s.assignCore h w c) s

/-- The slot that a record's group needs is FREE or CLOSED (R347). -/
def slotOpen (s : State) (r : FRec) : Bool :=
  match recGroup r.words with
  | none => true
  | some g =>
    let x := s.groupAt (64 * r.tenant + natBits 0 6 g)
    decide (x.stat = .free) || x.closed

/-- The slot of a launch's group is set up (R348). -/
def openGroup (s : State) (r : FRec) : State :=
  match recGroup r.words with
  | none => s
  | some g =>
    let n := recN r.words
    let t := natBits 16 6 g
    s.modGroup (64 * r.tenant + natBits 0 6 g) (fun _ =>
      { Group.free with stat := .opened, n := n, t := if t = 0 then n / 2 + 1 else t })

/-- A record leaves the pool. -/
def dropRecord (s : State) (r : FRec) : State :=
  let s : State := { s with pool := s.pool.filter (fun x => decide (x.seq ≠ r.seq)) }
  match r.dev with
  | some h => s.modGang h (fun g => { g with devq := g.devq.filter (· ≠ r.seq) })
  | none => s

/-- A kind-0 record is admitted, if all of its gangs can be placed together (R280, R297, R298, R306). -/
def admitKernel (s : State) (r : FRec) : Option State :=
  match s.tenantAt r.tenant with
  | none => none
  | some t =>
    let n := recN r.words
    let hs := s.freeHandles n
    let parts := poolTake (t.cpmb * 2 ^ 20) ((List.replicate n (poolNeed r.words)).flatten) t.used
    if hs.length < n || !s.slotOpen r then none
    else match placeGangs t r.words (s.spanUsable r.words) n [], parts with
      | some nws, some (offs, used) =>
        let need := poolNeed r.words
        let s := (s.dropRecord r).openGroup r
        let s : State := { s with tenants := s.tenants.put r.tenant { t with used := used }
                                  launches := s.launches ++ [⟨r.seq, r.words, r.tenant, r.prio, hs, hs, false, false⟩] }
        some ((List.range n).foldl (fun s i =>
          s.assignGang (hs.getD i 0) r.words (newGang r t r.seq i (nws.getD i 0) s.clock
            (t.cpool + offs.getD (2 * i) 0, need.getD 0 0) (t.cpool + offs.getD (2 * i + 1) 0, need.getD 1 0))) s)
      | _, _ => none

/-- Every span that a swapped gang left is free again, and its contexts and tables with them (R307). -/
def canRestore (s : State) (h : Nat) (g : Gang) : Bool :=
  g.spans.all (fun n => (s.spanAt n).gang.isNone) && (match g.image with
    | none => false
    | some img => g.cores.all (fun c =>
      (ctxsOf (img.cores.get Core.idle c) h).all (fun k => (s.openContexts c).contains k) &&
        decide (g.tbls ≤ (s.openTables c).length)))

/-- A restore is accepted: the gang's spans, contexts and tables are held again (R307). -/
def startRestore (s : State) (h : Nat) (g : Gang) : State :=
  let s := s.modGang h (fun g => { g with stat := .restoring })
  let s := g.spans.foldl (fun s n => s.modSpan n (fun x => { x with gang := some h })) s
  g.cores.foldl (fun s c =>
    let ts := (s.openTables c).take g.tbls
    let ks := match g.image with
      | some img => ctxsOf (img.cores.get Core.idle c) h
      | none => []
    s.modCore c (fun x =>
      { x with tables := ts.foldl (fun m n => m.put n { Table.free with owner := .gang h }) x.tables
               threads := ks.foldl (fun m k => m.put k { Thread.free with owner := .gang h }) x.threads })) s

/-- A candidate is admitted, if it can be. -/
def letIn (s : State) : Cand → Option State
  | .restore h g _ => if s.canRestore h g then some (s.startRestore h g) else none
  | .record r =>
    let k := recKind r.words
    if k = 0 then s.admitKernel r
    else if k = 4 then
      let q := r.q.getD (0, 0)
      some { s.dropRecord r with walkers := s.walkers ++ [⟨r.seq, q.1, q.2, r.words, r.tenant, r.prio, recAddr r.words, [], [], []⟩] }
    else some { s.dropRecord r with copies := s.copies ++ [r] }

/-- A considered record that becomes reserving (R281): the oldest of its priority has waited 2^24 cycles, and no record of that priority
is reserving, be it considered now or not. -/
def mayReserve (s : State) (hs : List FRec) (r : FRec) : Bool :=
  let waited (x : FRec) : Bool := match x.since with
    | some t => decide (s.clock - t ≥ 2 ^ 24)
    | none => false
  waited r && s.pool.all (fun x => decide (x.prio ≠ r.prio) || !x.reserving) &&
    hs.all (fun x => decide (x.prio ≠ r.prio) || !waited x || decide (r.seq ≤ x.seq))

/-- A reserving record of at least a candidate's priority, other than itself, keeps it out: one that RECORD_RESERVING has marked, or one
that has waited its 2^24 cycles and would be marked now (R281). -/
def keptOut (s : State) (hs : List FRec) (c : Cand) : Bool :=
  hs.any (fun r => (r.reserving || s.mayReserve hs r) && decide (r.prio ≥ c.prio) && decide (c ≠ .record r))

/-- ADMISSION (R280): the first candidate that can be admitted is. -/
def admission (s : State) : State :=
  let hs := s.heads
  ((s.candidates.filter (fun c => !s.keptOut hs c)).findSome? s.letIn).getD s

/-- RECORD_RESERVING (R281). -/
def reserveRecord (s : State) (seq : Nat) : State :=
  let hs := s.heads
  match hs.find? (fun r => r.seq = seq) with
  | none => s
  | some r =>
    if s.mayReserve hs r then { s with pool := s.pool.map (fun x => if x.seq = seq then { x with reserving := true } else x) }
    else s

/-- Records considered for the first time start to wait (R281). -/
def consider (s : State) : State :=
  let hs := s.heads
  { s with pool := s.pool.map (fun x =>
      if x.since.isNone && hs.any (fun r => r.seq = x.seq) then { x with since := some s.clock } else x) }

/-- COPY_RECORD_RUN (R279): the block captured by the check goes to the streamer that owns its source, with RNE. -/
def runCopy (s : State) (seq : Nat) : State :=
  match s.copies.find? (fun c => c.seq = seq && !c.sent) with
  | none => s
  | some c =>
    let s : State := { s with copies := s.copies.map (fun x => if x.seq = seq then { x with sent := true } else x) }
    s.sendRequest { kind := copyKind (recKind c.words), blk := c.words.drop 8, ticket := 0, tag := 0, core := 0, ctx := 0,
                    gang := none, tenant := some c.tenant, rm := 0, sc := 0, host := some seq, step := 0 }

/-! ## LAUNCH and LTRIG (R286, R290, R291) -/

/-- A checked record joins the gang's device queue, or is held in a replayable superstep, or is discarded in an aborting gang
(R286, R290, R302). -/
def appendLaunch (s : State) (d : Reg) (nb : Bool) (h : Nat) (g : Gang) (w : List Word) : State :=
  if g.stat = .aborting then s.finish d Val.zero
  else if g.devq.length + g.heldRec.length ≥ 16 then
    if nb then s.finish d ⟨1, false⟩ else s.raiseTrap Cause.queueFull 16
  else if g.replay then (s.modGang h (fun g => { g with heldRec := g.heldRec ++ [w] })).finish d Val.zero
  else (s.queueRecord h g w).finish d Val.zero

/-- LAUNCH (R290). A supervisor thread has no tenant, so its record fails as R295 says of one whose tenant is not defined; the
manual states no s.tval (log 11). The record and what the check reads behind it are read after what the thread and the scheduler meet
of published accesses (R262 row 2, R269). -/
def launch (s : State) (d a : Reg) (nb : Bool) : State :=
  let ad := (s.reg a).v
  if (s.reg a).p then s.raisePoison
  else s.afterPublished (fun s =>
    if ad.toNat % 64 ≠ 0 then s.raiseTrap Cause.misaligned ad
    else match s.checkGlobal .load ad.toNat with
      | .error c => s.raiseTrap c ad
      | .ok (pa, s) =>
        match s.me.gang?, s.gangOf s.me with
        | some h, some g =>
          let w := (List.range 8).map (fun i => s.physWord (pa + 8 * i))
          let psn := (List.range 8).any (fun i => s.physPoison (pa + 8 * i))
          match s.checkRecord g.tenant w psn true with
          | .ok w => s.appendLaunch d nb h g w
          | .error (1, i) => s.raiseTrap Cause.range i
          | .error (2, _) => s.raiseTrap Cause.poisonConsumed ad
          | .error (4, va) => s.raiseTrap Cause.pageFault va
          | .error (_, i) => s.raiseTrap Cause.tenant i
        | _, _ => s.raiseOpen Cause.tenant)

/-- LTRIG (R291): a release; the thread is triggered, at once or at the sealing collective. -/
def trigger (s : State) : State :=
  s.afterAccesses .dev (fun s =>
    let s := if s.inReplay then s.modMe (fun t => { t with trigHeld := true }) else s.modMe (fun t => { t with trig := true })
    let s := s.retire
    match s.gangOf s.me with
    | some g => s.checkTrigger g.launch
    | none => s)

end State

/-! ## Instructions and events -/

/-- LAUNCH (R290). -/
def execLaunch (d a : Reg) (nb : Bool) (s : State) : Out := .next (s.launch d a nb)

/-- LTRIG (R291). -/
def execLtrig (s : State) : Out := .next s.trigger

/-- QUEUE_ENABLE_WRITE (R273). -/
def execQueueEnableWrite (q : Nat) (v : Word) (s : State) : Out := .next (s.writeEnable q v)

/-- QPROD_WRITE (R275). -/
def execQprodWrite (q : Nat) (v : Word) (s : State) : Out := .next (s.writeProd q v)

/-- QUEUE_ERR_CLEAR (R276). -/
def execQueueErrClear (q : Nat) (s : State) : Out := .next (s.clearErr q)

/-- RECORD_FETCH (R274). -/
def execRecordFetch (q : Nat) (s : State) : Out := .next (s.fetchRecord q)

/-- ADMISSION (R280). -/
def execAdmission (s : State) : Out := .next s.admission

/-- RECORD_RESERVING (R281). -/
def execRecordReserving (seq : Nat) (s : State) : Out := .next (s.reserveRecord seq)

/-- COPY_RECORD_RUN (R279). -/
def execCopyRecordRun (seq : Nat) (s : State) : Out := .next (s.runCopy seq)

end Sys2Proof.Machine
end

