-- ==== Sys2Proof/Machine/Gang.lean ====
section
/-! DEFINITION. The life of a gang (spec/16): start, retirement, abort, pre-emption, swapping and restore, tenants. -/

set_option linter.constructorNameAsVariable false

namespace Sys2Proof.Machine

/-! ## Thread targets (R310) -/

/-- What a thread target resolves to. -/
inductive Target where
  | guarded
  | missing
  | found (c k : Nat)
deriving DecidableEq, Repr

namespace State

/-- The owner of a context as a thread target sees it (R310): a gang that is swapping or restoring holds no core. -/
def heldBy (s : State) (t : Thread) : Owner :=
  match s.gangOf t with
  | some g => if g.stat = .swapping ∨ g.stat = .restoring then .none else t.owner
  | none => t.owner

/-- A thread target as it stands (R310): the guard first, then the context. -/
def target (s : State) (w : Word) : Target :=
  let c := natBits 0 14 w
  let k := natBits 14 6 w
  let t := s.thread c k
  if bit 30 w && decide (s.heldBy t ≠ .gang (natBits 20 10 w)) then .guarded
  else if t.stat = .free ∨ s.heldBy t = .none then .missing
  else .found c k

/-- The checks of a supervisor instruction whose operand is a thread target: poison, then a bit outside its fields (R309, R330,
R331); a target that is not found answers in D. -/
def onTarget (s : State) (d a : Reg) (k : State → Nat → Nat → State) : State :=
  let w := (s.reg a).v
  if (s.reg a).p then s.raisePoison
  else if bits 31 33 w ≠ 0 then s.raiseTrap Cause.range w
  else match s.target w with
    | .guarded => s.finish d ⟨3, false⟩
    | .missing => s.finish d ⟨1, false⟩
    | .found c x => k s c x

/-! ## Gang start (R300) -/

/-- Bytes of physical memory become zero, unpoisoned; their lines are taken from their owners (R159). -/
def zeroPhys (s : State) (base size : Nat) : State :=
  let s := s.takeRange none base size
  { s with mem := { bytes := s.mem.bytes.filter (fun e => !(decide (base ≤ e.1) && decide (e.1 < base + size)))
                    psn := s.mem.psn.filter (fun e => !(decide (base ≤ 8 * e.1) && decide (8 * e.1 < base + size))) } }

/-- What the swap image of a gang puts into its tenant's pool beside the context records is a free value, word by word: R305 and R306 give it
a place and a size and no layout of its bytes (log 18). -/
def scribble (s : State) (base size : Nat) : State :=
  let s := s.zeroPhys base size
  let byte (i : Nat) : Byte := (Config.freeWord (s.fresh + i / 8)).extractLsb' (8 * (i % 8)) 8
  { s with mem := s.mem.writeBytes base ((List.range size).map byte), fresh := s.fresh + (size + 7) / 8 }

end State

/-- A span as gang start leaves it (R300 step 1, R238). The deferred lists are emptied whoever waits in them: a supervisor thread that does
loses its slot and stays PARKED, for R300 and R155 name no other effect on it (DESIGN CHOICE, log 42). -/
def Span.cleared (x : Span) : Span :=
  { x with sp := .empty, empties := [], slots := [], overflow := [], bars := [], mutexes := [], lines := [], reported := false,
           journal := [] }

/-- The tables of a core as gang start leaves them: the team's cleared, with the images committed to theirs (R103, R288). -/
def startTables (x : Core) (h : Nat) (images : List (Nat × List Word)) : SMap Table :=
  let mine := (x.tables.filter (fun e => decide (e.2.owner = .gang h))).map (·.1)
  let entries (img : List Word) : SMap TEntry := (List.range 64).foldl (fun m i =>
    SMap.set TEntry.never m i ⟨blkWord img (3 * i), blkWord img (3 * i + 1), blkWord img (3 * i + 2)⟩) []
  let cleared := mine.foldl (fun m n => m.put n { Table.free with owner := .gang h }) x.tables
  images.foldl (fun m y => match mine[y.1]? with
    | some n => m.put n { owner := .gang h, active := entries y.2, shadow := entries y.2, gen := 1, busy := none }
    | none => m) cleared

/-- A context of a core is a supervisor thread's: a gang that comes or goes leaves it and its work alone (R92). -/
def Core.isSup (x : Core) (k : Nat) : Bool := decide ((x.threads.get Thread.free k).owner = .sup)

/-- A core as gang start leaves it (R300 step 2). -/
def Core.cleared (x : Core) (h : Nat) (images : List (Nat × List Word)) : Core :=
  { x with wbuf := .empty, abuf := .empty, cbuf := .empty, mail := [], ticket := 0, tables := startTables x h images,
           rings := [], vec := x.vec.filter (fun j => x.isSup j.ctx), mx := .start, cancel := false,
           drawQ := x.drawQ.filter x.isSup, convoy := [], unissued := [], journal := [], keptMail := [], keptPost := [] }

namespace State

/-- The first threads of a gang on a core start (R90). -/
def startTeam (s : State) (h : Nat) (g : Gang) (c : Nat) : State :=
  ((ctxsOf (s.coreAt c) h).take g.start).foldl (fun s k =>
    (s.setThread c k (Thread.start (.gang h) false ⟨g.arg, false⟩ 0 g.rm g.dkey 0)).enterBlock c k g.entry none true none) s

/-! ## Abort (R302, R310) -/

/-- The launch of a gang posts neither its DCT nor a TCT that is still due (R302). -/
def markAborted (s : State) (launch : Nat) : State :=
  { s with launches := s.launches.map (fun l => if l.id = launch then { l with aborted := true } else l) }

/-- Held requests are gone and their reservations freed (R218, R302, R326), and with them held LAUNCH records, those of a gang that retires
without a sealing collective among them, of which R290 does not speak (DESIGN CHOICE, log 18). -/
def dropHeld (s : State) (h : Nat) (g : Gang) : State :=
  let s := g.held.foldl (fun s q => (s.modCore q.core (fun x => { x with reserved := x.reserved - 1 })).modThread q.core q.ctx
    (fun t => { t with kicks := t.kicks.filter (· ≠ q.ticket) })) s
  s.modGang h (fun g => { g with held := [], heldRec := [] })

/-- Held requests are discarded (R218, R302). An XDRAIN that waits for no other kick then ends: no rule says what becomes of it (DESIGN
CHOICE, log 18). -/
def discardHeld (s : State) (h : Nat) (g : Gang) : State :=
  g.held.foldl (fun s q => s.kickPosted q.core q.ctx q.ticket) (s.dropHeld h g)

/-- The records of a device queue are discarded (R286). -/
def discardQueue (s : State) (h : Nat) : State :=
  ({ s with pool := s.pool.filter (fun r => decide (r.dev ≠ some h)) } : State).modGang h (fun g => { g with devq := [] })

/-- An abort of a running or halting gang acts on every thread (R302): its waits end with ABORT, locks in a mutex's queue among them,
and then TRAPPED and HALTED threads become DONE (R249). -/
def abortRunning (s : State) (h : Nat) (g : Gang) : State :=
  let s := ((s.discardHeld h g).discardQueue h).markAborted g.launch
  let s := s.modGang h (fun g => { g with stat := .aborting })
  let s := s.statusReaches (s.threadsOn h g.cores) 7
  (s.threadsOn h g.cores).foldl (fun s x =>
    let t := s.thread x.1 x.2
    if t.stat = .trapped ∨ t.stat = .halted then s.makeDone x.1 x.2 else s) s

/-! ## Retirement (R301) -/

end State

/-- A core that a gang leaves: its contexts, tables and register-cache entries return to the core, and the mailbox entries that its
held requests had reserved (R301, R305). -/
def Core.released (x : Core) (h held : Nat) : Core :=
  let other (e : Nat) : Bool := decide ((x.threads.get Thread.free (e / 64)).owner ≠ .gang h)
  { x with threads := x.threads.filter (fun e => decide (e.2.owner ≠ .gang h))
           tables := x.tables.filter (fun e => decide (e.2.owner ≠ .gang h))
           mail := [], reserved := x.reserved - held, ticket := 0, rings := [], vec := x.vec.filter (fun j => x.isSup j.ctx),
           mx := .start, cancel := false, drawQ := x.drawQ.filter x.isSup, resident := x.resident.filter other,
           evicted := x.evicted.filter other, convoy := [], unissued := [], journal := [], keptMail := [], keptPost := [] }

/-- Held requests of a gang that come from a core (R218). -/
def Gang.heldOn (g : Gang) (c : Nat) : Nat := g.held.countP (fun q => decide (q.core = c))

namespace State

/-- Parts of a tenant's pool are given back. -/
def freePool (s : State) (tenant : Nat) (parts : List (Nat × Nat)) : State :=
  match s.tenantAt tenant with
  | some t =>
    let t : Tenant := { t with used := t.used.filter (fun u => !parts.contains (t.cpool + u.1, u.2)) }
    { s with tenants := s.tenants.put tenant t }
  | none => s

/-- A gang of a launch is gone; with the last one the launch completes: the trigger post if it is still due, then the DCT
(R282, R284), but neither after an abort (R302). -/
def launchLeft (s : State) (h id : Nat) : State :=
  let s : State := { s with launches := s.launches.map (fun l =>
    if l.id = id then { l with handles := l.handles.filter (· ≠ h), waiting := l.waiting.filter (· ≠ h) } else l) }
  match s.launches.find? (fun l => l.id = id) with
  | none => s
  | some l =>
    if l.handles.isEmpty then
      let s : State := { s with launches := s.launches.filter (fun x => decide (x.id ≠ id)) }
      let s := if l.aborted then s
        else
          let s := if l.trigged then s else s.postField l.tenant id (blkWord l.words 6) 32
          s.postField l.tenant id (blkWord l.words 6) 0
      s.submittedDone id
    else s

/-- A gang retires (R301): its device queue's records move to the tenant's pool, its pages are released in order (R342), its
group is told (R348), its pool space, slots and handle are freed, and its launch is told. -/
def retireGang (s : State) (h : Nat) (g : Gang) : State :=
  let s : State := { s with pool := s.pool.map (fun r => if r.dev = some h then { r with dev := none } else r) }
  let s := g.refs.foldl (fun s r => s.dropRef g.tenant r) s
  let s := s.siblingRetired g
  let s := s.freePool g.tenant (g.recs :: g.reserve :: g.extra)
  let s : State := { s with gangs := s.gangs.erase h, cancels := s.cancels.filter (fun x => decide (x.gang ≠ h))
                            pend := s.pend.map (fun p => { p with list := p.list.filter (fun x => decide (x.gang ≠ h)) }) }
  s.launchLeft h g.launch

/-- A deferred slot, or a place in an overflow order, that a supervisor thread holds (R92). -/
def supSlot (s : State) (x : Slot) : Bool := decide ((s.thread x.core x.ctx).owner = .sup)

/-- A gang leaves a span: its deferred slots go with it, those of supervisor threads stay, and what waited for room is retried (R153,
R301). -/
def leaveSpan (s : State) (n : Nat) : State :=
  (s.modSpan n (fun x => { x with gang := none, reported := false, slots := x.slots.filter s.supSlot, overflow := x.overflow.filter s.supSlot,
                                  journal := [] })).retrySpan n

/-- The cores and spans of a gang are left. -/
def leavePlace (s : State) (h : Nat) (g : Gang) : State :=
  let s := g.cores.foldl (fun s c => s.modCore c (fun x => x.released h (g.heldOn c))) s
  g.spans.foldl leaveSpan s

/-- A draining or aborting gang can retire (R299, R301): its contexts are all free, its requests have all completed, and its posts
have been performed, as the release of its completion covers them (R282). -/
def retirable (s : State) (h : Nat) (g : Gang) : Bool :=
  (decide (g.stat = .draining) || decide (g.stat = .aborting)) && !s.gangRequests h && s.posts.all (fun p => decide (p.gang ≠ some h)) &&
    (s.threadsOn h g.cores).all (fun x => decide ((s.thread x.1 x.2).stat = .free))

/-- GANG_RETIRE (R301). -/
def tryRetire (s : State) (h : Nat) : State :=
  match s.gangAt h with
  | none => s
  | some g => if s.retirable h g then (s.discardHeld h g).leavePlace h { g with held := [] } |>.retireGang h g else s

/-- A swapped gang is aborted without being restored (R310). -/
def abortSwapped (s : State) (h : Nat) (g : Gang) : State :=
  ((s.discardQueue h).markAborted g.launch).retireGang h { g with devq := [] }

/-- An abort of a gang (R299, R302, R310, R329): at once, or when its start, swap, restore or rollback has ended. A draining gang
goes on as it is: the earlier event decides. -/
def abortGang (s : State) (h : Nat) : State :=
  match s.gangAt h with
  | none => s
  | some g =>
    let later := s.modGang h (fun g => { g with abortLate := true })
    match g.stat with
    | .running | .halting => if g.rolling then later else s.abortRunning h g
    | .starting | .swapping | .restoring => later
    | .swapped => s.abortSwapped h g
    | .draining | .aborting | .retired => s

/-- An abort that waited acts (R310, R329). -/
def abortIfLate (s : State) (h : Nat) : State :=
  match s.gangAt h with
  | some g => if g.abortLate then (s.modGang h (fun g => { g with abortLate := false })).abortGang h else s
  | none => s

/-- GANG_START (R300): nothing of the gang issues before its end. -/
def startGang (s : State) (h : Nat) : State :=
  match s.gangAt h with
  | none => s
  | some g =>
    if g.stat = .starting then
      let s := g.spans.foldl (fun s n => s.modSpan n Span.cleared) s
      let s := g.cores.foldl (fun s c => s.modCore c (fun x => x.cleared h g.images)) s
      let s := s.zeroPhys g.recs.1 g.recs.2
      let s := s.modGang h (fun g => { g with stat := .running, images := [] })
      let s := g.cores.foldl (fun s c => s.startTeam h g c) s
      let s : State := { s with launches := s.launches.map (fun l =>
        if l.id = g.launch then { l with waiting := l.waiting.filter (· ≠ h) } else l) }
      ((s.deliverCancel h g).checkTrigger g.launch).abortIfLate h
    else s

/-! ## Rollback to a snapshot (R304, R323, R326) -/

end State

/-- A message is the completion of a request (R211 KIND). -/
def Msg.isCompletion (m : Msg) : Bool := decide (1 ≤ natBits 21 3 m.header) && decide (natBits 21 3 m.header ≤ 3)

/-- A context rolled back to its snapshot: a halt that was requested meanwhile stays requested, and kicks that were in flight
then have completed. Its age starts at 0 here, as it enters READY (R87): whether the age of the snapshot goes on, R100 does not say
(DESIGN CHOICE, log 42). -/
def Thread.rolledBack (old cur : Thread) (clock : Nat) : Thread := { old with haltReq := cur.haltReq, kicks := [], age := clock }

/-- A core rolled back to its snapshot (R322, R323): supervisor threads and tables, what the tenant owns and what a cancel has set
stay; counters and the mailbox keep what came from outside the gang since the snapshot, for a later rollback to it as well. A register
that its record held at the snapshot is held there again (R96). A refresh or clear of a table that was under way at the snapshot is
under way again and ends anew (R112 and R322 do not say), and so does a matrix instruction that was accepted before the snapshot and had
not completed, which a plain superstep before it allows (R191 does not say; DESIGN CHOICE, log 42). -/
def Core.rolledBack (cur old : Core) (h clock : Nat) : Core :=
  let mine (o : Owner) : Bool := decide (o = .gang h)
  let written := old.evicted.filter (fun e => mine (old.threads.get Thread.free (e / 64)).owner)
  { cur with
    threads := (old.threads.filter (fun e => mine e.2.owner)).foldl (fun m e =>
      m.put e.1 (e.2.rolledBack (cur.threads.get Thread.free e.1) clock)) cur.threads
    wbuf := old.wbuf, abuf := old.abuf, cbuf := old.cbuf
    counters := (old.counters.map (·.1) ++ cur.keptPost.map (·.1)).foldl (fun m i =>
      m.set 0 i (old.counters.get 0 i + cur.keptPost.get 0 i)) []
    mail := old.mail ++ cur.keptMail
    ticket := old.ticket
    tables := (old.tables.filter (fun e => mine e.2.owner)).foldl (fun m e => m.put e.1 e.2) cur.tables
    rings := old.rings, mx := old.mx, drawQ := cur.drawQ.filter cur.isSup, convoy := [], unissued := [], journal := []
    evicted := cur.evicted.filter (fun e => cur.isSup (e / 64)) ++ written
    resident := cur.resident.filter (fun e => !written.contains e) }

/-- A span rolled back to its snapshot (R322). Deferred slots of supervisor threads, which a test names, are no part of the gang's state
and stay, behind the gang's (R92). -/
def Span.rolledBack (cur old : Span) (sup : Slot → Bool) : Span :=
  let merge (old cur : List Slot) : List Slot := old.filter (fun x => !sup x) ++ cur.filter sup
  { cur with sp := old.sp, empties := old.empties, slots := merge old.slots cur.slots, overflow := merge old.overflow cur.overflow,
             bars := old.bars, mutexes := old.mutexes, lines := old.lines, reported := false, journal := [] }

namespace State

/-- Words of context records that write-backs have changed since a gang's snapshot are as they stood then (R96, R322). -/
def restoreRecords (s : State) (h : Nat) (img : Image) : State :=
  (img.recs.foldl (fun s e => s.setPhysWord e.1 e.2) s).modGang h (fun g => { g with snap := some { img with recs := [] } })

/-- A gang's superstep is rolled back to the snapshot of its opening collective; held work is discarded (R304, R326). A record that waits
for a counter of the gang's cores, and has passed its test, has passed it (R280). -/
def rollGang (s : State) (h : Nat) (g : Gang) : State :=
  match g.snap with
  | none => s
  | some img =>
    let s := (s.dropHeld h g).latchWaits (fun c _ => g.cores.contains c)
    let s := g.cores.foldl (fun s c => s.modCore c (fun x => x.rolledBack (img.cores.get Core.idle c) h s.clock)) s
    let s := g.spans.foldl (fun s n => s.modSpan n (fun x => x.rolledBack (img.spans.get Span.idle n) s.supSlot)) s
    g.spans.foldl (fun s n => s.retrySpan n) (s.restoreRecords h img)

/-! ## Pre-emption (R303 to R306) -/

/-- Every thread of a gang is at an instruction boundary or waits with no effect yet; accepted vector and matrix work, refreshes of
tables, accesses, posts and requests are complete (R112, R304, R326). -/
def halted (s : State) (h : Nat) (g : Gang) : Bool :=
  !s.gangRequests h && s.posts.all (fun p => decide (p.gang ≠ some h)) &&
    (s.threadsOn h g.cores).all (fun x =>
      let t := s.thread x.1 x.2
      !mustRetire t && t.out.isEmpty) &&
    g.cores.all (fun c =>
      let x := s.coreAt c
      x.vec.all (fun j => x.isSup j.ctx) && x.mx.seq.isEmpty &&
        x.tables.all (fun e => decide (e.2.owner ≠ .gang h) || e.2.busy.isNone))

/-- An issued instruction that waits with no effect yet is withdrawn; its position stays at the instruction (R304, R319). -/
def withdrawIssued (s : State) (c k : Nat) : State :=
  if (s.thread c k).stat = .issued then
    (s.withdrawWait c k).modThread c k (fun t => t.readied s.clock)
  else s

/-- Every issued instruction of a gang that waits is withdrawn. -/
def withdrawAll (s : State) (h : Nat) (g : Gang) : State := (s.threadsOn h g.cores).foldl (fun s x => s.withdrawIssued x.1 x.2) s

/-- An instruction that a halt withdraws at once: it waits with no effect yet for what need not come (R304). XDRAIN waits for
requests, which complete (R235). -/
def withdraws (t : Thread) : Bool :=
  match t.stat, t.wait with
  | .issued, .drain _ _ => false
  | .issued, _ => !mustRetire t
  | _, _ => false

/-- The first step of a halt (R304, R326): the BROTs and MMA2s that have not begun are undone, so that accepted work behind them can
complete (R191), and instructions that wait with no effect yet are withdrawn. -/
def bringToHalt (s : State) (h : Nat) (g : Gang) : State :=
  let s := g.cores.foldl undoPartners s
  (s.threadsOn h g.cores).foldl (fun s x => if withdraws (s.thread x.1 x.2) then s.withdrawIssued x.1 x.2 else s) s

/-- The die of a span (R9). -/
def dieOf (span : Nat) : Nat := span / 16 / 8 * 2 + span % 16 / 8

/-- Free slots of a die's swap region (R306). -/
def freeSlots (s : State) (die : Nat) : Nat :=
  16 - (s.gangs.flatMap (fun e => e.2.slots)).countP (fun n => decide (dieOf n = die))

/-- The spans of a gang that get a caisson slot (R306). -/
def slotSpans (s : State) (g : Gang) : List Nat :=
  (List.range 4).flatMap (fun die => (g.spans.filter (fun n => decide (dieOf n = die))).take (s.freeSlots die))

/-- A pre-emption is accepted, if the swap space of R306 can be had. -/
def acceptPreempt (s : State) (h : Nat) (g : Gang) (post : List Nat) : Option State :=
  match s.tenantAt g.tenant with
  | none => none
  | some t =>
    let slots := s.slotSpans g
    match poolTake (t.cpmb * 2 ^ 20) (List.replicate (g.spans.length - slots.length) (8 * 2 ^ 20)) t.used with
    | none => none
    | some (offs, used) =>
      let s : State := { s with tenants := s.tenants.put g.tenant { t with used := used } }
      some (s.modGang h (fun g => { g with stat := .halting, slots := slots, post := post,
                                           extra := offs.map (fun o => (t.cpool + o, 8 * 2 ^ 20)) }))

/-- PREEMPT_HALT (R304): waits with no effect yet are withdrawn; once every thread stands at a boundary, a replayable superstep is
rolled back, unless the pre-emption was accepted as a rollback of it ended (R329), and the gang starts swapping. -/
def haltGang (s : State) (h : Nat) : State :=
  match s.gangAt h with
  | none => s
  | some g =>
    if g.stat = .halting && !g.rolling then
      let s := s.bringToHalt h g
      if s.halted h g then
        let s := s.withdrawAll h g
        let s := if g.replay && !g.rolled then s.rollGang h g else s
        s.modGang h (fun g => { g with stat := .swapping })
      else s
    else s

/-! ## Swapping out and in (R305, R307, R310) -/

end State

/-- A deadline as a count that remains, and a count as a deadline (R250). -/
def Wait.mapDeadline (f : Nat → Nat) : Wait → Wait
  | .bar d n p t => .bar d n p (t.map f)
  | .line d n x t => .line d n x (t.map f)
  | .none => .none
  | .stall w => .stall w
  | .mailbox d t m => .mailbox d t m
  | .counter d i t b => .counter d i t b
  | .mutex d n => .mutex d n
  | .collective d w => .collective d w
  | .ballot d b => .ballot d b
  | .ring => .ring
  | .take d a => .take d a
  | .fill a v => .fill a v
  | .draw => .draw
  | .drain d n => .drain d n

/-- State codes of R87. -/
def TStat.ofCode (n : Nat) : Option TStat :=
  match n with
  | 0 => some .free
  | 1 => some .ready
  | 2 => some .issued
  | 3 => some .parked
  | 4 => some .trapped
  | 5 => some .halted
  | 6 => some .done
  | _ => none

/-- A context as a restore leaves it: what its record holds now, over what the image holds beside it (R307, R310). A state
written into the record takes effect; a wait that it names without having one is not taken up (log 18). -/
def Thread.restored (t : Thread) (rec : Nat → Word) : Thread :=
  let x := t.loadRecord rec
  let same := decide (x.pcBlk = t.pcBlk) && decide (x.pcOff = t.pcOff)
  let x : Thread := if same then { x with loaded := t.loaded } else { x with hashOk := decide (x.pcOff = 0), hash := hashStart, written := 0, haltAt := none }
  match TStat.ofCode (natBits 8 3 (rec 64)) with
  | none => x
  | some st =>
    if st = t.stat ∨ st = .issued ∨ st = .parked then x
    else { x with stat := st, held := none, wait := .none }

namespace State

/-- The image of a core that a gang leaves: the team's contexts and tables, and what stands beside them (R305). -/
def coreImage (s : State) (h c : Nat) : Core :=
  let x := s.coreAt c
  { x with
    threads := SMap.mapVals (fun _ (t : Thread) => { t with wait := t.wait.mapDeadline (fun d => d - s.clock) })
      (x.threads.filter (fun e => decide (e.2.owner = .gang h)))
    tables := x.tables.filter (fun e => decide (e.2.owner = .gang h))
    vec := [], drawQ := x.drawQ.filter (fun k => !x.isSup k)
    counters := [], supRings := [], supTicket := 0, reserved := 0, tlb := [], icache := [], resident := [], evicted := []
    convoy := [], unissued := [], owned := [], predictor := [] }

/-- What a gang's contexts have in their records alone comes back (R95), and the records are written whole (R96, R305). -/
def writeRecords (s : State) (h : Nat) (g : Gang) : State :=
  g.cores.foldl (fun s c =>
    let s := (s.coreAt c).evicted.foldl (fun s e => s.fillRegister c e) s
    let ks := ctxsOf (s.coreAt c) h
    ks.foldl (fun s k => s.setPhysWords (g.recordAddr ks c k) ((List.range 128).map (s.thread c k).recordWord)) s) s

/-- The counters that wait for a pre-emption or a restore are posted (R309). -/
def sendPosts (s : State) (cts : List Nat) : State := cts.foldl (fun s ct => s.sendPost none none none ct 1) s

/-- SWAP_OUT (R305): the image is written, the spans are freed, and the counter of the request is posted (R309). A cancel that has
reached a core is recorded for the restore (R357). The records are written to memory word by word. The other parts that go to the pool
(shadow banks and the device queue to the gang's reserve, the caisson part of a span without a slot to the space taken for it) leave free
values there, and what they hold stands in the gang's image, which a restore reads (log 18). -/
def swapOut (s : State) (h : Nat) : State :=
  match s.gangAt h with
  | none => s
  | some g =>
    if g.stat = .swapping then
      let s := (g.reserve :: g.extra).foldl (fun s x => s.scribble x.1 x.2) (s.writeRecords h g)
      let img : Image := { cores := g.cores.map (fun c => (c, s.coreImage h c))
                           spans := s.spans.filter (fun e => g.spans.contains e.1), recs := [] }
      let pending := g.cores.any (fun c => (s.coreAt c).cancel)
      let s := (s.leavePlace h g).modGang h (fun g =>
        { g with stat := .swapped, image := some img, post := [], rolling := false, rolled := false, cxlLate := g.cxlLate || pending })
      (s.sendPosts g.post).abortIfLate h
    else s

/-- A core taken back by a restored gang; the next words of its threads are fetched (R87). The age of its READY threads starts at 0 here: whether an age goes on over a swap, R100 does not
say (DESIGN CHOICE, log 42). -/
def restoreCore (s : State) (h : Nat) (g : Gang) (img : Image) (c : Nat) : State :=
  let old := img.cores.get Core.idle c
  let ks := ctxsOf old h
  let word (k i : Nat) : Word := s.physWord (g.recordAddr ks c k + 8 * i)
  let clock := s.clock
  let s := s.modCore c (fun x =>
    { x with
      threads := old.threads.foldl (fun m e =>
        let t := e.2.restored (word e.1)
        m.put e.1 { t with wait := t.wait.mapDeadline (fun r => clock + r), age := clock, code := none }) x.threads
      wbuf := old.wbuf, abuf := old.abuf, cbuf := old.cbuf, mail := old.mail, reserved := x.reserved + g.heldOn c, ticket := old.ticket
      keptMail := old.keptMail, keptPost := old.keptPost
      tables := ((old.tables.map (·.2)).zip ((x.tables.filter (fun e => decide (e.2.owner = .gang h))).map (·.1))).foldl
        (fun m e => m.put e.2 e.1) x.tables
      rings := old.rings, mx := old.mx, drawQ := x.drawQ ++ old.drawQ })
  ks.foldl (fun s k => if (s.thread c k).stat = .parked then s.prefetch c k ((s.thread c k).pcOff + 1) else s.primed c k) s

/-- The parked CWAITs of a gang's cores are tested: a counter may have reached a target while the gang was away (R234, R295). -/
def retestCounters (s : State) (cores : List Nat) : State :=
  cores.foldl (fun s c => ((s.coreAt c).threads.map (·.2)).foldl (fun s t => match t.stat, t.wait with
    | .parked, .counter _ i _ _ => s.retestCounter c i
    | _, _ => s) s) s

/-- SWAP_IN (R307). Slots that supervisor threads have taken in its spans meanwhile stay behind the gang's, even where a bank then holds more
than 64, and a wait of theirs is not tried against the restored full/empty bits: R153 and R155 do not say (DESIGN CHOICE, log 42).
Every part is read back, the stall timer is 0, a cancel or an abort that waited acts before any thread
issues (R310, R357), waits whose condition came true meanwhile end (R234, R356), and the counter of the request is posted (R309). -/
def swapIn (s : State) (h : Nat) : State :=
  match s.gangAt h with
  | none => s
  | some g =>
    match g.image with
    | none => s
    | some img =>
      if g.stat = .restoring then
        let s := g.cores.foldl (fun s c => s.restoreCore h g img c) s
        let s := g.spans.foldl (fun s n => s.modSpan n (fun x => { x.rolledBack (img.spans.get Span.idle n) s.supSlot with gang := some h })) s
        let s := (g.spans.foldl (fun s n => s.retrySpan n) s).freePool g.tenant g.extra
        let s := s.modGang h (fun g => { g with stat := .running, image := none, slots := [], extra := [], stall := 0, post := [] })
        let s := (s.retestCounters g.cores).deliverCancel h g
        let s := match groupIndex g with
          | some i => s.wakeBallots i
          | none => s
        ((s.sendPosts g.post).abortIfLate h).checkDrain h
      else s

/-! ## The scheduler's own pre-emption (R303) -/

end State

/-- The ways to take k elements of a list, in order. -/
def chooseFrom {α : Type} : Nat → List α → List (List α)
  | 0, _ => [[]]
  | _ + 1, [] => []
  | k + 1, x :: r => (chooseFrom k r).map (x :: ·) ++ chooseFrom (k + 1) r

namespace State

/-- A record could be placed once some gangs have left their spans (R303). -/
def wouldPlace (s : State) (r : FRec) (out : List (Nat × Gang)) : Bool :=
  let gone (o : Owner) : Bool := out.any (fun e => decide (o = .gang e.1))
  match out.foldl (fun x e => x.bind (fun s : State => s.acceptPreempt e.1 e.2 [])) (some s) with
  | none => false
  | some s =>
    let usable (n : Nat) : Bool :=
      (match (s.spanAt n).gang with
        | none => true
        | some h => out.any (fun e => decide (e.1 = h))) &&
      (spanCores n).all (fun c =>
        decide (recCtx r.words ≤ (List.range 64).countP (fun k => let t := s.thread c k
          (decide (t.stat = .free) && decide (t.owner = .none)) || gone t.owner)) &&
        decide (recTbls r.words ≤ (List.range 8).countP (fun n => let o := ((s.coreAt c).tables.get Table.free n).owner
          decide (o = .none) || gone o)))
    match s.tenantAt r.tenant with
    | none => false
    | some t => (placeGangs t r.words usable (recN r.words) []).isSome && s.slotOpen r &&
        decide (recN r.words ≤ (s.freeHandles (recN r.words)).length) &&
        (poolTake (t.cpmb * 2 ^ 20) ((List.replicate (recN r.words) (poolNeed r.words)).flatten) t.used).isSome

/-- The newest admission among some gangs. -/
def newest (out : List (Nat × Gang)) : Nat := (out.map (fun e => e.2.born)).foldl max 0

/-- The set of gangs that is pre-empted for a record: the fewest, and of those the set whose newest was admitted latest. -/
def preemptSet (s : State) (r : FRec) (from_ : List (Nat × Gang)) : Option (List (Nat × Gang)) :=
  (List.range (from_.length + 1)).findSome? (fun k =>
    ((chooseFrom k from_).filter (s.wouldPlace r)).foldl (fun best x => match best with
      | none => some x
      | some y => if newest x > newest y then some x else some y) none)

/-- The scheduler may pre-empt for a record (R303): it is reserving, its tenant's PRE is 1, and none of that tenant's gangs is on its
way out. -/
def preemptsFor (s : State) (r : FRec) : Bool :=
  r.reserving && decide (recKind r.words = 0) && (match s.tenantAt r.tenant with
    | some t => t.pre
    | none => false) && s.gangs.all (fun e => decide (e.2.tenant ≠ r.tenant) ||
      (decide (e.2.stat ≠ .halting) && decide (e.2.stat ≠ .swapping)))

/-- The gangs that the scheduler pre-empts on its own (R303), for the first record in admission order that some set of them
serves. -/
def preemptChoice (s : State) : Option (List (Nat × Gang)) :=
  s.candidates.findSome? (fun c => match c with
    | .restore _ _ _ => none
    | .record r =>
      if s.preemptsFor r then
        (s.preemptSet r (s.gangs.filter (fun e => decide (e.2.tenant = r.tenant) && decide (e.2.stat = .running) && !e.2.rolling &&
          decide (e.2.prio < r.prio)))).filter (fun out => !out.isEmpty)
      else none)

/-- SCHEDULER_PREEMPT (R303). -/
def schedulerPreempt (s : State) : State :=
  match s.preemptChoice with
  | none => s
  | some out => out.foldl (fun s e => (s.acceptPreempt e.1 e.2 []).getD s) s

/-! ## CTXSAVE, CTXLOAD, TENSET (R309, R311) -/

/-- CTXSAVE.thr (R309): a supervisor context has no record, so nothing is written for it (log 18). -/
def saveThread (s : State) (d a : Reg) : State :=
  s.onTarget d a (fun s c k =>
    if (s.thread c k).stat ≠ .halted then s.finish d ⟨1, false⟩
    else s.afterAccesses .dev (fun s =>
      let s := match s.recordOf c k with
        | some pa =>
          let s := (s.coreAt c).evicted.foldl (fun (s : State) e => if e / 64 = k then s.fillRegister c e else s) (s.meetGlobal .device pa 1024)
          s.setPhysWords pa ((List.range 128).map (s.thread c k).recordWord)
        | none => s
      s.finish d Val.zero))

/-- A context takes what its record holds (R309): a non-zero offset breaks the running hash, and offset 0 starts it afresh (R319). -/
def takeRecord (s : State) (c k pa : Nat) : State :=
  let s := s.modThread c k (fun t =>
    let x := t.loadRecord (fun i => s.physWord (pa + 8 * i))
    { x with hashOk := decide (x.pcOff = 0), hash := hashStart, written := 0, haltAt := none, entering := none })
  let s := s.modCore c (fun x => { x with evicted := x.evicted.filter (fun e => decide (e / 64 ≠ k)) })
  s.touchCore c (unitOfThread k :: [unitOfReg k 0, unitOfReg k 32]) none

/-- CTXLOAD.thr (R309): the record is read after what the thread itself has written to it (R262 row 7). -/
def loadThread (s : State) (d a : Reg) : State :=
  s.onTarget d a (fun s c k =>
    if (s.thread c k).stat ≠ .halted then s.finish d ⟨1, false⟩
    else match s.recordOf c k with
      | none => s.finish d Val.zero
      | some pa =>
        if s.mustFollow .gl pa 1024 then s.stall .order
        else ((s.meetGlobal .device pa 1024).takeRecord c k pa).finish d Val.zero)

/-- The state code of a gang (R299). -/
def gangCode (s : State) (h : Nat) : Nat :=
  match s.gangAt h with
  | none => 8
  | some g => match g.stat with
    | .starting => 0
    | .running => 1
    | .halting => 2
    | .swapping => 3
    | .swapped => 4
    | .restoring => 5
    | .draining => 6
    | .aborting => 7
    | .retired => 8

/-- CTXSAVE.gang and CTXLOAD.gang as the gang table takes them (R309): D holds the state as it was and whether the request is
accepted. A restore that is accepted starts when the gang's spans are free (R299), with the scheduler's next admissions. -/
def requestMove (s : State) (d : Reg) (h : Nat) (target : List Nat) (save : Bool) : State :=
  let done : Option State := match s.gangAt h with
    | none => none
    | some g =>
      if save then if g.stat = .running then s.acceptPreempt h g target else none
      else if g.stat = .swapped then
        let s := s.modGang h (fun g => { g with post := g.post ++ target })
        some (if s.canRestore h g then s.startRestore h g else s)
      else none
  (done.getD s).finish d ⟨BitVec.ofNat 64 (s.gangCode h + (if done.isSome then 256 else 0)), false⟩

/-- A gang is being rolled back (R326). -/
def isRolling (s : State) (h : Nat) : Bool := (s.gangAt h).any (·.rolling)

/-- CTXSAVE.gang, a release, and CTXLOAD.gang (R309, R262). A pre-emption that comes during a rollback is accepted when the rollback
ends (R329). -/
def moveGang (s : State) (d a b : Reg) (post save : Bool) : State :=
  let w := (s.reg a).v
  let ct := (s.reg b).v
  let h := natBits 0 10 w
  if (s.reg a).p || (s.reg b).p then s.raisePoison
  else if bits 10 54 w ≠ 0 then s.raiseTrap Cause.range w
  else if post && decide (bits 22 42 ct ≠ 0) then s.raiseTrap Cause.range ct
  else
    let target := if post then [natBits 0 22 ct] else []
    if save then s.afterAccesses .dev (fun s => if s.isRolling h then s.stall .order else s.requestMove d h target true)
    else s.requestMove d h target false

/-- The pre-emption requests that a rollback has held are taken as it ends, and the halt of one that is accepted adds no second rollback
(R329). -/
def takeHeldRequests (s : State) (h : Nat) : State :=
  State.modGang (((s.coreAt 0).threads.map (·.1)).foldl (fun s k =>
    match (s.thread 0 k).stat, (s.thread 0 k).wait, (s.thread 0 k).held with
    | .issued, .stall .order, some (.ctxsaveGang d a b post) =>
      let x : State := { s with core := 0, ctx := k }
      if x.me.owner = .sup ∧ natBits 0 10 (x.reg a).v = h then { x.moveGang d a b post true with core := s.core, ctx := s.ctx } else s
    | _, _, _ => s) s) h (fun g => { g with rolled := decide (g.stat = .halting) })

end State

/-- A word of a tenant record is valid (R294). -/
def tenantOk (w : List Word) : List Bool :=
  let x := blkWord w
  [decide (natBits 0 4 (x 0) + natBits 8 4 (x 0) ≤ 15) && decide (natBits 4 4 (x 0) + natBits 12 4 (x 0) ≤ 15) && decide (bits 18 46 (x 0) = 0),
    decide (bits 48 16 (x 1) = 0) && decide (natBits 0 48 (x 1) % 4096 = 0),
    decide (bits 48 16 (x 2) = 0) && decide (natBits 0 48 (x 2) % 2 ^ 21 = 0) && decide (natBits 0 48 (x 2) < Config.hbmEnd),
    decide (bits 0 32 (x 3) ≠ 0) && decide (natBits 0 48 (x 2) + natBits 0 32 (x 3) * 2 ^ 20 ≤ Config.hbmEnd) &&
      (decide (bits 32 32 (x 3) = 0) || decide (natBits 32 32 (x 3) ≥ 65536)),
    decide (x 4 = 0), decide (x 5 = 0), decide (x 6 = 0), decide (x 7 = 0)]

/-- The tenant that a record defines (R294). -/
def tenantFrom (w : List Word) : Tenant :=
  let x := blkWord w
  { sx := natBits 0 4 (x 0), sy := natBits 4 4 (x 0), sw := natBits 8 4 (x 0) + 1, sh := natBits 12 4 (x 0) + 1, pre := bit 16 (x 0),
    dbg := bit 17 (x 0), root := natBits 0 48 (x 1), cpool := natBits 0 48 (x 2), cpmb := natBits 0 32 (x 3),
    stallt := natBits 32 32 (x 3), used := [] }

namespace State

/-- A tenant holds gangs, swapped gangs or fetched records, or an enabled queue names it (R311). -/
def tenantBusy (s : State) (n : Nat) : Bool :=
  s.gangs.any (fun e => decide (e.2.tenant = n)) || s.pool.any (fun r => decide (r.tenant = n)) ||
    s.copies.any (fun r => decide (r.tenant = n)) || s.walkers.any (fun w => decide (w.tenant = n)) ||
    s.queues.any (fun e => e.2.en && decide (e.2.tenant = n))

/-- A sub-mesh shares a span with another tenant's (R311). -/
def overlapsTenant (s : State) (n : Nat) (t : Tenant) : Bool :=
  s.tenants.any (fun e => decide (e.1 ≠ n) && (List.range 256).any (fun x => t.holdsSpan x && e.2.holdsSpan x))

/-- The spans of a sub-mesh become a tenant's, and spans that it owned and does not any more become no one's (R295). -/
def ownSpans (s : State) (n : Nat) (t : Option Tenant) : State :=
  (List.range 256).foldl (fun s x =>
    if t.elim false (·.holdsSpan x) then s.modSpan x (fun y => { y with tenant := some n })
    else if (s.spanAt x).tenant = some n then s.modSpan x (fun y => { y with tenant := none })
    else s) s

/-- Everything cached of a tenant's translations is dropped (R311). -/
def flushTenant (s : State) (n : Nat) : State :=
  { s with cores := s.cores.mapVals (fun _ x => { x with tlb := x.tlb.filter (fun y => decide (y.tenant ≠ n)) })
           spans := s.spans.mapVals (fun _ x => { x with tlb := x.tlb.filter (fun y => decide (y.tenant ≠ n)) }) }

/-- A tenant is installed: the counters of its cores are 0 and its group slots FREE (R295, R311, R349). -/
def installTenant (s : State) (n : Nat) (t : Tenant) : State :=
  let s := s.ownSpans n (some t)
  let s : State := { s with cores := s.cores.mapVals (fun c x => if t.holdsSpan (spanOf c) then { x with counters := [] } else x)
                            groups := s.groups.filter (fun e => decide (e.1 / 64 ≠ n))
                            tenants := s.tenants.put n t }
  s.flushTenant n

/-- TENSET.set and TENSET.clr (R311). -/
def tenset (s : State) (d a b : Reg) (clr : Bool) : State :=
  let w := (s.reg a).v
  let pa := (s.reg b).v
  let n := natBits 0 4 w
  if (s.reg a).p || (s.reg b).p then s.raisePoison
  else if bits 4 60 w ≠ 0 then s.raiseTrap Cause.range w
  else if clr then
    s.afterPublished (fun s =>
      if s.tenantBusy n then s.finish d ⟨1, false⟩
      else (({ s.ownSpans n none with tenants := s.tenants.erase n } : State)).finish d Val.zero)
  else if pa.toNat % 64 ≠ 0 then s.raiseTrap Cause.misaligned pa
  else if !s.populatedRange pa.toNat 64 then s.raiseTrap Cause.access pa
  else s.afterPublished (fun s =>
    let x := (List.range 8).map (fun i => s.physWord (pa.toNat + 8 * i))
    if (List.range 8).any (fun i => s.physPoison (pa.toNat + 8 * i)) then s.raiseTrap Cause.poisonConsumed pa
    else match firstBad (tenantOk x) with
      | some i => s.raiseTrap Cause.range (BitVec.ofNat 64 i)
      | none =>
        let t := tenantFrom x
        if s.tenantBusy n || s.overlapsTenant n t then s.finish d ⟨1, false⟩
        else (s.installTenant n t).finish d Val.zero)

end State

/-! ## Instructions and events -/

/-- GANG_START (R300). -/
def execGangStart (h : Nat) (s : State) : Out := .next (s.startGang h)

/-- GANG_RETIRE (R301). -/
def execGangRetire (h : Nat) (s : State) : Out := .next (s.tryRetire h)

/-- PREEMPT_HALT (R304). -/
def execPreemptHalt (h : Nat) (s : State) : Out := .next (s.haltGang h)

/-- SWAP_OUT (R305). -/
def execSwapOut (h : Nat) (s : State) : Out := .next (s.swapOut h)

/-- SWAP_IN (R307). -/
def execSwapIn (h : Nat) (s : State) : Out := .next (s.swapIn h)

/-- SCHEDULER_PREEMPT (R303). -/
def execSchedulerPreempt (s : State) : Out := .next s.schedulerPreempt

/-- CTXSAVE.thr (R309). -/
def execCtxsaveThr (d a : Reg) (s : State) : Out := .next (s.saveThread d a)

/-- CTXLOAD.thr (R309). -/
def execCtxloadThr (d a : Reg) (s : State) : Out := .next (s.loadThread d a)

/-- CTXSAVE.gang (R309). -/
def execCtxsaveGang (d a b : Reg) (post : Bool) (s : State) : Out := .next (s.moveGang d a b post true)

/-- CTXLOAD.gang (R309). -/
def execCtxloadGang (d a b : Reg) (post : Bool) (s : State) : Out := .next (s.moveGang d a b post false)

/-- TENSET.set (R311). -/
def execTensetSet (d a b : Reg) (s : State) : Out := .next (s.tenset d a b false)

/-- TENSET.clr (R311). -/
def execTensetClr (d a : Reg) (s : State) : Out := .next (s.tenset d a 0 true)

end Sys2Proof.Machine
end

