-- ==== Sys2Proof/Machine/Hash.lean ====
section
/-! DEFINITION. The SM3 digest and the check of an SM2 signature, as the standards that R386 names give them (GB/T 32905 and
GB/T 32918 with the curve of part 5; log 7). -/

namespace Sys2Proof.Machine

/-- The number in some big-endian bytes. -/
def ofBytesBE (l : List Byte) : Nat := l.foldl (fun a b => 256 * a + b.toNat) 0

/-- A number as n big-endian bytes. -/
def bytesBE (n x : Nat) : List Byte := (bytesOf n x).reverse

/-! ## SM3 -/

namespace Sm3

/-- The eight words of the state. -/
structure Regs where
  a : Half
  b : Half
  c : Half
  d : Half
  e : Half
  f : Half
  g : Half
  h : Half
deriving DecidableEq, Repr

/-- The initial value. -/
def start : Regs :=
  ⟨0x7380166F, 0x4914B2B9, 0x172442D7, 0xDA8A0600, 0xA96F30BC, 0x163138AA, 0xE38DEE4D, 0xB0FB0E4E⟩

/-- Bitwise exclusive or of two states. -/
def Regs.xor (x y : Regs) : Regs :=
  ⟨x.a ^^^ y.a, x.b ^^^ y.b, x.c ^^^ y.c, x.d ^^^ y.d, x.e ^^^ y.e, x.f ^^^ y.f, x.g ^^^ y.g, x.h ^^^ y.h⟩

/-- The permutation P0. -/
def p0 (x : Half) : Half := x ^^^ x.rotateLeft 9 ^^^ x.rotateLeft 17

/-- The permutation P1. -/
def p1 (x : Half) : Half := x ^^^ x.rotateLeft 15 ^^^ x.rotateLeft 23

/-- The boolean function FF of a round. -/
def ff (j : Nat) (x y z : Half) : Half := if j < 16 then x ^^^ y ^^^ z else (x &&& y) ||| (x &&& z) ||| (y &&& z)

/-- The boolean function GG of a round. -/
def gg (j : Nat) (x y z : Half) : Half := if j < 16 then x ^^^ y ^^^ z else (x &&& y) ||| (~~~ x &&& z)

/-- The constant of a round. -/
def tj (j : Nat) : Half := if j < 16 then 0x79CC4519 else 0x7A879D8A

/-- Words of the message expansion: n more, over those made so far, newest first. -/
def expand : Nat → List Half → List Half
  | 0, w => w
  | n + 1, w =>
    let x (i : Nat) : Half := w.getD i 0
    expand n ((p1 (x 15 ^^^ x 8 ^^^ (x 2).rotateLeft 15) ^^^ (x 12).rotateLeft 7 ^^^ x 5) :: w)

/-- One round on the words W_j and W_j+4. -/
def round (j : Nat) (x : Regs) (w w4 : Half) : Regs :=
  let ss1 := (x.a.rotateLeft 12 + x.e + (tj j).rotateLeft (j % 32)).rotateLeft 7
  let ss2 := ss1 ^^^ x.a.rotateLeft 12
  let tt1 := ff j x.a x.b x.c + x.d + ss2 + (w ^^^ w4)
  let tt2 := gg j x.e x.f x.g + x.h + ss1 + w
  ⟨tt1, x.a, x.b.rotateLeft 9, x.c, p0 tt2, x.e, x.f.rotateLeft 19, x.g⟩

/-- The words of a 64-byte block. -/
def blockWords (l : List Byte) : List Half := (List.range 16).map (fun i => BitVec.ofNat 32 (ofBytesBE ((l.drop (4 * i)).take 4)))

/-- The compression of one block. -/
def compress (v : Regs) (l : List Byte) : Regs :=
  let w := (expand 52 (blockWords l).reverse).reverse
  ((List.range 64).foldl (fun x j => round j x (w.getD j 0) (w.getD (j + 4) 0)) v).xor v

/-- A message padded to whole blocks: a bit 1, zeros, and its length in bits. -/
def pad (l : List Byte) : List Byte :=
  l ++ [0x80] ++ List.replicate ((119 - l.length % 64) % 64) 0 ++ bytesBE 8 (8 * l.length)

/-- The compression of n blocks one after another. -/
def blocks : Nat → List Byte → Regs → Regs
  | 0, _, v => v
  | n + 1, l, v => blocks n (l.drop 64) (compress v (l.take 64))

end Sm3

/-- The SM3 digest of a byte string: 32 bytes. -/
def sm3 (l : List Byte) : List Byte :=
  let m := Sm3.pad l
  let v := Sm3.blocks (m.length / 64) m Sm3.start
  [v.a, v.b, v.c, v.d, v.e, v.f, v.g, v.h].flatMap (fun x => bytesBE 4 x.toNat)

/-! ## SM2 -/

namespace Sm2

/-- The prime of the field. -/
def p : Nat := 0xFFFFFFFEFFFFFFFFFFFFFFFFFFFFFFFFFFFFFFFF00000000FFFFFFFFFFFFFFFF

/-- The coefficients of the curve. -/
def a : Nat := 0xFFFFFFFEFFFFFFFFFFFFFFFFFFFFFFFFFFFFFFFF00000000FFFFFFFFFFFFFFFC

/-- The coefficients of the curve. -/
def b : Nat := 0x28E9FA9E9D9F5E344D5A9E4BCF6509A7F39789F515AB8F92DDBCBD414D940E93

/-- The order of the base point. -/
def n : Nat := 0xFFFFFFFEFFFFFFFFFFFFFFFFFFFFFFFF7203DF6B21C6052B53BBF40939D54123

/-- The base point. -/
def gx : Nat := 0x32C4AE2C1F1981195F9904466A39C9948FE30BBFF2660BE1715A4589334C74C7

/-- The base point. -/
def gy : Nat := 0xBC3736A2F4F6779C59BDCEE36B692153D0A9877CC62A474002DF32E52139F0A0

/-- A power in the field, over the bits of the exponent from bit k - 1 down. -/
def power (x e : Nat) : Nat → Nat
  | 0 => 1
  | k + 1 =>
    let y := power x (e / 2) k
    let z := y * y % p
    if e % 2 = 1 then z * x % p else z

/-- The inverse in the field (Fermat). -/
def inverse (x : Nat) : Nat := power (x % p) (p - 2) 256

/-- A difference in the field. -/
def minus (x y : Nat) : Nat := (x + p - y % p) % p

/-- A point of the curve; none is the point at infinity. -/
abbrev Point := Option (Nat × Nat)

/-- The third point of a line of a slope through two points, mirrored. -/
def chord (k x1 y1 x2 : Nat) : Point :=
  let x := minus (k * k) (x1 + x2)
  some (x, minus (k * minus x1 x) y1)

/-- The sum of two points. -/
def add (u v : Point) : Point :=
  match u, v with
  | none, v => v
  | u, none => u
  | some (x1, y1), some (x2, y2) =>
    if x1 ≠ x2 then chord (minus y2 y1 * inverse (minus x2 x1) % p) x1 y1 x2
    else if (y1 + y2) % p = 0 then none
    else chord ((3 * x1 * x1 + a) * inverse (2 * y1) % p) x1 y1 x2

/-- A multiple of a point, over k bits of the factor. -/
def times (u : Point) (e : Nat) : Nat → Point
  | 0 => none
  | k + 1 =>
    let y := times u (e / 2) k
    let z := add y y
    if e % 2 = 1 then add z u else z

/-- Coordinates below the prime that satisfy the equation of the curve. -/
def onCurve (x y : Nat) : Bool := decide (x < p) && decide (y < p) && decide (y * y % p = (x * x * x + a * x + b) % p)

/-- The default distinguishing identifier: the characters 1234567812345678. -/
def defaultId : List Byte := [0x31, 0x32, 0x33, 0x34, 0x35, 0x36, 0x37, 0x38, 0x31, 0x32, 0x33, 0x34, 0x35, 0x36, 0x37, 0x38]

/-- The digest that a signature signs: that of the signer's identifier, the curve and the key, with the message behind it. -/
def digest (key msg : List Byte) : List Byte :=
  sm3 (sm3 (bytesBE 2 128 ++ defaultId ++ [a, b, gx, gy].flatMap (bytesBE 32) ++ key) ++ msg)

end Sm2

/-- A signature, r then s in 32 bytes each, of a message verifies under a key, x then y in 32 bytes each. -/
def sm2Verify (key msg sig : List Byte) : Bool :=
  let x := ofBytesBE (key.take 32)
  let y := ofBytesBE ((key.drop 32).take 32)
  let r := ofBytesBE (sig.take 32)
  let s := ofBytesBE ((sig.drop 32).take 32)
  let t := (r + s) % Sm2.n
  decide (1 ≤ r) && decide (r < Sm2.n) && decide (1 ≤ s) && decide (s < Sm2.n) && decide (t ≠ 0) && Sm2.onCurve x y &&
    (match Sm2.add (Sm2.times (some (Sm2.gx, Sm2.gy)) s 256) (Sm2.times (some (x, y)) t 256) with
      | some u => decide ((ofBytesBE (Sm2.digest key msg) + u.1) % Sm2.n = r)
      | none => false)

end Sys2Proof.Machine
end

