-- ==== Sys2Proof/Machine/Flit.lean ====
section
/-! DEFINITION. What travels over a viaduct port (spec/24): flits with their CRC, and the compressed stream of R374. -/

set_option linter.constructorNameAsVariable false

namespace Sys2Proof.Machine

/-! ## Flits (R372) -/

/-- Eight steps of the reflected CRC-32. -/
def crcSteps : Nat → BitVec 32 → BitVec 32
  | 0, c => c
  | n + 1, c => crcSteps n (if bit 0 c then (c >>> 1) ^^^ 0xEDB88320#32 else c >>> 1)

/-- The register of the CRC after some bytes. -/
def crcBytes (c : BitVec 32) : List Byte → BitVec 32
  | [] => c
  | b :: r => crcBytes (crcSteps 8 (c ^^^ b.setWidth 32)) r

/-- CRC-32 of bytes (R372). -/
def crc32 (l : List Byte) : BitVec 32 := ~~~ crcBytes 0xFFFFFFFF#32 l

/-- Bytes padded with zeros, or cut, to a length. -/
def padTo (n : Nat) (l : List Byte) : List Byte := (l ++ List.replicate (n - l.length) 0).take n

/-- A flit with a type, a sequence number and a payload of at most 56 bytes (R372). -/
def mkFlit (type seq : Nat) (payload : List Byte) : List Byte :=
  let body := bytesOf 4 (type % 16 + seq % 4096 * 2 ^ 4 + payload.length % 64 * 2 ^ 16) ++ padTo 56 payload
  body ++ bytesOf 4 (crc32 body).toNat

/-- TYPE of a flit. -/
def flitType (f : List Byte) : Nat := ofBytes (f.take 4) % 16

/-- SEQ of a flit. -/
def flitSeq (f : List Byte) : Nat := ofBytes (f.take 4) / 2 ^ 4 % 4096

/-- The valid payload bytes of a flit. -/
def flitPayload (f : List Byte) : List Byte := ((f.drop 4).take 56).take (ofBytes (f.take 4) / 2 ^ 16 % 64)

/-- A flit of 64 bytes whose CRC is right (R372). -/
def flitGood (f : List Byte) : Bool :=
  decide (f.length = 64) && decide (ofBytes (f.drop 60) = (crc32 (f.take 60)).toNat)

/-- Words of a payload. -/
def payloadWords : Nat → List Byte → List Word
  | 0, _ => []
  | n + 1, l => BitVec.ofNat 64 (ofBytes (l.take 8)) :: payloadWords n (l.drop 8)

/-- Bytes of words. -/
def wordBytes (l : List Word) : List Byte := l.flatMap (fun w => bytesOf 8 w.toNat)

/-- Bytes cut into pieces of 56, at most n of them. -/
def pieces : Nat → List Byte → List (List Byte)
  | 0, _ => []
  | n + 1, l => if l.isEmpty then [] else l.take 56 :: pieces n (l.drop 56)

/-! ## Compression (R374) -/

/-- Differences of neighbouring words. -/
def deltas : List Word → List Word
  | a :: b :: r => (b - a) :: deltas (b :: r)
  | _ => []

/-- A word equals the sign extension of its low 8k bits. -/
def fitsBytes (k : Nat) (d : Word) : Bool := decide ((bits 0 (8 * k) d).signExtend 64 = d)

/-- The mask of the words that are not zero. -/
def maskOf : List Word → Nat
  | [] => 0
  | w :: r => (if w = 0 then 0 else 1) + 2 * maskOf r

/-- A block's encodings in the order of preference: MODE 0, MODE 1, MODE 2 with K 0, 1, 2 (R374). -/
def encodings (ws : List Word) : List (List Byte) :=
  let c := ws.length
  let tag (mode k : Nat) : List Byte := bytesOf 2 (mode + k * 4 + (c - 1) * 16)
  let delta (k n : Nat) : List (List Byte) :=
    if (deltas ws).all (fitsBytes n) then [tag 2 k ++ wordBytes (ws.take 1) ++ (deltas ws).flatMap (fun d => bytesOf n d.toNat)]
    else []
  [tag 0 0 ++ wordBytes ws, tag 1 0 ++ bytesOf 8 (maskOf ws) ++ wordBytes (ws.filter (· ≠ 0))] ++ delta 0 1 ++ delta 1 2 ++
    delta 2 4

/-- The shortest of some encodings, the first among equals. -/
def shortest : List (List Byte) → List Byte
  | [] => []
  | [x] => x
  | x :: r => if (shortest r).length < x.length then shortest r else x

/-- The compressed stream of some words, over at most n blocks of 64 words (R374). -/
def compress : Nat → List Word → List Byte
  | 0, _ => []
  | n + 1, ws => if ws.isEmpty then [] else shortest (encodings (ws.take 64)) ++ compress n (ws.drop 64)

/-- Words rebuilt from a mask and the words that are not zero. -/
def unmask (mask : Nat) : Nat → Nat → List Byte → List Word
  | 0, _, _ => []
  | n + 1, i, l =>
    if mask.testBit i then BitVec.ofNat 64 (ofBytes (l.take 8)) :: unmask mask n (i + 1) (l.drop 8)
    else 0 :: unmask mask n (i + 1) l

/-- Words rebuilt from differences of k bytes. -/
def undelta (k : Nat) (w : Word) : Nat → List Byte → List Word
  | 0, _ => []
  | n + 1, l =>
    let d : Word := (BitVec.ofNat (8 * k) (ofBytes (l.take k))).signExtend 64
    (w + d) :: undelta k (w + d) n (l.drop k)

/-- What decoding the start of a stream finds. -/
inductive Decoded where
  | block (ws : List Word) (rest : List Byte)
  /-- more bytes are needed -/
  | short
  | bad
deriving DecidableEq, Repr

/-- One block of a compressed stream (R374). -/
def decodeBlock (l : List Byte) : Decoded :=
  if l.length < 2 then .short
  else
    let t := ofBytes (l.take 2)
    let mode := t % 4
    let k := t / 4 % 4
    let c := t / 16 % 64 + 1
    let r := l.drop 2
    let take (n : Nat) (ws : List Word) : Decoded := if r.length < n then .short else .block ws (r.drop n)
    if mode = 3 || k = 3 || decide (t / 2 ^ 10 ≠ 0) || (decide (mode ≠ 2) && decide (k ≠ 0)) then .bad
    else if mode = 0 then take (8 * c) (payloadWords c r)
    else if mode = 1 then
      let mask := ofBytes (r.take 8)
      if r.length < 8 then .short
      else if mask / 2 ^ c ≠ 0 then .bad
      else take (8 + 8 * ((List.range c).countP (fun i => mask.testBit i))) (unmask mask c 0 (r.drop 8))
    else
      let w : Word := BitVec.ofNat 64 (ofBytes (r.take 8))
      take (8 + (c - 1) * 2 ^ k) (w :: undelta (2 ^ k) w (c - 1) (r.drop 8))

/-- A compressed stream of len bytes of data decoded over at most n blocks: the words so far, and whether the stream has been
read whole (some true), is bad (some false), or needs more bytes (none). -/
def decompress : (n len : Nat) → List Byte → List Word × Option Bool
  | 0, len, _ => ([], some (decide (len = 0)))
  | n + 1, len, l =>
    if len = 0 then ([], some true)
    else match decodeBlock l with
      | .short => ([], none)
      | .bad => ([], some false)
      | .block ws rest =>
        if 8 * ws.length > len then ([], some false)
        else
          let r := decompress n (len - 8 * ws.length) rest
          (ws ++ r.1, r.2)

end Sys2Proof.Machine
end

