-- ==== Sys2Proof/Machine/Link.lean ====
section
/-! DEFINITION. The viaduct ports (spec/24): training, flits, remote requests and their acknowledgements, forwards, the expert
location table, and the host's accesses to memory. -/

set_option linter.constructorNameAsVariable false

namespace Sys2Proof.Machine

/-- A header's fields (R373). -/
structure Header where
  addr   : Nat
  tenant : Nat
  expert : Nat
  len    : Nat
  exp    : Bool
  fwd    : Bool
  cmp    : Bool
  addmx  : Bool
  fmt    : Bool
  origin : BitVec 16
  num    : Half
deriving DecidableEq, Repr

namespace Header

/-- A header read from its words. -/
def ofWords (l : List Word) : Header :=
  let w := fun i => l.getD i 0
  { addr := natBits 0 48 (w 0), tenant := natBits 48 4 (w 0), expert := natBits 52 12 (w 0), len := natBits 0 32 (w 1),
    exp := bit 32 (w 1), fwd := bit 33 (w 1), cmp := bit 34 (w 1), addmx := bit 35 (w 1), fmt := bit 36 (w 1),
    origin := bits 48 16 (w 1), num := bits 0 32 (w 2) }

/-- The seven payload words of a header. -/
def words (h : Header) : List Word :=
  let b (x : Bool) (i : Nat) : Nat := if x then 2 ^ i else 0
  [BitVec.ofNat 64 (h.addr % 2 ^ 48 + h.tenant % 16 * 2 ^ 48 + h.expert % 4096 * 2 ^ 52),
   BitVec.ofNat 64 (h.len % 2 ^ 32 + b h.exp 32 + b h.fwd 33 + b h.cmp 34 + b h.addmx 35 + b h.fmt 36 + h.origin.toNat * 2 ^ 48),
   zext h.num, 0, 0, 0, 0]

end Header

/-- An expert location entry (R380). -/
structure Expert where
  wbase : Nat
  dev   : BitVec 16
  wsize : Nat
  port  : Nat
  v     : Bool
deriving DecidableEq, Repr

/-- The window of an expert entry of this device: the address to write at, or none where offset and length pass its end (R381). -/
def Expert.target (e : Expert) (offset len : Nat) : Option Nat :=
  if offset + len > 65536 * e.wsize then none else some (e.wbase + offset)

namespace State

/-- A viaduct port. -/
def portAt (s : State) (p : Nat) : Port := s.ports.get Port.reset p

/-- The state with a port changed. -/
def modPort (s : State) (p : Nat) (f : Port → Port) : State := { s with ports := s.ports.put p (f (s.portAt p)) }

/-- An entry of the expert location table. -/
def expertAt (s : State) (i : Nat) : Expert :=
  let w0 := s.loc0.get 0 i
  let w1 := s.loc1.get 0 i
  { wbase := natBits 0 48 w0, dev := bits 48 16 w0, wsize := natBits 0 24 w1, port := natBits 24 5 w1, v := bit 31 w1 }

/-! ## Sending (R372, R373) -/

/-- A flit leaves a port with the next sequence number, and is kept until the partner has accepted it. -/
def sendFlit (s : State) (p type : Nat) (payload : List Byte) : State :=
  s.modPort p (fun x =>
    let f := mkFlit type x.txSeq payload
    { x with sent := x.sent ++ [f], unacked := x.unacked ++ [f], txSeq := (x.txSeq + 1) % 4096 })

/-- A credit flit leaves a port: it acknowledges what has been accepted, or asks for a retry. Its payload is a free value
(log 34). -/
def sendCredit (s : State) (p : Nat) : State :=
  ({ s with fresh := s.fresh + 1 } : State).sendFlit p 4 ((Config.creditPayload s.fresh).take 56)

/-- A request leaves a port: its header with the port's next request number, then its data (R373). The stream is compressed when
asked for and negotiated (R374, R375). -/
def sendOver (s : State) (p : Nat) (h : Header) (cmp : Bool) (ws : List Word) : State :=
  let cmp := cmp && (s.portAt p).cmp
  let h := { h with cmp := cmp, num := (s.portAt p).next }
  let data := if cmp then compress ws.length ws else wordBytes ws
  let s := s.sendFlit p 1 (wordBytes h.words)
  let s := (pieces data.length data).foldl (fun s d => s.sendFlit p 2 d) s
  s.modPort p (fun x => { x with next := x.next + 1 })

/-- An acknowledgement leaves a port (R373). -/
def sendAck (s : State) (p : Nat) (num : Half) (status : Nat) (w1 : Word) : State :=
  if (s.portAt p).stat = .active then
    s.sendFlit p 3 (wordBytes [BitVec.ofNat 64 (num.toNat + status * 2 ^ 32), w1, 0, 0, 0, 0, 0])
  else s

/-- The remote address of an XREM request as an address word of global memory. -/
def remoteWord (q : Req) : Word := zext (bits 0 48 (blkWord q.blk 1))

/-- A request leaves the streamer that runs it. -/
def leaveStreamer (s : State) (span : Nat) (q : Req) : State :=
  s.modSpan span (fun x => { x with running := x.running.erase q })

/-- An XREM request ends (R212, R376). -/
def endRemote (s : State) (span : Nat) (q : Req) (e : Ended) : State := (s.leaveStreamer span q).complete q e

/-- It ends with a failure that names its remote address. -/
def failRemote (s : State) (span : Nat) (q : Req) (status : Nat) : State :=
  s.endRemote span q ⟨status, some (remoteWord q), 0, false⟩

/-- The words of an XREM request's source from word i on, until a read fails or a word is poisoned (R213, R217). -/
def readSource (l : Loc) (remote : Nat) : Nat → Nat → Run → Run × List Word
  | 0, _, r => (r, [])
  | n + 1, i, r =>
    let x := r.rd l (l.addr + 8 * i : Nat) 8
    let r := if x.2.2 then x.1.failWith 4 (some (BitVec.ofNat 64 ((remote + 8 * i) % 2 ^ 48))) else x.1
    if r.fail.isSome then (r, [])
    else
      let y := readSource l remote n (i + 1) r
      (y.1, BitVec.ofNat 64 x.2.1 :: y.2)

/-! ## Receiving (R376, R378) -/

/-- The span whose second-level translations a port shares (R337; the first of its die, the model's choice, log 20). -/
def portSpan (p : Nat) : Nat := match p / 6 with
  | 0 => 0
  | 1 => 8
  | 2 => 128
  | _ => 136

/-- Words written at a global address, one 512-byte block at a time, each whole or not at all (R376). -/
def writeBlocks (a : Nat) : Nat → List Word → Run → Run
  | 0, _, r => r
  | n + 1, ws, r =>
    if ws.isEmpty then r
    else
      let c := min 64 ws.length
      writeBlocks (a + 8 * c) n (ws.drop c) (r.wr ⟨.gl, 0, 0⟩ (a : Nat) (8 * c) (ofBytes (wordBytes (ws.take c))) false)

/-- Blocks of an MXFP8 image of a length (R67); none where no image has that length. One length fits several numbers of blocks, and R378
says only 'whole images': the model takes LEN as one image with the most blocks, so that bytes which may be meant as padding are reduced
as blocks (DESIGN CHOICE, log 43). -/
def imageBlocks (len : Nat) : Option Nat :=
  ((List.range (len / 32 + 1)).reverse).find? (fun b => decide (b ≠ 0) && decide (imageSize 32 b = len))

/-- One block reduced (R378): the sums of both blocks' values, written back under R75 as one step. -/
def reduceBlock (e5 : Bool) (a blocks : Nat) (img : Memory) (b : Nat) (r : Run) : Run :=
  let l : Loc := ⟨.gl, 0, 0⟩
  let plane := planeSize 32 blocks
  let x := r.rd l (a + 32 * b : Nat) 32
  let y := x.1.rd l (a + plane + b : Nat) 1
  -- neither part is written unless both can be
  let w := (y.1.translateRange l (a + plane + b) 1 .write).1
  let w := if w.fail.isSome then w else (w.translateRange l (a + 32 * b) 32 .write).1
  if w.fail.isSome then w
  else if x.2.2 || y.2.2 then w.failWith 4 (l.wordAt (a + 32 * b : Nat))
  else
    let sums := (List.range 32).map (fun j =>
      let d := toF32 .rne (mxElem e5 y.2.1 (x.2.1 / 2 ^ (8 * j) % 256))
      let s := toF32 .rne (mxElem e5 (img.read (plane + b) 1) (img.read (32 * b + j) 1))
      let z := fpAdd .rne d.1 s.1
      (f32 z.1, d.2 ||| s.2 ||| z.2))
    let out := toMx e5 (sums.map (·.1))
    let f := sums.foldl (fun f q => f ||| q.2) out.2.2
    (((w.wr l (a + 32 * b : Nat) 32 (ofBytes (out.2.1.map (BitVec.ofNat 8))) false).wr l (a + plane + b : Nat) 1 out.1 false)).addFlags f

/-- A request in execution on the translations of a span, for no thread. -/
def newRun (s : State) (span : Nat) (tenant : Option Nat) : Run :=
  { s := s, span := span, tenant := tenant, by_ := none, bytes := 0, fl := .none, pz := false, cov := [], fail := none }

/-- Blocks of an image of n blocks that have come in whole with the first len bytes: their elements and their scale, which stands in the
second plane. -/
def wholeBlocks (n len : Nat) : Nat := min n (len - planeSize 32 n)

/-- A remote write or reduction performed on this device (R376, R378), by the translations of a span: of a reduction, the blocks that have
come in whole. -/
def performRemote (s : State) (span : Nat) (tenant : Option Nat) (a len : Nat) (addmx fmt : Bool) (ws : List Word) : Run :=
  let r := s.newRun span tenant
  if addmx then
    match imageBlocks len with
    | none => r.failWith 3 (some (BitVec.ofNat 64 a))
    | some n =>
      let img := Memory.empty.writeBytes 0 (wordBytes ws)
      Run.loop (fun b r => reduceBlock fmt a n img b r) (wholeBlocks n (8 * ws.length)) 0 r
  else writeBlocks a ws.length ws r

/-- What has come in of a request is performed; where its stream is bad, what stood before is, and the first block that failed is
named (R213, R374, R376). -/
def performIncoming (s : State) (span : Nat) (h : Header) (a : Nat) (ws : List Word) (whole : Bool) : Run :=
  let r := s.performRemote span (some h.tenant) a h.len h.addmx h.fmt ws
  let done := if h.addmx then 32 * wholeBlocks ((imageBlocks h.len).getD 0) (8 * ws.length) else 8 * ws.length
  if whole || r.fail.isSome then r else r.failWith 3 (some (BitVec.ofNat 64 (a + done)))

/-- One block of a reduction in this device's own window (R378, R381): it is read from the source, element bytes and scale, and then
reduced. -/
def reduceFrom (src : Loc) (remote : Nat) (e5 : Bool) (a blocks b : Nat) (r : Run) : Run :=
  let plane := planeSize 32 blocks
  let x := r.rd src (src.addr + 32 * b : Nat) 32
  let y := x.1.rd src (src.addr + plane + b : Nat) 1
  if y.1.fail.isSome then y.1
  else if x.2.2 || y.2.2 then y.1.failWith 4 (some (BitVec.ofNat 64 ((remote + 32 * b) % 2 ^ 48)))
  else reduceBlock e5 a blocks ((Memory.empty.write (32 * b) 32 x.2.1).write (plane + b) 1 y.2.1) b y.1

/-- The port that serves an expert entry of another device: the status when none does (R380, R381, log 21). -/
def expertPort (s : State) (e : Expert) : Except Nat Nat :=
  if e.port ≤ 23 then (if (s.portAt e.port).stat = .active then .ok e.port else .error 5)
  else match s.portTo e.dev with
    | some p => .ok p
    | none => .error 5

/-- The tenant that a tenant becomes at a port's partner, if the port carries its requests (R371). -/
def mapTenant (s : State) (p : Nat) (tenant : Option Nat) : Option Nat :=
  match tenant with
  | some t => if bit t (s.portAt p).tmapv then some (natBits (4 * t) 4 (s.portAt p).tmap) else none
  | none => none

/-- An XREM request's header is formed and the request sent, or it ends here (R375, R376, R381). In this device's own window words are
written and blocks are reduced one after another, so those before a source that fails are done (R213); of a put there, every source
word is read before the first is written, which shows where the two overlap (R229 does not say, DESIGN CHOICE, log 34). A reduction for another device
whose source fails is not sent: a request carries whole images, and no header of R373 says that its later blocks are missing (log 34). An
entry of this device that names a port needs it ACTIVE; one with PORT 31 needs none, as no partner can be the device itself (DESIGN
CHOICE, log 21). -/
def startRemote (s : State) (span : Nat) (q : Req) : State :=
  let w3 := blkWord q.blk 3
  let remote := natBits 0 48 (blkWord q.blk 1)
  let len := natBits 0 32 (blkWord q.blk 2)
  let expMode := bit 28 w3
  let e := s.expertAt (natBits 16 12 w3)
  let addmx := decide (q.kind = .remAddmx)
  -- where it goes: this device's own window, or a port
  let route : Except Nat (Option Nat) :=
    if !expMode then (match s.portTo (bits 0 16 w3) with
      | some p => .ok (some p)
      | none => .error 5)
    else if !e.v then .error 8
    else if e.dev = s.devnum then (if e.port ≤ 23 ∧ (s.portAt e.port).stat ≠ .active then .error 5 else .ok none)
    else match s.expertPort e with
      | .ok p => .ok (some p)
      | .error st => .error st
  match route with
  | .error st => s.failRemote span q st
  | .ok port =>
    if addmx && (decide (len % 256 ≠ 0) || (imageBlocks len).isNone || port.any (fun p => !(s.portAt p).mx)) then s.failRemote span q 3
    else if port.isNone && (e.target remote len).isNone then s.failRemote span q 3
    else match locOf (blkWord q.blk 0) with
    | none => s
    | some src =>
    if addmx && port.isNone then
      let n := (imageBlocks len).getD 0
      let r := Run.loop (fun b r => reduceFrom src remote (bit 30 w3) (e.wbase + remote) n b r) n 0 (s.newRun span q.tenant)
      r.s.endRemote span q r.ended
    else
      let x := readSource src remote (len / 8) 0 (s.newRun span q.tenant)
      let s := x.1.s
      let failed : Ended := match x.1.fail with
        | some (st, w) => ⟨st, w, 0, false⟩
        | none => ⟨0, some 0, 0, false⟩
      -- nothing is sent when the first word fails, or a part of a reduction does
      if x.1.fail.isSome && (addmx || x.2.isEmpty) then s.endRemote span q failed
      else
        let n := 8 * x.2.length
        match port with
        | none =>
          let r := s.performRemote span q.tenant (e.wbase + remote) n addmx (bit 30 w3) x.2
          r.s.endRemote span q (if r.fail.isSome then r.ended else if x.1.fail.isSome then failed else r.ended)
        | some p =>
          match s.mapTenant p q.tenant with
          | none => s.failRemote span q 5
          | some t =>
            let h : Header :=
              { addr := remote, tenant := t, expert := if expMode then natBits 16 12 w3 else 0, len := n, exp := expMode, fwd := false,
                cmp := false, addmx := addmx, fmt := bit 30 w3, origin := s.devnum, num := 0 }
            let num := (s.portAt p).next
            (s.sendOver p h (bit 29 w3) x.2).modPort p (fun y =>
              { y with reqs := y.reqs ++ [⟨num, q, span, if x.1.fail.isSome then some (failed.status, failed.payload.getD (remoteWord q)) else none⟩] })

/-- The head of a streamer's queue starts, at most eight at a time (R210); a request for another device is sent. -/
def startRequest (s : State) (span : Nat) : State :=
  match (s.spanAt span).queue with
  | [] => s
  | q :: rest =>
    if (s.spanAt span).running.length ≥ 8 then s
    else
      let s := s.modSpan span (fun x => { x with queue := rest, running := x.running ++ [q] })
      match q.kind with
      | .remPut => s.startRemote span q
      | .remAddmx => s.startRemote span q
      | .copy => s
      | .conv => s
      | .script => s
      | .sela _ => s

/-- The data of a request as words, once it is all there: none while more flits are due; for a stream that is bad, the words of the
blocks before. -/
def incoming (h : Header) (data : List Byte) : Option (List Word × Bool) :=
  if h.cmp then
    match decompress (h.len / 8 + 1) h.len data with
    | (ws, some good) => some (ws, good)
    | (_, none) => none
  else if data.length ≥ h.len then some (payloadWords (h.len / 8) data, true) else none

/-- A request received by a port is served (R376, R378, R381). Of one to be forwarded whose stream is bad, the good blocks before go on, and
the acknowledgement names the first that failed (R213, R374); a reduction of which a part is missing cannot go on. -/
def serve (s : State) (p : Nat) (hdr : List Word) (data : List Byte) : State :=
  let h := Header.ofWords hdr
  let ack (s : State) (st : Nat) (w : Word) : State := s.sendAck p h.num st w
  let answer (r : Run) : State :=
    let e := r.ended
    match e.payload with
    | some w => ack r.s e.status w
    | none => ack r.s.freeValue.2 e.status r.s.freeValue.1
  match incoming h data with
  | none => ack s 3 (BitVec.ofNat 64 h.addr)
  | some (ws, whole) =>
    if h.addmx && (!(s.portAt p).mx || decide (h.len % 256 ≠ 0)) then ack s 3 (BitVec.ofNat 64 h.addr)
    else if !h.exp then answer (s.performIncoming (portSpan p) h h.addr ws whole)
    else
      let e := s.expertAt h.expert
      if !e.v || (decide (e.dev ≠ s.devnum) && h.fwd) then ack s 8 (BitVec.ofNat 64 h.addr)
      else if e.dev = s.devnum then
        match e.target h.addr h.len with
        | none => ack s 3 (BitVec.ofNat 64 h.addr)
        | some a => answer (s.performIncoming (portSpan p) h a ws whole)
      else match s.expertPort e with
        | .error st => ack s st (BitVec.ofNat 64 h.addr)
        | .ok p2 => match s.mapTenant p2 (some h.tenant) with
          | none => ack s 5 (BitVec.ofNat 64 h.addr)
          | some t =>
            if (!whole && (h.addmx || ws.isEmpty)) || (h.addmx && !(s.portAt p2).mx) then ack s 3 (BitVec.ofNat 64 h.addr)
            else
              let num := (s.portAt p2).next
              let n := 8 * ws.length
              (s.sendOver p2 { h with tenant := t, fwd := true, len := if whole then h.len else n } h.cmp ws).modPort p2 (fun y =>
                { y with fwd := y.fwd ++ [⟨num, p, h.num, BitVec.ofNat 64 h.addr,
                  if whole then none else some (3, BitVec.ofNat 64 (h.addr + n))⟩] })

/-- The partner may have reduced blocks of a request: it acknowledges them, or names a later one. NOEXPERT, and FABRIC of a forward, come
without any (R376, R381). -/
def mayHaveReduced (q : Req) (st : Nat) (w1 : Word) : Bool :=
  decide (q.kind = .remAddmx) && (decide (st = 0) || (decide (st ≠ 5) && decide (st ≠ 8) && decide (w1 ≠ remoteWord q)))

/-- The status and the word that an acknowledgement brings to a request whose source or stream failed part of the way (R213). -/
def lateAnswer (late : Option (Nat × Word)) (st : Nat) (w1 : Word) : Nat × Word := if st = 0 then late.getD (st, w1) else (st, w1)

/-- An acknowledgement reaches the port that sent a request: the forward's origin is acknowledged, or the request completes
(R376, R381). The partner makes the flags of the blocks that it reduces, and its acknowledgement carries none (R373): they are a free
value of the five that a reduction can set (R378, log 34). -/
def acked (s : State) (p : Nat) (w0 w1 : Word) : State :=
  let num : Half := bits 0 32 w0
  let st := natBits 32 5 w0
  match (s.portAt p).fwd.find? (fun f => decide (f.num = num)) with
  | some f =>
    let a := lateAnswer f.late st w1
    (s.modPort p (fun x => { x with fwd := x.fwd.filter (fun g => decide (g.num ≠ num)) })).sendAck f.port f.orig a.1 a.2
  | none =>
    match (s.portAt p).reqs.find? (fun r => decide (r.num = num)) with
    | none => s
    | some r =>
      let s := s.modPort p (fun x => { x with reqs := x.reqs.filter (fun y => decide (y.num ≠ num)) })
      let (fl, s) : BitVec 6 × State := if mayHaveReduced r.req st w1 then (bits 0 6 s.freeValue.1 &&& 0x1F, s.freeValue.2) else (0, s)
      let a := lateAnswer r.late st w1
      s.endRemote r.span r.req ⟨a.1, some a.2, fl, false⟩

/-! ## Port states (R369 to R372) -/

/-- A port falls to DOWN. On leaving ACTIVE it sets DOWNEV, and every request it has outstanding completes with FABRIC, naming
the first block for which no acknowledgement came (R376); requests it forwarded are refused to their senders. -/
def portDown (s : State) (p : Nat) : State :=
  let x := s.portAt p
  let s := s.modPort p (fun x => { x with stat := .down, since := s.clock, downev := x.downev || decide (x.stat = .active), fails := 0,
                                          reqs := [], fwd := [], unacked := [], capOk := false, rxHdr := none, rxData := [], inReqs := [], inAcks := [], inCaps := [] })
  let s := x.reqs.foldl (fun s r => s.failRemote r.span r.req 5) s
  x.fwd.foldl (fun s f => s.sendAck f.port f.orig 5 f.addr) s

/-- A port enters a training state. -/
def portEnter (s : State) (p : Nat) (st : PStat) : State := s.modPort p (fun x => { x with stat := st, since := s.clock })

/-- The capability record that a port sends (R370); it offers compression when CMPEN is set. -/
def capability (s : State) (p : Nat) : Word :=
  BitVec.ofNat 64 (1 + s.devnum.toNat * 2 ^ 16 + p * 2 ^ 32 + (if (s.portAt p).cmpen then 2 ^ 37 else 0) + 2 ^ 38)

/-- A flit is refused and a retry asked for (R372): the first refusal is no failed retry, and each that follows it in a row is one;
sixteen of them take the port down. -/
def flitRefused (s : State) (p : Nat) : State :=
  let s := s.modPort p (fun x => { x with retries := min (x.retries + 1) 65535, fails := x.fails + 1 })
  if (s.portAt p).fails ≥ 17 then s.portDown p else s.sendCredit p

/-- A port in EXCHANGE becomes ACTIVE once both capability records are accepted: the partner's here, and its own there (R369). -/
def tryActive (s : State) (p : Nat) : State :=
  let x := s.portAt p
  if x.stat = .exchange && x.capOk && x.unacked.all (fun f => decide (flitType f ≠ 5)) then
    s.modPort p (fun x => { x with stat := .active, since := s.clock })
  else s

/-- A credit flit of the partner (R372): the oldest flits not yet accepted are, and a retry sends the others again from the first. -/
def creditIn (s : State) (p : Nat) (payload : List Byte) : State :=
  let m := Config.creditMeaning payload
  (s.modPort p (fun x =>
    let rest := x.unacked.drop m.1
    { x with unacked := rest, sent := if m.2 then x.sent ++ rest else x.sent })).tryActive p

/-- What an accepted flit brings (R370, R372, R373). It is acknowledged, unless it is idle or a credit itself (log 34). -/
def flitAccepted (s : State) (p : Nat) (f : List Byte) : State :=
  let s := s.modPort p (fun x => { x with rxSeq := (x.rxSeq + 1) % 4096, fails := 0 })
  let s := if flitType f = 0 ∨ flitType f = 4 then s else s.sendCredit p
  let data := flitPayload f
  let whole (x : Port) : Port :=
    match x.rxHdr with
    | none => x
    | some h =>
      if (incoming (Header.ofWords h) x.rxData).isSome then
        { x with rxHdr := none, rxData := [], inReqs := x.inReqs ++ [(h, x.rxData)] }
      else x
  match flitType f with
  | 1 => s.modPort p (fun x => whole { x with rxHdr := some (payloadWords 7 (padTo 56 data)), rxData := [] })
  | 2 => s.modPort p (fun x => whole { x with rxData := x.rxData ++ data })
  | 3 =>
    let ws := payloadWords 2 (padTo 16 data)
    s.modPort p (fun x => { x with inAcks := x.inAcks ++ [(ws.getD 0 0, ws.getD 1 0)] })
  | 4 => s.creditIn p data
  | 5 => s.modPort p (fun x => { x with inCaps := x.inCaps ++ [(payloadWords 1 (padTo 8 data)).getD 0 0] })
  | _ => s

/-- A flit reaches a port in EXCHANGE or ACTIVE (R372): accepted in order with a good CRC, else refused. -/
def flitIn (s : State) (p : Nat) (f : List Byte) : State :=
  let x := s.portAt p
  if x.stat = .active ∨ x.stat = .exchange then
    if flitGood f && decide (flitSeq f = x.rxSeq) then s.flitAccepted p f else s.flitRefused p
  else s

/-- A partner's capability record is negotiated (R370): a version other than 1 or the device's own number takes the port down; the link
compresses if both sides set bit 37 and CMPEN is 1. The record's
reserved bits, words 1 to 6 and bits [31:22] of a flit are ignored whatever they hold (DESIGN CHOICE, log 34). -/
def negotiate (s : State) (p : Nat) (w : Word) : State :=
  if bits 0 16 w ≠ 1 ∨ bits 16 16 w = s.devnum then s.portDown p
  else (s.modPort p (fun x =>
    { x with capOk := true, pdev := bits 16 16 w, pport := bits 32 5 w, cmp := bit 37 w && x.offered && x.cmpen, mx := bit 38 w })).tryActive p

/-- Ports train from LINKUP on (R385). -/
def portsTrain (s : State) : Bool := decide (s.mgmt.phase = .linkup) || decide (s.mgmt.phase = .ready)

/-- A port has stood in DESKEW or EQUALISE for 940,000 cycles: it falls to DOWN (R369). -/
def trainingOver (s : State) (p : Nat) : Bool :=
  let x := s.portAt p
  (decide (x.stat = .deskew) || decide (x.stat = .equalise)) && decide (s.clock ≥ x.since + 940000)

/-- The device runs (R385): bring-up has reached READY. -/
def isReady (s : State) : Bool := decide (s.mgmt.phase = .ready)

/-- EN written (R371, R385): training is enabled, or the port goes to DOWN. -/
def setPortEn (s : State) (p : Nat) (en : Bool) : State :=
  let s := s.modPort p (fun x => { x with en := en })
  if en || decide ((s.portAt p).stat = .down) then s else s.portDown p

/-- RETRAIN written with 1 (R371); ignored before READY (R385). -/
def retrain (s : State) (p : Nat) : State :=
  if s.isReady && decide ((s.portAt p).stat ≠ .down) then s.portDown p else s

/-! ## LOCSET (R382) -/

/-- The first invalid word of an expert location entry (R380). A reserved bit that is not 0 makes its word invalid (DESIGN CHOICE,
log 34). -/
def badEntry (w0 w1 : Word) : Option Nat :=
  if bits 0 16 w0 ≠ 0 then some 0
  else if natBits 0 24 w1 = 0 ∨ (24 ≤ natBits 24 5 w1 ∧ natBits 24 5 w1 ≠ 31) ∨ bits 29 2 w1 ≠ 0 ∨ bits 32 32 w1 ≠ 0 then some 1
  else none

/-- An entry written into every port's copy (R382): D is the old second word. -/
def writeEntry (s : State) (d : Reg) (i : Nat) (w0 w1 : Word) : State :=
  ({ s with loc0 := s.loc0.set 0 i w0, loc1 := s.loc1.set 0 i w1 } : State).finish d ⟨s.loc1.get 0 i, false⟩

/-- LOCSET's operand A is checked, and the thread's earlier accesses are awaited (R382). -/
def locChecked (s : State) (a b : Reg) (k : State → State) : State :=
  if (s.reg a).p || (s.reg b).p then s.raisePoison
  else if bits 12 52 (s.reg a).v ≠ 0 then s.raiseTrap Cause.range (s.reg a).v
  else s.afterAccesses .dev k

/-- LOCSET.set: the entry image is read after what the thread and the device meet of published accesses (R265). -/
def locSet (s : State) (d a b : Reg) : State :=
  s.locChecked a b (fun s =>
    let ad := (s.reg b).v
    if ad.toNat % 16 ≠ 0 then s.raiseTrap Cause.misaligned ad
    else if !s.populated ad.toNat then s.raiseTrap Cause.access ad
    else
      let s := s.meetGlobal .device ad.toNat 16
      let w0 := s.physWord ad.toNat
      let w1 := s.physWord (ad.toNat + 8)
      let port := natBits 24 5 w1
      if s.physPoison ad.toNat || s.physPoison (ad.toNat + 8) then s.raiseTrap Cause.poisonConsumed ad
      else match badEntry w0 w1 with
        | some n => s.raiseTrap Cause.range (BitVec.ofNat 64 n)
        | none =>
          if bit 31 w1 && decide (port ≤ 23) && decide ((s.portAt port).stat ≠ .active) then s.raiseTrap Cause.fabric (BitVec.ofNat 64 port)
          else s.writeEntry d (natBits 0 12 (s.reg a).v) w0 w1)

/-! ## The host's accesses (R268, R383) -/

/-- The host's own memory (R383). -/
def inHostMem (pa n : Nat) : Bool := decide (Config.hostBase ≤ pa) && decide (pa + n ≤ Config.hostEnd)

/-- A host read: past the end of HBM it returns zeros marked as poisoned and is reported (R383). -/
def hostRead (s : State) (pa n : Nat) : State :=
  if inHostMem pa n then { s with reply := (s.mem.readBytes pa n, s.mem.anyPoison pa n) }
  else if !s.cxlUp then s
  else if pa + n ≤ Config.hbmEnd then { s with reply := (s.mem.readBytes pa n, s.mem.anyPoison pa n) }
  else ({ s with reply := (List.replicate n 0, true) } : State).report (.cxlRead pa)

/-- Bytes that the host writes at their place; a word written whole loses its poison (R318). -/
def hostStore (s : State) (pa : Nat) (data : List Byte) : State :=
  let n := data.length
  let s := s.takeRange none pa n
  let m := s.mem.writeBytes pa data
  let whole := (List.range ((pa + n) / 8 - (pa + 7) / 8)).map (fun i => (pa + 7) / 8 + i)
  { s with mem := whole.foldl (fun m w => m.setPoison (8 * w) false) m }

/-- A host write (R383): into HBM, or into the host's own memory, which the device reaches over CXL.cache; past the end of HBM it is
dropped and reported. -/
def hostWrite (s : State) (pa : Nat) (data : List Byte) : State :=
  if inHostMem pa data.length then s.hostStore pa data
  else if !s.cxlUp || data.isEmpty then s
  else if pa + data.length ≤ Config.hbmEnd then s.hostStore pa data
  else s.report (.cxlWrite pa)

end State

/-! ## Meanings -/

/-- STREAMER_REQUEST_START (R210, R376). -/
def execStreamerRequestStart (span : Nat) (s : State) : Out := .next (s.startRequest span)

/-- REMOTE_REQUEST (R376): the oldest request that has come in whole at a port is served. -/
def execRemoteRequest (port : Nat) (hdr : List Word) (data : List Byte) (s : State) : Out :=
  .next (
    let x := s.portAt port
    if x.stat = .active && x.inReqs.head? == some (hdr, data) then
      (s.modPort port (fun x => { x with inReqs := x.inReqs.tail })).serve port hdr data
    else s)

/-- REMOTE_ACK (R376): the oldest acknowledgement that has come in at a port completes its request. -/
def execRemoteAck (port : Nat) (w0 w1 : Word) (s : State) : Out :=
  .next (
    let x := s.portAt port
    if x.stat = .active && x.inAcks.head? == some (w0, w1) then
      (s.modPort port (fun x => { x with inAcks := x.inAcks.tail })).acked port w0 w1
    else s)

/-- FLIT_RECEIVE (R372). -/
def execFlitReceive (port : Nat) (bytes : List Byte) (s : State) : Out := .next (s.flitIn port bytes)

/-- PORT_SIGNAL_DETECT (R369): training starts afresh with its sequence numbers. -/
def execPortSignalDetect (port : Nat) (s : State) : Out :=
  .next (
    let x := s.portAt port
    if x.stat = .down && x.en && decide (port < 24) && s.portsTrain then
      (s.modPort port (fun x => { x with txSeq := 0, rxSeq := 0, fails := 0 })).portEnter port .deskew
    else s)

/-- LANE_ALIGNED (R369): in time, else the port is DOWN. -/
def execLaneAligned (port : Nat) (s : State) : Out :=
  .next (if (s.portAt port).stat = .deskew then if s.trainingOver port then s.portDown port else s.portEnter port .equalise else s)

/-- DESKEW_TIMEOUT (R369). -/
def execDeskewTimeout (port : Nat) (s : State) : Out :=
  .next (if (s.portAt port).stat = .deskew && s.trainingOver port then s.portDown port else s)

/-- EQUALISE_SETTLED (R369, R370): in time, the port sends its capability record; else it is DOWN. -/
def execEqualiseSettled (port : Nat) (s : State) : Out :=
  .next (if (s.portAt port).stat = .equalise then if s.trainingOver port then s.portDown port else
    ((s.modPort port (fun x => { x with offered := x.cmpen })).portEnter port .exchange).sendFlit port 5
      (wordBytes [s.capability port, 0, 0, 0, 0, 0, 0]) else s)

/-- EQUALISE_TIMEOUT (R369). -/
def execEqualiseTimeout (port : Nat) (s : State) : Out :=
  .next (if (s.portAt port).stat = .equalise && s.trainingOver port then s.portDown port else s)

/-- CAPABILITY_RECORD (R370): the record that has come in at a port in EXCHANGE is negotiated. -/
def execCapabilityRecord (port : Nat) (w0 : Word) (s : State) : Out :=
  .next (
    let x := s.portAt port
    if x.stat = .exchange && x.inCaps.head? == some w0 then
      (s.modPort port (fun x => { x with inCaps := x.inCaps.tail })).negotiate port w0
    else s)

/-- SIGNAL_LOSS (R369). -/
def execSignalLoss (port : Nat) (s : State) : Out :=
  .next (if (s.portAt port).stat = .active then s.portDown port else s)

/-- PORT_EN_WRITE (R371). -/
def execPortEnWrite (port : Nat) (en : Bool) (s : State) : Out := .next (if port < 24 then s.setPortEn port en else s)

/-- PORT_RETRAIN (R371). -/
def execPortRetrain (port : Nat) (s : State) : Out := .next (s.retrain port)

/-- LOCSET.set (R382). -/
def execLocsetSet (d a b : Reg) (s : State) : Out := .next (s.locSet d a b)

/-- LOCSET.inv (R382). -/
def execLocsetInv (d a : Reg) (s : State) : Out :=
  .next (s.locChecked a 0 (fun s => s.writeEntry d (natBits 0 12 (s.reg a).v) 0 0))

/-- HOST_MEM_READ (R268, R383). -/
def execHostMemRead (pa bytes : Nat) (s : State) : Out := .next (s.hostRead pa bytes)

/-- HOST_MEM_WRITE (R268, R383). -/
def execHostMemWrite (pa : Nat) (data : List Byte) (s : State) : Out := .next (s.hostWrite pa data)

/-- CXL_LINK_DOWN (R383): host memory no longer counts as populated. -/
def execCxlLinkDown (s : State) : Out := .next { s with cxlUp := false }

end Sys2Proof.Machine
end

