-- ==== Sys2Proof/Machine/Bringup.lean ====
section
/-! DEFINITION. Bring-up, management registers, attestation, power and background work (spec/25, spec/01), and the device
register space (R384). -/

set_option linter.constructorNameAsVariable false

namespace Sys2Proof.Machine

/-! ## Images (R386) -/

/-- The number in n little-endian bytes of an image from an offset. -/
def imgNum (img : List Byte) (off n : Nat) : Nat := ofBytes ((img.drop off).take n)

/-- Bytes of an image from an offset. -/
def imgBytes (img : List Byte) (off n : Nat) : List Byte := (img.drop off).take n

/-- The body of an image: as many bytes after the 192 of the header as the header says. -/
def imgBody (img : List Byte) : List Byte := imgBytes img 192 (imgNum img 4 4)

/-- An image is accepted (R386): magic, kind, key digest, body digest, signature and security version. -/
def imgAccepted (img : List Byte) (kind : Nat) (keyDigest : List Byte) (minVersion : Nat) : Bool :=
  decide (imgNum img 0 4 = 0x4D425657) && decide (imgNum img 12 4 = kind) && decide (imgNum img 4 4 % 64 = 0) &&
    decide (192 + imgNum img 4 4 ≤ img.length) && decide (sm3 (imgBytes img 64 64) = keyDigest) &&
    decide (sm3 (imgBody img) = imgBytes img 32 32) &&
    sm2Verify (imgBytes img 64 64) (imgBytes img 0 128) (imgBytes img 128 64) && decide (imgNum img 8 4 ≥ minVersion)

namespace State

/-! ## Reports (R20, R21, R388) -/

/-- Management registers changed. -/
def modMgmt (s : State) (f : Mgmt → Mgmt) : State := { s with mgmt := f s.mgmt }

/-- An uncorrectable address is reported: it joins ELOG, or is dropped and counted when ELOG is full (R388). -/
def logUncorrectable (s : State) (pa : Nat) : State :=
  (s.modMgmt (fun m => if m.elog.length < 64 then { m with elog := m.elog ++ [pa] } else { m with elost := min (m.elost + 1) 0x7FFF })).report
    (.uncorrectable pa)

/-- The words of a 64-byte line become poisoned. -/
def poisonLine (s : State) (pa : Nat) : State :=
  { s with mem := (List.range 8).foldl (fun m i => m.setPoison (pa / 64 * 64 + 8 * i) true) s.mem }

/-- A patrol scrub read of a line (R21): a correction changes no value; an uncorrectable line is poisoned and reported. -/
def scrub (s : State) (pa : Nat) (r : ScrubResult) : State :=
  if !s.isReady || decide (s.mgmt.scr = 0) || !(decide (pa < Config.hbmEnd) || (decide (Config.tier2Base ≤ pa) && decide (pa < Config.tier2End))) then s
  else match r with
    | .clean => s
    | .correctable => s.modMgmt (fun m => { m with cecnt := if m.cecnt = 0xFFFFFFFF then m.cecnt else m.cecnt + 1 })
    | .uncorrectable => (s.poisonLine pa).logUncorrectable (pa / 64 * 64)

/-- A recalibration pause of one of 304 channels and interfaces (R19): at most one in 376,000 cycles; it changes only timing. -/
def recalibrate (s : State) (unit : Nat) : State :=
  let due := match s.mgmt.recalAt.find? unit with
    | some t => decide (s.clock ≥ t + 376000)
    | none => true
  if s.isReady && decide (unit < 304) && due then s.modMgmt (fun m => { m with recalAt := m.recalAt.put unit s.clock }) else s

/-! ## Power (R389) -/

/-- The duty that the power controller chooses: the largest whose predicted power keeps to PCAP, at most 4 from the last, and at
most 8 while a die is at 105 degrees or more; that limit stands above the step (log 19). -/
def chooseDuty (m : Mgmt) (pred temps : List Nat) : Nat :=
  let fits := (List.range 16).filter (fun i => decide (pred.getD i 0 ≤ m.pcap))
  let n := (fits.map (· + 1)).foldl max 1
  let n := max (min n (m.duty + 4)) (m.duty - 4)
  let n := max 1 (min n 16)
  if temps.any (fun t => decide (t ≥ 105)) then min n 8 else n

/-- THERMAL_LIMIT_REACHED (R389): the sideband alarm. -/
def thermalLimit (s : State) (die : Nat) : State :=
  if s.mgmt.temps.getD die 0 ≥ 115 then (s.modMgmt (fun m => { m with alarm := true })).report (.thermal die) else s

/-- POWER_INTERVAL (R389): the duty is chosen, and a die at the limit raises the alarm. -/
def powerInterval (s : State) (pred temps : List Nat) (watts : Nat) : State :=
  if s.isReady && decide (s.clock ≥ s.mgmt.powerAt + 94000) then
    (List.range 4).foldl thermalLimit (s.modMgmt (fun m =>
      { m with duty := chooseDuty m pred temps, temps := (List.range 4).map (fun d => temps.getD d 0 % 256),
               pwr := watts % 65536, powerAt := s.clock }))
  else s

/-! ## Phases (R385, R92, R390) -/

/-- A phase fails: the device stands in FAIL. -/
def failPhase (s : State) (berr bunit : Nat) : State := s.modMgmt (fun m => { m with phase := .fail, berr := berr, bunit := bunit })

/-- Goes on when the device stands in a phase. -/
def inPhase (s : State) (p : Phase) (k : State) : State := if s.mgmt.phase = p then k else s

/-- Reset is released: every register at its reset value; the board and the contents of memory stay. -/
def releaseReset (s : State) : State :=
  { State.reset with board := s.board, mem := s.mem, agenda := s.agenda, fresh := s.fresh }

/-- The memory outside the module: the host's (R383). -/
def hostPart (m : Memory) : Memory :=
  { bytes := m.bytes.filter (fun e => decide (Config.hostBase ≤ e.1) && decide (e.1 < Config.hostEnd))
    psn := m.psn.filter (fun e => decide (Config.hostBase ≤ 8 * e.1) && decide (8 * e.1 < Config.hostEnd)) }

/-- Power is removed: the module keeps nothing (R390). -/
def losePower (s : State) : State :=
  { State.reset with board := s.board, mem := hostPart s.mem, agenda := s.agenda, fresh := s.fresh, mgmt := { Mgmt.reset with phase := .off } }

/-- FWVERIFY (R386, R387). -/
def verifyFirmware (s : State) : State :=
  if imgAccepted s.board.firmware 1 s.board.keyDigest s.board.minFw then
    s.modMgmt (fun m => { m with phase := .fwverify, meas0 := sm3 (imgBytes s.board.firmware 0 128) })
  else s.failPhase 1 0

/-- MEMTRAIN (R385). -/
def trainMemory (s : State) : State :=
  match s.board.badUnit with
  | some u => s.failPhase 2 u
  | none => s.modMgmt (fun m => { m with phase := .memtrain })

/-- SRAMINIT (R385, R386, R387). -/
def initSram (s : State) : State :=
  if imgAccepted s.board.microcode 2 (imgBytes (imgBody s.board.firmware) 0 32) s.board.minUc then
    ({ s with cores := [], spans := [] } : State).modMgmt (fun m =>
      { m with phase := .sraminit, meas1 := sm3 (imgBytes s.board.microcode 0 128) })
  else s.failPhase 3 0

/-- LINKUP (R385): the ports begin to train with EN = 1, as they stand at reset. -/
def linkUp (s : State) : State :=
  let s : State := { s with devnum := s.board.devnum }
  if s.board.host then ({ s with cxlUp := true } : State).modMgmt (fun m => { m with phase := .linkup }) else s.failPhase 4 0

/-- READY (R385, R92): the firmware body stands at its place and the first supervisor thread starts in context 63 of core 0, with
one table of the core. That it is table 7 is the model's choice (DESIGN CHOICE, log 42), and so is that poison of words under the
body stays (DESIGN CHOICE, log 41). -/
def enterReady (s : State) : State :=
  let body := imgBody s.board.firmware
  if sm3 body ≠ imgBytes s.board.firmware 32 32 then s.failPhase 1 0
  else
    let s : State := { s with mem := s.mem.writeBytes Config.fwBase body }
    let s := s.modMgmt (fun m => { m with phase := .ready, powerAt := s.clock })
    let s := s.modCore 0 (fun x => { x with tables := x.tables.put 7 { Table.free with owner := .sup } })
    (s.setThread 0 63 (Thread.start .sup true ⟨BitVec.ofNat 64 body.length, false⟩ 0 0 0 0)).enterBlock 0 63
      (BitVec.ofNat 32 (Config.fwBase / 8)) none true none

/-! ## Attestation (R387) -/

/-- A write of ATTCMD: a quote starts, unless one is being made; an address that is no multiple of 64 in HBM starts none
(log 19). -/
def writeAttcmd (s : State) (v : Word) : State :=
  let a := natBits 0 48 v
  if s.mgmt.busy || decide (a % 64 ≠ 0) || decide (a + 224 > Config.hbmEnd) then s
  else s.modMgmt (fun m => { m with attcmd := a, busy := true, done := false })

/-- QUOTE_COMPLETE: the quote is written behind the nonce. -/
def completeQuote (s : State) : State :=
  if !s.mgmt.busy then s
  else
    let a := s.mgmt.attcmd
    let m := s.mgmt.meas0 ++ s.mgmt.meas1 ++ s.mem.readBytes a 32
    let sig := Config.sm2Sign (sm3 m)
    let q := m ++ bytesBE 32 sig.1.toNat ++ bytesBE 32 sig.2.toNat
    let s := (List.range 3).foldl (fun s i => s.takeLine none (a + 64 + 64 * i)) s
    let mem := s.mem.writeBytes (a + 64) q
    let s : State := { s with mem := (List.range 20).foldl (fun m i => m.setPoison (a + 64 + 8 * i) false) mem }
    s.modMgmt (fun m => { m with busy := false, done := true })

/-! ## The device register space (R273, R371, R384, R388) -/

/-- A register of a host queue. -/
def queueRegister (x : HostQueue) (r : Nat) : Nat :=
  match r with
  | 0x00 => x.qbase
  | 0x08 => x.logsz + x.tenant * 2 ^ 4 + x.pcap * 2 ^ 8 + (if x.en then 2 ^ 16 else 0)
  | 0x10 => x.qprod.toNat
  | 0x18 => x.qcons.toNat
  | 0x20 => (if x.err then 1 else 0) + x.code * 2 ^ 8 + x.eidx.toNat * 2 ^ 32
  | _ => 0

/-- The state code of a port (R369). -/
def portCode : PStat → Nat
  | .down => 0
  | .deskew => 1
  | .equalise => 2
  | .exchange => 3
  | .active => 4

/-- A register of a port. -/
def portRegister (x : Port) (r : Nat) : Nat :=
  match r with
  | 0x00 => portCode x.stat + (if x.cmp then 8 else 0) + (if x.mx then 16 else 0) + x.pdev.toNat * 2 ^ 16 + x.pport.toNat * 2 ^ 32
  | 0x08 => (if x.en then 1 else 0) + (if x.cmpen then 4 else 0)
  | 0x10 => min x.retries 65535 + (if x.downev then 2 ^ 16 else 0)
  | 0x18 => x.tmapv.toNat
  | 0x20 => x.tmap.toNat
  | _ => 0

/-- The phase code of R385. -/
def phaseCode : Phase → Nat
  | .off => 0
  | .power => 0
  | .fwverify => 1
  | .memtrain => 2
  | .sraminit => 3
  | .linkup => 4
  | .ready => 5
  | .fail => 15

/-- A management register. -/
def mgmtRegister (m : Mgmt) (r : Nat) : Nat :=
  match r with
  | 0x00 => phaseCode m.phase + m.berr * 2 ^ 8 + m.bunit * 2 ^ 16
  | 0x10 => m.pcap
  | 0x18 => m.pwr + m.duty * 2 ^ 16
  | 0x20 => (List.range 4).foldl (fun a d => a + m.temps.getD d 0 * 2 ^ (8 * d)) 0
  | 0x28 => m.scr + m.rcl * 2 ^ 4
  | 0x30 => match m.elog with
    | pa :: _ => pa + m.elost * 2 ^ 48 + 2 ^ 63
    | [] => m.elost * 2 ^ 48
  | 0x38 => m.cecnt.toNat
  | 0x48 => (if m.busy then 1 else 0) + (if m.done then 2 else 0)
  | _ => if 0x60 ≤ r ∧ r < 0x80 then ofBytes (imgBytes m.meas0 (r - 0x60) 8)
         else if 0x80 ≤ r ∧ r < 0xA0 then ofBytes (imgBytes m.meas1 (r - 0x80) 8)
         else 0

/-- What an 8-byte register of BAR0 reads as (R384); in FAIL only the phase register answers (R385). -/
def register (s : State) (off : Nat) : Nat :=
  if off % 8 ≠ 0 then 0
  else if s.mgmt.phase = .fail then if off = 0x300000 then mgmtRegister s.mgmt 0 else 0
  else if off = 0 then s.devnum.toNat + 0x2048 * 2 ^ 16 + 2 ^ 32
  else if 0x100000 ≤ off ∧ off < 0x101000 then queueRegister (s.queueAt ((off - 0x100000) / 64)) (off % 64)
  else if 0x200000 ≤ off ∧ off < 0x201800 then portRegister (s.portAt ((off - 0x200000) / 256)) (off % 256)
  else if 0x300000 ≤ off then mgmtRegister s.mgmt (off - 0x300000)
  else 0

/-- ELOG_READ (R388): the register is read; the oldest address goes and ELOST is cleared. -/
def readElog (s : State) : State :=
  if s.mgmt.phase = .fail then { s with reply := (bytesOf 8 0, false) }
  else ({ s with reply := (bytesOf 8 (mgmtRegister s.mgmt 0x30), false) } : State).modMgmt (fun m =>
    { m with elog := m.elog.tail, elost := 0 })

/-- A power cap, clamped (R388). -/
def writePcap (s : State) (v : Word) : State := s.modMgmt (fun m => { m with pcap := max 1500 (min 4200 (natBits 0 16 v)) })

/-- The scrub rate (R388). -/
def writeScr (s : State) (v : BitVec 4) : State := s.modMgmt (fun m => { m with scr := min v.toNat 10 })

/-- The recalibration share (R388). -/
def writeRcl (s : State) (v : BitVec 4) : State := s.modMgmt (fun m => { m with rcl := min v.toNat 10 })

/-- A write to a register of a host queue (R273). -/
def writeQueue (s : State) (q r : Nat) (v : Word) : State :=
  match r with
  | 0x00 => s.modQueue q (fun x => if x.en then x else { x with qbase := natBits 12 36 v * 4096 })
  | 0x08 => s.writeEnable q v
  | 0x10 => s.writeProd q v
  | 0x20 => if bit 0 v then s.clearErr q else s
  | _ => s

/-- A write to a register of a port (R371): only EN and CMPEN before READY (R385). -/
def writePort (s : State) (p r : Nat) (v : Word) : State :=
  match r with
  | 0x08 =>
    let s := (s.modPort p (fun x => { x with cmpen := bit 2 v })).setPortEn p (bit 0 v)
    if bit 1 v then s.retrain p else s
  | 0x10 => if s.isReady && bit 16 v then s.modPort p (fun x => { x with downev := false }) else s
  | 0x18 => if s.isReady then s.modPort p (fun x => { x with tmapv := bits 0 16 v }) else s
  | 0x20 => if s.isReady then s.modPort p (fun x => { x with tmap := v }) else s
  | _ => s

/-- A write to a management register (R388). -/
def writeMgmt (s : State) (r : Nat) (v : Word) : State :=
  match r with
  | 0x10 => s.writePcap v
  | 0x28 => (s.writeScr (bits 0 4 v)).writeRcl (bits 4 4 v)
  | 0x38 => s.modMgmt (fun m => { m with cecnt := bits 0 32 v })
  | 0x40 => s.writeAttcmd v
  | _ => s

/-- A write to an 8-byte register of BAR0 (R384); in FAIL, and without power, there is none (R385, R390). -/
def writeRegister (s : State) (off : Nat) (v : Word) : State :=
  if off % 8 ≠ 0 ∨ s.mgmt.phase = .fail ∨ s.mgmt.phase = .off then s
  else if 0x100000 ≤ off ∧ off < 0x101000 then s.writeQueue ((off - 0x100000) / 64) (off % 64) v
  else if 0x200000 ≤ off ∧ off < 0x201800 then s.writePort ((off - 0x200000) / 256) (off % 256) v
  else if 0x300000 ≤ off then s.writeMgmt (off - 0x300000) v
  else s

end State

/-! ## Events -/

/-- RESET_RELEASE (R385). -/
def execResetRelease (s : State) : Out := .next s.releaseReset

/-- FWVERIFY (R386). -/
def execFwverify (s : State) : Out := .next (s.inPhase .power s.verifyFirmware)

/-- MEMTRAIN (R385). -/
def execMemtrain (s : State) : Out := .next (s.inPhase .fwverify s.trainMemory)

/-- SRAMINIT (R385). -/
def execSraminit (s : State) : Out := .next (s.inPhase .memtrain s.initSram)

/-- LINKUP (R385). -/
def execLinkup (s : State) : Out := .next (s.inPhase .sraminit s.linkUp)

/-- READY (R385). -/
def execReady (s : State) : Out := .next (s.inPhase .linkup s.enterReady)

/-- POWER_LOSS (R390). -/
def execPowerLoss (s : State) : Out := .next s.losePower

/-- PATROL_SCRUB_READ (R21). -/
def execPatrolScrubRead (pa : Nat) (res : ScrubResult) (s : State) : Out := .next (s.scrub pa res)

/-- RECALIBRATION (R19). -/
def execRecalibration (unit : Nat) (s : State) : Out := .next (s.recalibrate unit)

/-- POWER_INTERVAL (R389). -/
def execPowerInterval (pred temps : List Nat) (watts : Nat) (s : State) : Out := .next (s.powerInterval pred temps watts)

/-- THERMAL_LIMIT_REACHED (R389). -/
def execThermalLimitReached (die : Nat) (s : State) : Out := .next (s.thermalLimit die)

/-- ATTCMD_WRITE (R387). -/
def execAttcmdWrite (v : Word) (s : State) : Out := .next (s.writeRegister 0x300040 v)

/-- QUOTE_COMPLETE (R387). -/
def execQuoteComplete (s : State) : Out := .next s.completeQuote

/-- PCAP_WRITE (R389). -/
def execPcapWrite (v : Word) (s : State) : Out := .next (s.writeRegister 0x300010 v)

/-- SCR_WRITE (R388): the other field of the register keeps its value. -/
def execScrWrite (v : BitVec 4) (s : State) : Out :=
  .next (s.writeRegister 0x300028 (zext v + BitVec.ofNat 64 (s.mgmt.rcl * 2 ^ 4)))

/-- RCL_WRITE (R388): the other field of the register keeps its value. -/
def execRclWrite (v : BitVec 4) (s : State) : Out :=
  .next (s.writeRegister 0x300028 (BitVec.ofNat 64 s.mgmt.scr + (zext v <<< 4)))

/-- ELOG_READ (R388). -/
def execElogRead (s : State) : Out := .next s.readElog

/-- REGISTER_WRITE (R6, R384). -/
def execRegisterWrite (off : Nat) (v : Word) (s : State) : Out := .next (s.writeRegister off v)

end Sys2Proof.Machine
end

