-- ==== Sys2Proof/Machine/Supervisor.lean ====
section
/-! DEFINITION. Faults injected and threads resumed by the supervisor, and rollback (spec/18). -/

set_option linter.constructorNameAsVariable false

namespace Sys2Proof.Machine

namespace State

/-! ## INJECT (R330) -/

/-- An address word of INJECT is aligned and populated. -/
def injectable (s : State) (l : Loc) : Bool :=
  decide (l.addr % 8 = 0) && (if l.space = .gl then s.populated l.addr else decide (l.addr + 8 ≤ spaceSize l.space))

/-- The poison bit of a word is written in its place; a counter has none. -/
def injectAt (s : State) (l : Loc) (p : Bool) : State :=
  if l.space = .gl then
    if inCwin l.addr then s
    else
      let s := s.takeLine none l.addr
      let s : State := { s with mem := s.mem.setPoison l.addr p }
      if p then s.logUncorrectable l.addr else s
  else
    let s := s.touchLocal l.space l.place l.addr 8 none
    s.setLocalMem l.space l.place ((s.localMem l.space l.place).setPoison l.addr p)

/-- INJECT.psn and INJECT.clr (R330): a release. -/
def injectPoison (s : State) (d a : Reg) (p : Bool) : State :=
  let w := (s.reg a).v
  if (s.reg a).p then s.raisePoison
  else match locOf w with
    | none => s.raiseTrap Cause.range w
    | some l =>
      if !s.injectable l then s.raiseTrap Cause.range w
      else s.afterAccesses .dev (fun s =>
        let meets (x : Access) : Bool := decide (x.space = l.space) && (decide (l.space = .gl) || decide (x.place = l.place)) &&
          decide (l.addr < x.addr + x.bytes) && decide (x.addr < l.addr + 8)
        ((s.meetAs .device meets).injectAt l p).finish d Val.zero)

/-- A thread form of INJECT: a change to the target's context, journalled. -/
def injectThread (s : State) (d a : Reg) (f : Thread → Thread) : State :=
  s.onTarget d a (fun s c k => s.afterAccesses .dev (fun s => ((s.modThread c k f).touchCore c [unitOfThread k] none).finish d Val.zero))

/-- INJECT.halt (R330): a DONE thread answers 1, a HALTED one is left. -/
def injectHalt (s : State) (d a : Reg) : State :=
  s.onTarget d a (fun s c k => s.afterAccesses .dev (fun s =>
    let t := s.thread c k
    if t.stat = .done then s.finish d ⟨1, false⟩
    else if t.stat = .halted then s.finish d Val.zero
    else (s.modThread c k (fun t => { t with haltReq := true })).finish d Val.zero))

/-! ## SRET (R331) -/

/-- SRET on a HALTED thread: a release. -/
def onHalted (s : State) (d a : Reg) (k : State → Nat → Nat → State) : State :=
  s.onTarget d a (fun s c x =>
    if (s.thread c x).stat ≠ .halted then s.finish d ⟨1, false⟩ else s.afterAccesses .dev (fun s => k s c x))

/-- SRET.res and SRET.skip. Where the header at s.tpc cannot be read, the thread resumes there and traps as it issues
(log 18). -/
def sretResume (s : State) (d a : Reg) (skip : Bool) : State :=
  s.onHalted d a (fun s c k =>
    let t := s.thread c k
    let p := tpcOf t skip
    match s.blockLength c (s.tenantOf t) p.1 with
    | .error _ => (s.resumeAt c k p.1 p.2).finish d Val.zero
    | .ok (len, s) => if p.2 ≥ len then s.finish d ⟨2, false⟩ else (s.resumeAt c k p.1 p.2).finish d Val.zero)

/-- SRET.user: into the kernel's trap block with IH set. -/
def sretUser (s : State) (d a : Reg) : State :=
  s.onHalted d a (fun s c k =>
    let t := s.thread c k
    match s.gangOf t with
    | none => s.finish d ⟨2, false⟩
    | some g =>
      if g.trap = 0 ∨ t.ih then s.finish d ⟨2, false⟩
      else (((s.modThread c k (fun t => { t with ih := true })).countBlock c k).enterBlock c k g.trap none false none).finish d Val.zero)

/-- SRET.abort: the gang of a HALTED thread; a supervisor thread has none, so nothing is aborted and D is a free value (log 18). -/
def sretAbort (s : State) (d a : Reg) : State :=
  s.onHalted d a (fun s c k =>
    match (s.thread c k).gang? with
    | none => s.freeValue.2.finish d ⟨s.freeValue.1, false⟩
    | some h => (s.abortGang h).finish d Val.zero)

/-- SRET.abort.gang. -/
def sretAbortGang (s : State) (d a : Reg) : State :=
  let w := (s.reg a).v
  if (s.reg a).p then s.raisePoison
  else if bits 10 54 w ≠ 0 then s.raiseTrap Cause.range w
  else match s.gangAt (natBits 0 10 w) with
    | none => s.finish d ⟨1, false⟩
    | some g => if g.stat = .retired then s.finish d ⟨1, false⟩
      else s.afterAccesses .dev (fun s => (s.abortGang (natBits 0 10 w)).finish d Val.zero)

/-! ## Rollback (R326, R329) -/

/-- ROLLBACK, step 1 of R326: the gang's cores have stopped issuing; waits with no effect yet are withdrawn. -/
def haltForRollback (s : State) (h : Nat) : State :=
  match s.gangAt h with
  | some g => if g.rolling then s.bringToHalt h g else s
  | none => s

/-- ROLLBACK_RESTORE, steps 2 to 5 of R326: with the drain complete the snapshot is restored and the replay count goes up. An
abort that waited acts on the restored state, and a pre-emption that waited is accepted (R329). -/
def restoreRollback (s : State) (h : Nat) : State :=
  match s.gangAt h with
  | none => s
  | some g =>
    if g.rolling && s.halted h g then
      let s := (s.withdrawAll h g).rollGang h g
      ((s.modGang h (fun g => { g with rolling := false, replays := g.replays + 1, stall := 0 })).abortIfLate h).takeHeldRequests h
    else s

end State

/-- INJECT.psn (R330). -/
def execInjectPsn (d a : Reg) (s : State) : Out := .next (s.injectPoison d a true)

/-- INJECT.clr (R330). -/
def execInjectClr (d a : Reg) (s : State) : Out := .next (s.injectPoison d a false)

/-- INJECT.sig (R330). -/
def execInjectSig (d a : Reg) (s : State) : Out := .next (s.injectThread d a (fun t => { t with forceMis := true }))

/-- INJECT.tclr (R330). -/
def execInjectTclr (d a : Reg) (s : State) : Out := .next (s.injectThread d a (fun t => { t with tp := false }))

/-- INJECT.halt (R330). -/
def execInjectHalt (d a : Reg) (s : State) : Out := .next (s.injectHalt d a)

/-- SRET.res (R331). -/
def execSretRes (d a : Reg) (s : State) : Out := .next (s.sretResume d a false)

/-- SRET.skip (R331). -/
def execSretSkip (d a : Reg) (s : State) : Out := .next (s.sretResume d a true)

/-- SRET.user (R331). -/
def execSretUser (d a : Reg) (s : State) : Out := .next (s.sretUser d a)

/-- SRET.abort (R331). -/
def execSretAbort (d a : Reg) (s : State) : Out := .next (s.sretAbort d a)

/-- SRET.abort.gang (R331). -/
def execSretAbortGang (d a : Reg) (s : State) : Out := .next (s.sretAbortGang d a)

/-- ROLLBACK (R326). -/
def execRollback (h : Nat) (s : State) : Out := .next (s.haltForRollback h)

/-- ROLLBACK_RESTORE (R326). -/
def execRollbackRestore (h : Nat) (s : State) : Out := .next (s.restoreRollback h)

end Sys2Proof.Machine
end

