-- ==== Sys2Proof/Machine/Clock.lean ====
section
/-! DEFINITION. The passing of time: the cycle count, stall monitors, counts without a HALTED thread, and waiting times of
considered records. -/

set_option linter.constructorNameAsVariable false

namespace Sys2Proof.Machine

namespace State

/-- The monitors of a gang after n cycles in which nothing of it changed (R248, R249, R187): the timer is reset while a thread
runs or engine work is in flight, and holds while a thread is HALTED. -/
def ageGang (s : State) (n h : Nat) (g : Gang) : Gang :=
  if g.stat = .running then
    let live := (s.threadsOn h g.cores).filter (fun x => (s.thread x.1 x.2).live)
    let held := live.any (fun x => decide ((s.thread x.1 x.2).stat = .halted))
    let idle := live.all (fun x => decide ((s.thread x.1 x.2).stat = .halted) || (s.stallReason x.1 x.2).isSome)
    { g with stall := if !idle || s.engineWork h g then 0 else if held then g.stall else g.stall + n
             live := if held then g.live else g.live + n }
  else g

/-- Of n cycles that pass from a count on, those that a context spends in ISSUED: all, but for the one in which its instruction retires and
its next word is fetched, which is counted at its issue (R120, R355, log 4). -/
def issuedFor (t : Thread) (clock n : Nat) : Nat :=
  if t.stat ≠ .issued then 0 else if t.wait = .stall .fetch ∧ t.age = clock then n - 1 else n

/-- Threads that stay in ISSUED for some cycles have them counted. -/
def countIssued (s : State) (n : Nat) : State :=
  s.cores.foldl (fun s e => if e.2.cancel then
    List.foldl (fun s (t : Nat × Thread) =>
      let m := issuedFor t.2 s.clock n
      if m = 0 then s else s.countCycles e.1 t.1 m) s e.2.threads else s) s

/-- The deadline of a parked EVTWAIT (R250). -/
def deadlineOf (t : Thread) : Option Nat :=
  match t.stat, t.wait with
  | .parked, .bar _ _ _ d => d
  | .parked, .line _ _ _ d => d
  | _, _ => none

/-- Of n cycles, those that can pass before a deadline has passed or a stall timer may have reached its threshold, so that neither happens
unseen within them (R248, R250). -/
def quietFor (s : State) (n : Nat) : Nat :=
  let deadlines := s.cores.flatMap (fun e => List.filterMap (fun (t : Nat × Thread) => deadlineOf t.2) e.2.threads)
  let timers := s.gangs.filterMap (fun e => if e.2.stall < e.2.stallT then some (e.2.stallT - e.2.stall) else none)
  ((deadlines.filter (fun d => decide (s.clock ≤ d))).map (fun d => d + 1 - s.clock) ++ timers).foldl min n

/-- A number of cycles passes (log 4). -/
def advance (s : State) (n : Nat) : State :=
  let s := s.consider.countIssued n
  { s with clock := s.clock + n, gangs := s.gangs.mapVals (fun h g => s.ageGang n h g) }

end State

end Sys2Proof.Machine
end

