-- ==== Sys2Proof/Machine/Alu.lean ====
section
/-! DEFINITION. The functions of the scalar integer instructions on 64-bit values (R121 to R135). -/

set_option linter.constructorNameAsVariable false

namespace Sys2Proof.Machine

/-- MULH (R121). -/
def mulHigh (x y : Word) : Word := BitVec.ofInt 64 ((x.toInt * y.toInt) / (2 ^ 64 : Nat))

/-- MULHU (R121). -/
def mulHighU (x y : Word) : Word := BitVec.ofNat 64 (x.toNat * y.toNat / 2 ^ 64)

/-- DIV (R123); the quotient truncates toward zero, and -2^63 / -1 wraps to -2^63. -/
def divS (x y : Word) : Word := if y = 0 then -1 else BitVec.ofInt 64 (x.toInt.tdiv y.toInt)

/-- DIVU (R123). -/
def divU (x y : Word) : Word := if y = 0 then -1 else BitVec.ofNat 64 (x.toNat / y.toNat)

/-- REM (R123). -/
def remS (x y : Word) : Word := if y = 0 then x else BitVec.ofInt 64 (x.toInt.tmod y.toInt)

/-- REMU (R123). -/
def remU (x y : Word) : Word := if y = 0 then x else BitVec.ofNat 64 (x.toNat % y.toNat)

/-- The shift count of a register form (R125). -/
def countOf (b : Word) : Nat := natBits 0 6 b

/-- SHL (R125). -/
def shl (x b : Word) : Word := x <<< countOf b

/-- SHR (R125). -/
def shr (x b : Word) : Word := x >>> countOf b

/-- SAR (R125). -/
def sar (x b : Word) : Word := x.sshiftRight (countOf b)

/-- ROL (R125). -/
def rol (x b : Word) : Word := (x <<< countOf b) ||| (x >>> (64 - countOf b))

/-- MIN (R126). -/
def minS (x y : Word) : Word := if x.slt y then x else y

/-- MAX (R126). -/
def maxS (x y : Word) : Word := if x.slt y then y else x

/-- MINU (R126). -/
def minU (x y : Word) : Word := if x.ult y then x else y

/-- MAXU (R126). -/
def maxU (x y : Word) : Word := if x.ult y then y else x

/-- ABS (R127). -/
def absS (x : Word) : Word := if x.slt 0 then 0 - x else x

/-- CLZ (R127). -/
def clz (x : Word) : Word := if x = 0 then 64 else BitVec.ofNat 64 (63 - Nat.log2 x.toNat)

/-- CTZ (R127). -/
def ctz (x : Word) : Word := BitVec.ofNat 64 (lowest x)

/-- POPC (R127). -/
def popc (x : Word) : Word := BitVec.ofNat 64 (popcount x)

/-- BREV (R127). -/
def brev (x : Word) : Word := x.reverse

/-- BSWAP (R127). -/
def bswap (x : Word) : Word := BitVec.ofNat 64 (ofBytes (bytesOf 8 x.toNat).reverse)

/-- The limits on the position and width of a field (R128). -/
def fieldOk (pos width : Nat) : Bool := decide (1 ≤ width) && decide (width ≤ 64) && decide (pos + width ≤ 64)

/-- EXTR (R128). -/
def extr (sign : Bool) (pos width : Nat) (x : Word) : Word :=
  let f := x.toNat / 2 ^ pos % 2 ^ width
  if sign then BitVec.ofInt 64 (signedNat width f) else BitVec.ofNat 64 f

/-- INSR (R128): field from A, base from B. -/
def insr (pos width : Nat) (a b : Word) : Word :=
  let mask := maskAt 64 pos width
  (b &&& ~~~ mask) ||| ((a <<< pos) &&& mask)

/-- The carry-less product over the low n bits of b (R129). -/
def clProduct (a : Nat) (b : Word) : Nat → Nat
  | 0 => 0
  | n + 1 => if bit n b then clProduct a b n ^^^ (a <<< n) else clProduct a b n

/-- CLMUL (R129). -/
def clmul (a b : Word) : Word := BitVec.ofNat 64 (clProduct a.toNat b 64)

/-- CLMULH (R129). -/
def clmulh (a b : Word) : Word := BitVec.ofNat 64 (clProduct a.toNat b 64 / 2 ^ 64)

/-- LIH (R130). -/
def lih (imm : Half) (a : Word) : Word := imm ++ bits 0 32 a

/-- LEA (R131). -/
def leaAddr (a b : Word) (sh : Nat) (disp : Half) : Word := a + (b <<< sh) + sext disp

/-- Integer conditions (R132). -/
def icond (c : ICond) (x y : Word) : Bool :=
  match c with
  | .eq => decide (x = y)
  | .ne => decide (x ≠ y)
  | .lt => x.slt y
  | .ge => !x.slt y
  | .ltu => x.ult y
  | .geu => !x.ult y

/-- PLOG (R134): the table bit 2 · pA + pB. -/
def plogBit (table : BitVec 4) (pa pb : Bool) : Bool := bit ((if pa then 2 else 0) + (if pb then 1 else 0)) table

/-- PMOV.set (R135). -/
def pmovPreds (old : BitVec 8) (mask : BitVec 8) (a : Word) : BitVec 8 := (old &&& ~~~ mask) ||| (bits 0 8 a &&& mask)

end Sys2Proof.Machine
end

