-- ==== Sys2Proof/Machine/ListWalk.lean ====
section
/-! DEFINITION. The list walker (spec/15, R287 to R289): the entries of a command list. -/

set_option linter.constructorNameAsVariable false

namespace Sys2Proof.Machine

/-- OP of an entry (R287). -/
def entryOp (e : List Word) : Nat := natBits 0 4 (blkWord e 0)

/-- The counter target of an entry (R287). -/
def entryTarget (e : List Word) : Nat := natBits 4 22 (blkWord e 0)

/-- An entry is valid (R287): its OP is one of the nine, and the fields that its OP does not list are zero. The 8-byte word that SKIPIF
reads stands at a multiple of 8, as the image of TABLE does: R287 states no alignment for it (DESIGN CHOICE, log 43). -/
def entryOk (e : List Word) : Bool :=
  let w0 := blkWord e 0
  let w1 := blkWord e 1
  let w2 := decide (blkWord e 2 = 0)
  let addr (align : Nat) : Bool := decide (bits 48 16 w1 = 0) && decide (w1.toNat % align = 0)
  decide (blkWord e 3 = 0) && (match entryOp e with
    | 1 => decide (bits 4 60 w0 = 0) && addr 64 && w2
    | 2 => decide (bits 26 38 w0 = 0) && decide (bits 32 32 w1 = 0) && w2
    | 3 => decide (bits 7 1 w0 = 0) && decide (bits 16 48 w0 = 0) && decide (natBits 4 3 w0 ≤ 5) && decide (bits 8 8 w0 ≠ 0) && addr 8
    | 4 => decide (bits 4 60 w0 = 0) && addr 32 && w2
    | 5 => decide (bits 4 60 w0 = 0) && addr 32 && w2
    | 6 => decide (bits 4 60 w0 = 0) && decide (w1 = 0) && w2
    | 7 => decide (bits 27 37 w0 = 0) && decide (bits 32 32 w1 = 0) && w2
    | 8 => decide (bits 4 60 w0 = 0) && decide (w1 = 0) && w2
    | 9 => decide (bits 7 57 w0 = 0) && addr 8 && w2
    | _ => false)

/-- Action bits [63:55] of one of an image's 64 entries are set (R289). -/
def imageBad (img : List Word) : Bool := (List.range 64).any (fun i => decide (bits 55 9 (blkWord img (3 * i + 2)) ≠ 0))

namespace State

/-- The list walker on which a list event acts. -/
def walker? (s : State) : Option Walker := s.walkers.find? (fun w => w.id = s.walker)

/-- The running walker changed. -/
def modWalker (s : State) (f : Walker → Walker) : State :=
  { s with walkers := s.walkers.map (fun w => if w.id = s.walker then f w else w) }

/-- The list ends (R288, R289). -/
def endList (s : State) : State := { s with walkers := s.walkers.filter (fun w => decide (w.id ≠ s.walker)) }

/-- The list fails with a code: its queue halts, its DCT is not posted (R276, R289). -/
def failList (s : State) (w : Walker) (code : Nat) : State := s.endList.failQueue w.q w.idx code

/-- The walker goes on at an address. -/
def goList (s : State) (pc : Nat) : State := s.modWalker (fun w => { w with pc := pc })

/-- The entry at which a walker stands, where it is translated, clean and valid, and follows a TABLE as R288 requires. -/
def listEntry (s : State) (w : Walker) : Option (List Word) :=
  match s.tenantWords w.tenant w.pc 4 with
  | some (e, false) =>
    if entryOk e && (w.images.isEmpty || decide (entryOp e = 1) || decide (entryOp e = 9)) then some e else none
  | _ => none

/-- One entry with a given OP is walked; an entry that the list fails at fails it, and an entry of another OP is left (log 3). -/
def walk1 (s : State) (op : Nat) (k : State → Walker → List Word → State) : State :=
  match s.walker? with
  | none => s
  | some w =>
    match s.listEntry w with
    | none => s.failList w 6
    | some e => if entryOp e = op then k s w e else s

/-- LAUNCH: a record is checked and submitted in the list record's place (R288, R279). -/
def listSubmit (s : State) (w : Walker) (e : List Word) : State :=
  let fail := s.failList w 6
  match s.tenantWords w.tenant (natBits 0 48 (blkWord e 1)) 8 with
  | none => fail
  | some (r, psn) =>
    if psn || decide (recKind r > 3) || (!w.images.isEmpty && decide (recKind r ≠ 0)) ||
        w.images.any (fun x => decide (x.1 ≥ recTbls r)) then fail
    else match s.checkRecord w.tenant r false false with
      | .error _ => fail
      | .ok words =>
        let n := s.seq
        let s := s.addRecord { mkRecord words w.tenant (min (recPrio words) (s.queueAt w.q).pcap) with
          q := some (w.q, w.idx), list := some w.id, images := w.images }
        s.modWalker (fun w => { w with pc := w.pc + 32, images := [], subs := w.subs ++ [n] })

/-- TABLE: an image is attached to the next LAUNCH (R288); its words are read here. -/
def listTable (s : State) (w : Walker) (e : List Word) : State :=
  if w.images.length ≥ 8 then s.failList w 6
  else match s.tenantWords w.tenant (natBits 0 48 (blkWord e 1)) 192 with
    | none => s.failList w 4
    | some (img, psn) =>
      if psn then s.failList w 2
      else if imageBad img then s.failList w 6
      else s.modWalker (fun w => { w with pc := w.pc + 32, images := w.images ++ [(natBits 4 3 (blkWord e 0), img)] })

/-- A post of a list to a counter is under way: what the list reads of the counter comes after it (R262 row 7). -/
def listPosting (s : State) (w : Walker) (core idx : Nat) : Bool :=
  s.posts.any (fun x => decide (x.rec_ = some w.id) && decide (x.core = core) && decide (x.idx = idx))

/-- A list that stands at a WAITC goes on (R288). -/
def waitcMet (s : State) (w : Walker) (e : List Word) : Bool :=
  let ct := entryTarget e
  !s.listPosting w (ct % 2 ^ 14) (ct / 2 ^ 14) && reached (s.counterAt (ct % 2 ^ 14) (ct / 2 ^ 14)) (bits 0 32 (blkWord e 1))

/-- The word that a SKIPIF reads is a counter to which a post of the list is under way. -/
def skipHeld (s : State) (w : Walker) (e : List Word) : Bool :=
  match s.tenantAddr w.tenant (natBits 0 48 (blkWord e 1)) with
  | some pa => inCwin pa && s.listPosting w ((pa - Config.cwinBase) / 2048) ((pa - Config.cwinBase) / 8 % 256)
  | none => false

/-- A list that stands at a FENCE goes on: every launch that it has submitted has completed, and its tenant's launches and copies have
no post under way, for the list acquires their DCT releases (R282, R288). -/
def fenceMet (s : State) (w : Walker) : Bool :=
  w.subs.isEmpty && s.posts.all (fun x => x.rec_.isNone || decide (x.rec_ = some w.id) || decide (x.tenant ≠ some w.tenant))

/-- WAITC: goes on once its counter has reached the target (R288). -/
def listWait (s : State) (w : Walker) (e : List Word) : State :=
  if !s.inSubmesh (some w.tenant) (entryTarget e % 2 ^ 14) then s.failList w 6
  else if s.waitcMet w e then s.goList (w.pc + 32)
  else s

/-- SKIPIF: the next N entries are skipped when the condition of the word against the value holds (R288). -/
def listSkip (s : State) (w : Walker) (e : List Word) : State :=
  if s.skipHeld w e then s
  else match s.tenantWords w.tenant (natBits 0 48 (blkWord e 1)) 1, ICond.ofBits (bits 4 3 (blkWord e 0)) with
  | some ([v], false), some c =>
    s.goList (w.pc + 32 + (if icond c v (blkWord e 2) then 32 * natBits 8 8 (blkWord e 0) else 0))
  | _, _ => s.failList w 6

/-- CALL (R288). -/
def listCall (s : State) (w : Walker) (e : List Word) : State :=
  if w.stack.length ≥ 8 then s.failList w 6
  else s.modWalker (fun w => { w with pc := natBits 0 48 (blkWord e 1), stack := (w.pc + 32) :: w.stack })

/-- RET: with an empty stack the list ends and its DCT is posted (R288, R279). -/
def listReturn (s : State) (w : Walker) : State :=
  match w.stack with
  | a :: r => s.modWalker (fun w => { w with pc := a, stack := r })
  | [] => s.endList.postField w.tenant w.id (blkWord w.words 6) 0

/-- POST: the increment leaves for its counter, and is performed after the list's earlier ones (R288). -/
def listPost (s : State) (w : Walker) (e : List Word) : State :=
  let ct := entryTarget e
  if !s.inSubmesh (some w.tenant) (ct % 2 ^ 14) then s.failList w 6
  else (s.sendPostOf (some w.tenant) none none (some w.id) ct (bits 0 32 (blkWord e 1))).goList (w.pc + 32)

end State

/-- LIST_LAUNCH (R288). -/
def execListLaunch (s : State) : Out := .next (s.walk1 1 (fun s w e => s.listSubmit w e))

/-- LIST_WAITC (R288). -/
def execListWaitc (s : State) : Out := .next (s.walk1 2 (fun s w e => s.listWait w e))

/-- LIST_SKIPIF (R288). -/
def execListSkipif (s : State) : Out := .next (s.walk1 3 (fun s w e => s.listSkip w e))

/-- LIST_JUMP (R288). -/
def execListJump (s : State) : Out := .next (s.walk1 4 (fun s _ e => s.goList (natBits 0 48 (blkWord e 1))))

/-- LIST_CALL (R288). -/
def execListCall (s : State) : Out := .next (s.walk1 5 (fun s w e => s.listCall w e))

/-- LIST_RET (R288). -/
def execListRet (s : State) : Out := .next (s.walk1 6 (fun s w _ => s.listReturn w))

/-- LIST_POST (R288). -/
def execListPost (s : State) : Out := .next (s.walk1 7 (fun s w e => s.listPost w e))

/-- LIST_FENCE (R288): goes on once every launch that the list has submitted has completed. -/
def execListFence (s : State) : Out := .next (s.walk1 8 (fun s w _ => if s.fenceMet w then s.goList (w.pc + 32) else s))

/-- LIST_TABLE (R288). -/
def execListTable (s : State) : Out := .next (s.walk1 9 (fun s w e => s.listTable w e))

end Sys2Proof.Machine
end

