-- ==== Sys2Proof/Machine/Scalar.lean ====
section
/-! DEFINITION. The meanings of the scalar instructions (spec/07). None of them traps but EXTR and INSR. -/

set_option linter.constructorNameAsVariable false

namespace Sys2Proof.Machine

/-- ADD (R121). -/
def execAdd (d a b : Reg) (s : State) : Out := .next (s.binop (· + ·) d a b)

/-- SUB (R121). -/
def execSub (d a b : Reg) (s : State) : Out := .next (s.binop (· - ·) d a b)

/-- MUL (R121). -/
def execMul (d a b : Reg) (s : State) : Out := .next (s.binop (· * ·) d a b)

/-- MULH (R121). -/
def execMulh (d a b : Reg) (s : State) : Out := .next (s.binop mulHigh d a b)

/-- MULHU (R121). -/
def execMulhu (d a b : Reg) (s : State) : Out := .next (s.binop mulHighU d a b)

/-- DIV (R123). -/
def execDiv (d a b : Reg) (s : State) : Out := .next (s.binop divS d a b)

/-- DIVU (R123). -/
def execDivu (d a b : Reg) (s : State) : Out := .next (s.binop divU d a b)

/-- REM (R123). -/
def execRem (d a b : Reg) (s : State) : Out := .next (s.binop remS d a b)

/-- REMU (R123). -/
def execRemu (d a b : Reg) (s : State) : Out := .next (s.binop remU d a b)

/-- AND (R124). -/
def execAnd (d a b : Reg) (s : State) : Out := .next (s.binop (· &&& ·) d a b)

/-- OR (R124). -/
def execOr (d a b : Reg) (s : State) : Out := .next (s.binop (· ||| ·) d a b)

/-- XOR (R124). -/
def execXor (d a b : Reg) (s : State) : Out := .next (s.binop (· ^^^ ·) d a b)

/-- SHL (R125). -/
def execShl (d a b : Reg) (s : State) : Out := .next (s.binop shl d a b)

/-- SHR (R125). -/
def execShr (d a b : Reg) (s : State) : Out := .next (s.binop shr d a b)

/-- SAR (R125). -/
def execSar (d a b : Reg) (s : State) : Out := .next (s.binop sar d a b)

/-- ROL (R125). -/
def execRol (d a b : Reg) (s : State) : Out := .next (s.binop rol d a b)

/-- MIN (R126). -/
def execMin (d a b : Reg) (s : State) : Out := .next (s.binop minS d a b)

/-- MINU (R126). -/
def execMinu (d a b : Reg) (s : State) : Out := .next (s.binop minU d a b)

/-- MAX (R126). -/
def execMax (d a b : Reg) (s : State) : Out := .next (s.binop maxS d a b)

/-- MAXU (R126). -/
def execMaxu (d a b : Reg) (s : State) : Out := .next (s.binop maxU d a b)

/-- CLMUL (R129). -/
def execClmul (d a b : Reg) (s : State) : Out := .next (s.binop clmul d a b)

/-- CLMULH (R129). -/
def execClmulh (d a b : Reg) (s : State) : Out := .next (s.binop clmulh d a b)

/-- ADDI (R122). -/
def execAddi (d a : Reg) (imm : Half) (s : State) : Out := .next (s.immop (· + ·) d a (sext imm))

/-- ANDI (R122). -/
def execAndi (d a : Reg) (imm : Half) (s : State) : Out := .next (s.immop (· &&& ·) d a (sext imm))

/-- ORI (R122). -/
def execOri (d a : Reg) (imm : Half) (s : State) : Out := .next (s.immop (· ||| ·) d a (sext imm))

/-- XORI (R122). -/
def execXori (d a : Reg) (imm : Half) (s : State) : Out := .next (s.immop (· ^^^ ·) d a (sext imm))

/-- SHLI (R125). -/
def execShli (d a : Reg) (n : BitVec 6) (s : State) : Out := .next (s.immop shl d a (zext n))

/-- SHRI (R125). -/
def execShri (d a : Reg) (n : BitVec 6) (s : State) : Out := .next (s.immop shr d a (zext n))

/-- SARI (R125). -/
def execSari (d a : Reg) (n : BitVec 6) (s : State) : Out := .next (s.immop sar d a (zext n))

/-- ROLI (R125). -/
def execRoli (d a : Reg) (n : BitVec 6) (s : State) : Out := .next (s.immop rol d a (zext n))

/-- ABS (R127). -/
def execAbs (d a : Reg) (s : State) : Out := .next (s.unop absS d a)

/-- CLZ (R127). -/
def execClz (d a : Reg) (s : State) : Out := .next (s.unop clz d a)

/-- CTZ (R127). -/
def execCtz (d a : Reg) (s : State) : Out := .next (s.unop ctz d a)

/-- POPC (R127). -/
def execPopc (d a : Reg) (s : State) : Out := .next (s.unop popc d a)

/-- BREV (R127). -/
def execBrev (d a : Reg) (s : State) : Out := .next (s.unop brev d a)

/-- BSWAP (R127). -/
def execBswap (d a : Reg) (s : State) : Out := .next (s.unop bswap d a)

/-- EXTR (R128): limits that only a hand-built word breaks trap RANGE. -/
def execExtr (d a : Reg) (sign : Bool) (pos : BitVec 6) (width : BitVec 7) (s : State) : Out :=
  .next (if fieldOk pos.toNat width.toNat then s.unop (extr sign pos.toNat width.toNat) d a
    else s.raiseTrap Cause.range s.me.word)

/-- INSR (R128). -/
def execInsr (d a b : Reg) (pos : BitVec 6) (width : BitVec 7) (s : State) : Out :=
  .next (if fieldOk pos.toNat width.toNat then s.binop (insr pos.toNat width.toNat) d a b
    else s.raiseTrap Cause.range s.me.word)

/-- LI (R130). -/
def execLi (d : Reg) (imm : Half) (s : State) : Out := .next (s.finish d ⟨sext imm, false⟩)

/-- LIH (R130). -/
def execLih (d a : Reg) (imm : Half) (s : State) : Out := .next (s.unop (lih imm) d a)

/-- LEA (R131). -/
def execLea (d a b : Reg) (sh : BitVec 2) (disp : Half) (s : State) : Out :=
  .next (s.binop (fun x y => leaAddr x y sh.toNat disp) d a b)

/-- CMP (R132). -/
def execCmp (cond : ICond) (p : BitVec 3) (a b : Reg) (s : State) : Out :=
  .next (s.predop p (icond cond (s.reg a).v (s.reg b).v) ((s.reg a).p || (s.reg b).p))

/-- CMPI (R132). -/
def execCmpi (cond : ICond) (p : BitVec 3) (a : Reg) (imm : Half) (s : State) : Out :=
  .next (s.predop p (icond cond (s.reg a).v (sext imm)) (s.reg a).p)

/-- SEL (R133): the poison of the operand selected, and no other. -/
def execSel (d a b : Reg) (p : BitVec 3) (s : State) : Out :=
  .next (s.finish d (if s.me.pred p.toNat then s.reg a else s.reg b))

/-- PLOG (R134). -/
def execPlog (pd pa pb : BitVec 3) (table : BitVec 4) (s : State) : Out :=
  .next (s.predop pd (plogBit table (s.me.pred pa.toNat) (s.me.pred pb.toNat)) false)

/-- PMOV.get (R135). -/
def execPmovGet (d : Reg) (s : State) : Out := .next (s.finish d ⟨zext s.me.preds, false⟩)

/-- PMOV.set (R135). -/
def execPmovSet (a : Reg) (mask : BitVec 8) (s : State) : Out :=
  .next ((s.modMe (fun t => { t with preds := pmovPreds t.preds mask (s.reg a).v }.taintFlag (s.reg a).p)).retire)

/-- CSET (R136). -/
def execCset (c : BitVec 2) (a : Reg) (imm : Half) (s : State) : Out :=
  .next ((s.modMe (fun t => (t.setCounter c.toNat (bits 0 32 (s.reg a).v + imm)).taintFlag (s.reg a).p)).retire)

/-- CRD (R136). -/
def execCrd (d : Reg) (c : BitVec 2) (s : State) : Out :=
  .next (s.finish d ⟨zext (s.me.counter c.toNat), false⟩)

/-- CADD (R136): D receives the new value. -/
def execCadd (d : Reg) (c : BitVec 2) (imm : Half) (s : State) : Out :=
  .next ((s.modMe (fun t => t.setCounter c.toNat (t.counter c.toNat + imm))).finish d
    ⟨zext (s.me.counter c.toNat + imm), false⟩)

/-- FADD (R137). -/
def execFadd (d a b : Reg) (rm : Rnd) (s : State) : Out := .next (s.fpBin fpAdd d a b rm)

/-- FSUB (R137). -/
def execFsub (d a b : Reg) (rm : Rnd) (s : State) : Out := .next (s.fpBin fpSub d a b rm)

/-- FMUL (R137). -/
def execFmul (d a b : Reg) (rm : Rnd) (s : State) : Out := .next (s.fpBin fpMul d a b rm)

/-- FFMA (R137): D is the addend and the result. -/
def execFfma (d a b : Reg) (rm : Rnd) (s : State) : Out :=
  .next (s.fpFinish d (fpFma (s.rounding rm) (s.fpReg a) (s.fpReg b) (s.fpReg d))
    ((s.reg a).p || (s.reg b).p || (s.reg d).p))

/-- FMIN (R138). -/
def execFmin (d a b : Reg) (s : State) : Out := .next (s.fpBin (fun _ => fpMinMax false) d a b .rne)

/-- FMAX (R138). -/
def execFmax (d a b : Reg) (s : State) : Out := .next (s.fpBin (fun _ => fpMinMax true) d a b .rne)

/-- FCMP (R139): writes pN only. -/
def execFcmp (cond : FCond) (p : BitVec 3) (a b : Reg) (s : State) : Out :=
  let r := fpCond cond (f32 (s.fpReg a)) (f32 (s.fpReg b))
  .next ((s.modMe (fun t => t.addFlags r.2)).predop p r.1 ((s.reg a).p || (s.reg b).p))

/-- The register image of a converted element: integers sign-extended, others with zeros above (R140). -/
def cvtImage (dst : Fmt) (x : Nat) : Word :=
  match dst with
  | .i8 => BitVec.ofInt 64 (signedNat 8 x)
  | .i32 => BitVec.ofInt 64 (signedNat 32 x)
  | .f32 => BitVec.ofNat 64 x
  | .bf16 => BitVec.ofNat 64 x
  | .e4m3 => BitVec.ofNat 64 x
  | .e5m2 => BitVec.ofNat 64 x

/-- FCVT (R141). -/
def execFcvt (d a : Reg) (rm : Rnd) (src dst : Fmt) (sat : Bool) (s : State) : Out :=
  let r := fpCvt src dst sat (s.rounding rm) (s.fpReg a)
  .next ((s.modMe (fun t => t.addFlags r.2)).finish d ⟨cvtImage dst r.1, (s.reg a).p⟩)

/-- FCLASS (R142). -/
def execFclass (d a : Reg) (s : State) : Out :=
  .next (s.finish d ⟨BitVec.ofNat 64 (2 ^ fpClass (s.fpReg a)), (s.reg a).p⟩)

/-- FEXP2 (R82, R143). -/
def execFexp2 (d a : Reg) (s : State) : Out := .next (s.fpUn fpExp2 d a)

/-- FLOG2 (R83, R143). -/
def execFlog2 (d a : Reg) (s : State) : Out := .next (s.fpUn fpLog2 d a)

/-- FRCP (R84, R143). -/
def execFrcp (d a : Reg) (s : State) : Out := .next (s.fpUn fpRcp d a)

/-- FRSQ (R85, R143). -/
def execFrsq (d a : Reg) (s : State) : Out := .next (s.fpUn fpRsq d a)

/-- FSCALE (R144): B is a signed integer. -/
def execFscale (d a b : Reg) (rm : Rnd) (s : State) : Out :=
  .next (s.fpFinish d (fpScale (s.rounding rm) (s.fpReg a) (s.reg b).v.toInt) ((s.reg a).p || (s.reg b).p))

end Sys2Proof.Machine
end

