-- ==== Sys2Proof/Machine/Front.lean ====
section
/-! DEFINITION. The front end: fetching the next word of a thread, the checks of R59, what holds an instruction back, and the
choice of what happens next where the agenda names nothing. -/

set_option linter.constructorNameAsVariable false

namespace Sys2Proof.Machine

/-! ## Checking a word (R59) -/

/-- NEXT, STOP and TRAP may only be the last word of a block, and no other word may be (R59, check 2). -/
def isEnder (w : Word) : Bool := decide (opOf w = 0x01) || decide (opOf w = 0x02) || decide (opOf w = 0x05)

/-- Format Y (R58). -/
def isPrivileged (w : Word) : Bool := decide (bits 4 4 (opOf w) = 0xE)

/-- The instruction of a word at an offset of a block, or the cause of its trap (R59). -/
def checkWord (w : Word) (off len : Nat) (priv : Bool) : Except (BitVec 8) Instr :=
  match decode w with
  | .error .unassigned => .error Cause.illegalOp
  | r =>
    if decide (off + 1 = len) != isEnder w then .error Cause.illegalOp
    else if isPrivileged w && !priv then .error Cause.privileged
    else match r with
      | .ok i => .ok i
      | .error _ => .error Cause.illegalOp

/-! ## What holds an instruction back (R88, R262) -/

/-- The registers that a word names: D, A and B (R53 to R58). -/
def named (w : Word) : List Reg := [bits 50 6 w, bits 44 6 w, bits 38 6 w].filter (· ≠ 0)

/-- The registers that a word reads: A and B, but for the second destination of MRECV; and D of AMOCAS and FFMA. -/
def sources (w : Word) : List Reg :=
  bits 44 6 w :: ((if opOf w = 0xA7 then [] else [bits 38 6 w]) ++ (if opOf w = 0x68 ∨ opOf w = 0x54 then [bits 50 6 w] else []))

/-- The entries of the register cache that some registers of a context have: g0 to g53 alone have one (R95). -/
def entriesOf (k : Nat) (rs : List Reg) : List Nat :=
  (rs.filter (fun r => decide (10 ≤ r.toNat))).map (fun r => 64 * k + (r.toNat - 10))

/-- The cycles that R120 states for a scalar instruction of an opcode; 1 for every other. -/
def issueCycles (op : BitVec 8) : Nat :=
  let n := op.toNat
  if n = 0x23 ∨ n = 0x24 ∨ n = 0x25 ∨ n = 0x44 ∨ n = 0x45 then 4
  else if 0x26 ≤ n ∧ n ≤ 0x29 then 36
  else if (0x51 ≤ n ∧ n ≤ 0x54) ∨ n = 0x58 ∨ n = 0x5E then 4
  else if n = 0x55 ∨ n = 0x56 ∨ n = 0x57 ∨ n = 0x59 then 2
  else if 0x5A ≤ n ∧ n ≤ 0x5D then 14
  else 1

/-- A load or an atomic under way still writes a register that the word names (R262 rows 4 to 6). -/
def registerHeld (t : Thread) (w : Word) : Bool :=
  t.out.any (fun x => match x.kind with
    | .store => false
    | _ => (named w).any (fun r => decide (r = x.dest) || (decide (r = 1) && x.toQ)))

/-- NEXT and the table instructions, whose place among the events of the core a synchronising operation orders (R16, R18, R111, TBGEN). -/
def isTableOp (w : Word) : Bool := decide (opOf w = 0x01) || (decide (0x10 ≤ (opOf w).toNat) && decide ((opOf w).toNat ≤ 0x15))

/-- An instruction beyond the access instructions waits for an earlier acquire to be performed (R262 row 1), and so do NEXT and the table
instructions: TAKE, FILL and TRYTAKE look for themselves. -/
def acquireHeld (t : Thread) (w : Word) : Bool :=
  (decide ((opOf w).toNat ≥ 0x70) || isTableOp w) && t.out.any (fun x => x.acq && !x.guardedFor x.scope)

/-- What holds a word back, if anything. -/
def holdBack (t : Thread) (w : Word) : Option Stall :=
  if registerHeld t w then some .register else if acquireHeld t w then some .order else none

/-- A wait in ISSUED that is tried again by issuing. -/
def retriable : Wait → Bool
  | .stall .register => true
  | .stall .miss => true
  | .stall .order => true
  | .stall .table => true
  | .stall .version => true
  | .stall .limit => true
  | .stall .ring => true
  | .stall .inval => true
  | .stall .fetch => true
  | _ => false

/-- What an issue comes to: a state, or an instruction to run. -/
inductive Front where
  | done (s : State)
  | run (i : Instr) (s : State)

namespace State

/-- Every entry of some is in the register cache of the running thread's core. -/
def hasResident (s : State) (es : List Nat) : Bool := es.all (fun e => (s.coreAt s.core).resident.contains e)

/-- The entries that the issued word needs in the register cache and that are not there: what it reads, then what it writes. -/
def missing (s : State) : List Nat :=
  (entriesOf s.ctx (sources s.me.word ++ dests s.me.word)).filter (fun e => !(s.coreAt s.core).resident.contains e)

/-- An instruction runs unless something holds it back (R87). A register that it reads and the register cache does not hold makes it
wait in ISSUED; one that it writes gets an entry at once, if there can be room (R95). -/
def release (s : State) (i : Instr) : Front :=
  match holdBack s.me s.me.word with
  | some why => .done (s.stall why)
  | none =>
    let writes := entriesOf s.ctx (dests s.me.word)
    if s.hasResident (entriesOf s.ctx (sources s.me.word)) then
      let s := writes.foldl (fun s e => s.cacheRegister s.core e) s
      if s.hasResident writes then .run i s else .done (s.stall .miss)
    else .done (s.stall .miss)

/-! ## Convoys (R98, R100) -/

/-- Contexts by age, oldest first, ties to the lower number (R98): one put in its place. -/
def insertByAge (age : Nat → Nat) (k : Nat) : List Nat → List Nat
  | [] => [k]
  | j :: r => if age k < age j ∨ (age k = age j ∧ k < j) then k :: j :: r else j :: insertByAge age k r

/-- A context is READY and may issue. -/
def ready (s : State) (t : Thread) : Bool := decide (t.stat = .ready) && s.mayIssue t

/-- The contexts of a core that satisfy a test. -/
def contextsOn (s : State) (c : Nat) (p : Nat → Thread → Bool) : List Nat :=
  ((s.coreAt c).threads.map (·.1)).filter (fun k => p k (s.thread c k))

/-- Contexts of a core by age, oldest first, ties to the lower number (R17, R98). -/
def byAge (s : State) (c : Nat) (l : List Nat) : List Nat := l.foldl (fun r k => insertByAge (fun j => (s.thread c j).age) k r) []

/-- The convoy of a READY context: the READY contexts of its core that stand at its place with its tenant, the 16 oldest where there are
more, in ascending number. One that is not among the 16 issues by itself (log 36). -/
def convoyOf (s : State) (c k : Nat) : List Nat :=
  let t := s.thread c k
  let same := s.contextsOn c (fun _ x => s.ready x && decide (s.tenantOf x = s.tenantOf t) && decide (x.pcBlk = t.pcBlk) &&
    decide (x.pcOff = t.pcOff))
  let oldest := (s.byAge c same).take 16
  if oldest.contains k then same.filter oldest.contains else [k]

/-- The READY context of a core that issues next (R98, R100): of a convoy that has begun to issue, the lowest member that has not; else,
of the convoys of the contexts of greatest age, the one that holds the lowest s.tid, and of it the lowest member. -/
def issuerOn (s : State) (c : Nat) : Option Nat :=
  let ready := s.contextsOn c (fun _ t => s.ready t)
  match (ready.filter (s.coreAt c).unissued.contains).min? with
  | some k => some k
  | none => ((ready.filter (fun j => ready.all (fun i => decide ((s.thread c j).age ≤ (s.thread c i).age)))).filterMap
      (fun j => (s.convoyOf c j).head?)).min?

/-- A READY context takes its lane in the convoy that issues, or in one formed afresh. -/
def joinConvoy (s : State) (c k : Nat) : State :=
  if (s.coreAt c).unissued.contains k then s.modCore c (fun x => { x with unissued := x.unissued.filter (· ≠ k) })
  else
    let l := s.convoyOf c k
    s.modCore c (fun x => { x with convoy := l, unissued := l.filter (· ≠ k) })

/-- The physical table on whose refresh or clear an instruction of the running thread waits (R112), and whether it comes after the TBWs and
TBRs of its cycle: TBCOMMIT does (R111), and TBCLR with it (DESIGN CHOICE, log 42). -/
def tableWork (s : State) (i : Instr) : Option (Nat × Bool) :=
  let work (tb : BitVec 3) (late : Bool) : Option (Nat × Bool) := (s.teamTable tb.toNat).map (fun n => (n, late))
  match i with
  | .tbw tb _ _ _ => work tb false
  | .tbr _ tb _ _ => work tb false
  | .tbclr tb => work tb true
  | .tbcommit _ tb => work tb true
  | _ => none

/-- Another context waits for the table of an instruction of the running thread and comes first (R17, R111, R112): one that waits does so
before one that arrives now, TBWs and TBRs before commits and clears, then the order of arrival, then s.tid. -/
def tableBehind (s : State) (i : Instr) (since : Option Nat) : Bool :=
  match s.tableWork i with
  | none => false
  | some (n, late) => !(s.contextsOn s.core (fun k t => decide (k ≠ s.ctx) && decide (t.stat = .issued) && decide (t.wait = .stall .table) &&
      s.mayIssue t && (match t.held.bind ({ s with ctx := k } : State).tableWork with
        | some (m, after) => decide (m = n) && ((late && !after) || (decide (late = after) && since.all (fun a =>
            decide (t.age < a) || (decide (t.age = a) && decide (k < s.ctx)))))
        | none => false))).isEmpty

/-- An instruction that waits for a table goes on waiting: the work is not over, or another comes first. -/
def tableHeld (s : State) (i : Instr) : Bool :=
  decide (s.me.wait = .stall .table) && (s.tableBehind i (some s.me.age) || (match s.tableWork i with
    | some (n, _) => (s.tableAt s.core n).busy.isSome
    | none => false))

/-- The word at the running thread's position, where the header of its block has been read: none where the position is none of the
block or the fetch faults, and the thread has trapped (R61, R87, R309, R336). -/
def nextWord (s : State) : Option Word × State :=
  let t := s.me
  let va := 8 * (t.pcBlk.toNat + 2 + t.pcOff)
  if t.pcOff ≥ t.blockLen then (none, s.raiseTrap Cause.range (pcWord t.pcBlk t.pcOff))
  else match s.fetchCode s.core (s.tenantOf t) va with
    | .error e => (none, s.raiseTrap e (BitVec.ofNat 64 va))
    | .ok (w, s) => (some w, s)

/-- The header of the running thread's block is read where that has not been done: because the read faulted on entry, or the thread was
resumed (R61). R338 does not say whether the live-in mask of a block entered by NEXT, TSTART or gang start applies then: the registers
keep their values (DESIGN CHOICE, log 42). -/
def headed (s : State) : State := if s.me.loaded then s else s.readHeader s.core s.ctx false (some (s.core, s.ctx))

/-- A thread in ISSUED whose instruction has retired gets its next word and is READY, or traps (R87, R88). -/
def fetchNext (s : State) : State :=
  let s := s.headed
  if s.me.stat = .issued then
    match s.nextWord with
    | (some w, s) => (s.modMe (fun t => { t with stat := .ready, code := some w, wait := .none, age := s.clock })).touchCore s.core
        [unitOfThread s.ctx] (some (s.core, s.ctx))
    | (none, s) => s
  else s

/-- A word of the running thread is checked and issued (R59, R60, R87). -/
def issueWord (s : State) (w : Word) : Front :=
  let t := s.me
  let s := ((s.countCycles s.core s.ctx (issueCycles (opOf w))).modMe (fun t =>
    { t with stat := .issued, code := none, word := w, held := none, wait := .none })).touchCore s.core [unitOfThread s.ctx]
      (some (s.core, s.ctx))
  match checkWord w t.pcOff t.blockLen t.priv with
  | .error _ => .run .decodeFailure s
  | .ok i =>
    let s := s.modMe (fun t => { t with held := some i })
    if s.tableBehind i none then .done s.queueTable else s.release i

/-- A READY thread issues (R88, R98, R316, R330): a halt or an asynchronous trap that is due is taken first. Another context of the core may
come first (R98, R100): then nothing happens. The word of one that could not get it as it became READY is fetched now. -/
def issueReady (s : State) : Front :=
  let t := s.me
  if t.haltReq then .run (.debugHalt s.core s.ctx) s
  else if t.async.isSome && !t.ih then .run (.asyncTrapTake s.core s.ctx) s
  else if s.issuerOn s.core ≠ some s.ctx then .done s
  else
    let s := s.joinConvoy s.core s.ctx
    match t.code with
    | some w => s.issueWord w
    | none =>
      let s := s.headed
      if s.me.stat = .ready then
        match s.nextWord with
        | (some w, s) => s.issueWord w
        | (none, s) => .done s
      else .done s

/-- A context issues, or tries again what it is stalled on; one that cannot leaves the state as it is (log 3). -/
def frontEnd (s : State) (c k : Nat) : Front :=
  let s : State := { s with core := c, ctx := k }
  let t := s.me
  if !s.mayIssue t then .done s
  else
    match t.stat with
    | .ready => s.issueReady
    | .issued =>
      match t.held with
      | some i =>
        if retriable t.wait && !s.tableHeld i then (s.modMe (fun t => { t with wait := .none })).release i else .done s
      | none => .done (if t.wait = .stall .fetch then s.fetchNext else s)
    | .free | .parked | .trapped | .halted | .done => .done s

end State

/-- DECODE_FAILURE (R59, R60): the running thread's word fails a check, and the trap names it. -/
def execDecodeFailure (s : State) : Out :=
  let t := s.me
  .next (if t.stat = .issued && t.held.isNone && decide (t.wait = .none) then
    match checkWord t.word t.pcOff t.blockLen t.priv with
    | .error e => s.raiseTrap e t.word
    | .ok _ => s
  else s)

/-- MATRIX_ACCEPT (R181, R180, R184): a matrix instruction that waits in ISSUED for a version, a latch or the limit tries again. -/
def execMatrixAccept (core ctx : Nat) (s : State) : Out :=
  let s' : State := { s with core := core, ctx := ctx }
  let waiting : Bool := match s'.me.stat, s'.me.wait with
    | .issued, .stall .version => true
    | .issued, .stall .limit => true
    | _, _ => false
  if waiting && s'.mayIssue s'.me then
    match s'.me.held with
    | some (.mfmt fa fb a) => execMfmt fa fb a s'
    | some (.bload l a) => execBload l a s'
    | some (.brot l) => execBrot l s'
    | some (.mma t l slot ver) => execMma t l slot ver s'
    | some (.mmas t l slot a ver) => execMmas t l slot a ver s'
    | some (.mma2 d t l slot ver) => execMma2 d t l slot ver s'
    | some (.azero t ver) => execAzero t ver s'
    | some (.awaitv t ver) => execAwaitv t ver s'
    | some (.aepi ty sat bias t slot b ver) => execAepi ty sat bias t slot b ver s'
    | some (.atopkInit a) => execAtopkInit a s'
    | some (.atopkAcc t a b ver) => execAtopkAcc t a b ver s'
    | some (.acselInit a) => execAcselInit a s'
    | some (.acselAcc t a b ver) => execAcselAcc t a b ver s'
    | some (.ardk d a var) => execArdk d a var s'
    | some (.ardkClr d a) => execArdkClr d a s'
    | _ => .next s
  else .next s

/-! ## The default choice (log 3) -/

namespace State

/-- The first context of the device that satisfies a test, as (core, context). -/
def findThread (s : State) (p : Nat → Nat → Thread → Bool) : Option (Nat × Nat) :=
  s.cores.findSome? (fun e => (List.find? (fun (x : Nat × Thread) => p e.1 x.1 x.2) e.2.threads).map (fun x => (e.1, x.1)))

/-- The event that walks the entry at which a list walker stands, if its condition holds (R287, R288). -/
def listEvent (s : State) (w : Walker) : Option Instr :=
  match s.listEntry w with
  | none => some .listLaunch
  | some e =>
    match entryOp e with
    | 1 => some .listLaunch
    | 2 => if !s.inSubmesh (some w.tenant) (entryTarget e % 2 ^ 14) || s.waitcMet w e then some .listWaitc else none
    | 3 => if s.skipHeld w e then none else some .listSkipif
    | 4 => some .listJump
    | 5 => some .listCall
    | 6 => some .listRet
    | 7 => some .listPost
    | 8 => if s.fenceMet w then some .listFence else none
    | _ => some .listTable

/-- The first step of a halt has something to do (R304, R326): an instruction to withdraw, or a BROT or MMA2 that has not begun. -/
def haltDue (s : State) (h : Nat) (g : Gang) : Bool :=
  (s.threadsOn h g.cores).any (fun x => withdraws (s.thread x.1 x.2)) ||
    g.cores.any (fun c => (s.coreAt c).mx.seq.any (fun j => j.op.isBrot true || j.op.isBrot false || j.op.isMma2))

/-- A gang's own next event, if one is due. -/
def gangEvent (s : State) (h : Nat) (g : Gang) : Option Instr :=
  match g.stat with
  | .starting => some (.gangStart h)
  | .swapping => some (.swapOut h)
  | .restoring => some (.swapIn h)
  | .draining | .aborting => if s.retirable h g then some (.gangRetire h) else none
  | .running | .halting =>
    if g.rolling then
      if s.haltDue h g then some (.rollback h) else if s.halted h g then some (.rollbackRestore h) else none
    else if g.stat = .halting then if s.haltDue h g || s.halted h g then some (.preemptHalt h) else none
    else if g.stall ≥ g.stallT then some (.gangStall h)
    else
      let live := (s.threadsOn h g.cores).filter (fun x => (s.thread x.1 x.2).live)
      match g.spans.find? (fun n => !(s.spanAt n).reported && !live.isEmpty && s.spanArrived h g n) with
      | some n => some (.spanReport n)
      | none =>
        if !live.isEmpty && live.all (fun x => (s.thread x.1 x.2).arrived) && g.spans.all (fun n => (s.spanAt n).reported) then
          some (.collectiveComplete h)
        else none
  | .swapped | .retired => none

/-- The fill of the first register that a context in ISSUED waits for (R95). -/
def fillEvent (s : State) (c k : Nat) : Option Instr :=
  (({ s with core := c, ctx := k } : State).missing.head?).map (fun e => .registerFill c k (e % 64))

/-- The next event of a core's matrix unit, if one is due (R180, R185, R187 to R189). -/
def matrixEvent (s : State) (c : Nat) : Option Instr :=
  let m := (s.coreAt c).mx
  let due (epilogue : Bool) : Bool := match m.head epilogue with
    | some j => !(j.op.isBrot true || j.op.isBrot false || j.op.isMma2) && m.free j
    | none => false
  let brot (l : Bool) : Option Instr :=
    if (s.firstJob c (MatOp.isBrot l)).isNone then none
    else if (s.trussRing c).all (fun r => s.atHead r (MatOp.isBrot l)) && s.assembled (s.trussRing c) (MatOp.isBrot l) 0 then
      some (.brotStep c l)
    else if s.timedOut (s.trussRing c) (MatOp.isBrot l) then some (.brotTimeout c l) else none
  if m.seq.isEmpty then none
  else if due true then some (.matrixComplete c true)
  else if due false then some (.matrixComplete c false)
  else match brot false with
    | some e => some e
    | none => match brot true with
      | some e => some e
      | none =>
        if (s.firstJob c MatOp.isMma2).isNone then none
        else if (pairRow c).all (fun r => s.atHead r MatOp.isMma2) && s.assembled (pairRow c) MatOp.isMma2 0 then some (.mma2GroupOp c)
        else if s.timedOut (pairRow c) MatOp.isMma2 then some (.mma2Timeout c) else none

/-- A core's own next event, if one is due. -/
def coreEvent (s : State) (c : Nat) (x : Core) : Option Instr :=
  let threadEvent (k : Nat) (t : Thread) : Option Instr :=
    if !t.out.isEmpty then some (.accessPerformed c k 0)
    else if t.stat = .done && s.posts.all (fun p => decide (p.by_ ≠ some (c, k))) then some (.contextRelease c k)
    else match t.stat, t.wait with
      | .parked, .bar _ _ _ dl => if s.expired dl then some (.evtwaitTimeout c k) else none
      | .parked, .line _ _ _ dl => if s.expired dl then some (.evtwaitTimeout c k) else none
      | .issued, .stall .miss => s.fillEvent c k
      | .issued, .stall .mailroom => if s.mailUsed c < 64 && s.mayIssue t then some (.mailboxReserve c k) else none
      | _, _ => none
  match x.threads.findSome? (fun e => threadEvent e.1 e.2) with
  | some e => some e
  | none =>
    match x.tables.findSome? (fun e => match e.2.busy with
        | some (t, _) => if s.clock ≥ t then some (Instr.tableRefreshEnd c e.1) else none
        | none => none) with
    | some e => some e
    | none =>
      if x.vec.head?.any (fun j => !s.vectorMeets c j) then some (.vectorComplete c)
      else match s.nextWaiter c with
      | some k => some (.ringWaitStart c k)
      | none => match x.drawQ.min? with
        | some k => some (.drawAccept c k)
        | none => s.matrixEvent c

/-- A port's next event, if one is due (R369, R373). -/
def portEvent (s : State) (p : Nat) (x : Port) : Option Instr :=
  match x.stat with
  | .active =>
    match x.inReqs, x.inAcks with
    | r :: _, _ => some (.remoteRequest p r.1 r.2)
    | [], a :: _ => some (.remoteAck p a.1 a.2)
    | [], [] => none
  | .exchange => x.inCaps.head?.map (.capabilityRecord p)
  | .deskew => if s.trainingOver p then some (.deskewTimeout p) else none
  | .equalise => if s.trainingOver p then some (.equaliseTimeout p) else none
  | .down => none

/-- A span's next event, if one is due. -/
def spanEvent (n : Nat) (x : Span) : Option Instr :=
  if !x.queue.isEmpty && decide (x.running.length < 8) then some (.streamerRequestStart n)
  else (List.range x.running.length).findSome? (fun k => match x.running[k]? with
    | none => none
    | some q => if q.kind = ReqKind.remPut ∨ q.kind = ReqKind.remAddmx then none else some (Instr.streamerCompletion n k))

/-- The scheduler's next event, if one is due. -/
def schedulerEvent (s : State) : Option Instr :=
  match (List.range 64).find? s.fetchable with
  | some q => some (.recordFetch q)
  | none =>
    match s.copies.find? (fun c => !c.sent) with
    | some c => some (.copyRecordRun c.seq)
    | none =>
      let hs := s.heads
      match hs.find? (s.mayReserve hs) with
      | some r => some (.recordReserving r.seq)
      | none =>
        if (s.candidates.filter (fun c => !s.keptOut hs c)).any (fun c => (s.letIn c).isSome) then some .admission
        else match s.preemptChoice with
          | some (_ :: _) => some .schedulerPreempt
          | _ => none

/-- The bring-up event that follows a phase (R385). -/
def phaseEvent : Phase → Option Instr
  | .power => some .fwverify
  | .fwverify => some .memtrain
  | .memtrain => some .sraminit
  | .sraminit => some .linkup
  | .linkup => some .ready
  | .ready => none
  | .off => none
  | .fail => none

/-- The invalidation that completes next (R339, R343). -/
def invalEvent (s : State) : Option Instr :=
  (List.range s.invals.length).findSome? (fun k => match s.invals[k]? with
    | some i => if inFlight k && s.quiet i then some (if i.release then .pageReleaseComplete k else .tlbinvComplete k) else none
    | none => none)

/-- The first context by age, oldest first, ties to the lowest core and number, of those that satisfy a test. -/
def oldestThread (s : State) (p : Nat → Nat → Thread → Bool) : Option (Nat × Nat) :=
  s.cores.foldl (fun best e => List.foldl (fun (best : Option (Nat × Nat)) (t : Nat × Thread) =>
    if p e.1 t.1 t.2 && best.all (fun b => decide (t.2.age < (s.thread b.1 b.2).age)) then some (e.1, t.1) else best) best e.2.threads) none

/-- A trap that a core has raised is delivered next: the one raised first, ties to the lowest s.tid (R17). -/
def trapTurn (s : State) (c k : Nat) : Bool := decide ((s.byAge c (s.contextsOn c (fun _ t => decide (t.stat = .trapped)))).head? = some k)

/-- The trap that is delivered next of all cores: the one raised first, ties to the lowest core and s.tid (R17). -/
def dueTrap (s : State) : Option (Nat × Nat) := s.oldestThread (fun _ _ t => decide (t.stat = .trapped))

/-- The event of the device that is due first: those of the core arbiters in the order of the rows of R17, then the others. -/
def dueEvent (s : State) : Option Act :=
  let messages : Option Instr :=
    match s.dueTrap with
    | some x => some (.trapDelivery x.1 x.2)
    | none =>
      if !s.posts.isEmpty then some (.counterPost (.underWay 0))
      else if !s.msgs.isEmpty then some (.mailboxArrival 0)
      else match s.cancels with
        | x :: _ => some (.cancelArrival x.core)
        | [] => if !s.notes.isEmpty && decide (s.supMail.length < 64) then some .supervisorNotification else s.invalEvent
  let device : Option Instr :=
    messages.or ((s.cores.findSome? (fun e => s.coreEvent e.1 e.2)).or ((s.spans.findSome? (fun e => spanEvent e.1 e.2)).or
      ((s.ports.findSome? (fun e => s.portEvent e.1 e.2)).or ((s.gangs.findSome? (fun e => s.gangEvent e.1 e.2)).or
        (s.schedulerEvent.or (if s.mgmt.busy then some .quoteComplete else none))))))
  match device with
  | some e => some (.event e)
  | none => (s.walkers.findSome? (fun w => (s.listEvent w).map (fun e => (w.id, e)))).map (fun x => .list x.1 x.2)

/-- Without power and in FAIL nothing runs: only the board acts (R385, R390). -/
def stopped (s : State) : Bool := decide (s.mgmt.phase = .off) || decide (s.mgmt.phase = .fail)

/-- An event may happen in the phase in which the device stands, and is in its turn: traps of a core are delivered in the order of R17. -/
def admits (s : State) (e : Instr) : Bool :=
  (encode e).isNone && (match e with
    | .trapDelivery c k => s.trapTurn c k
    | _ => true) && (!s.stopped || (match e with
    | .resetRelease => true
    | .powerLoss => true
    | .elogRead => true
    | _ => false))

/-! ## Placing an instruction (log 8) -/

/-- The header of a block of n words that keeps every register live (R37, R61). -/
def plainHeader (n : Nat) : Word := BitVec.ofNat 64 (n * 2 ^ 54 + (2 ^ 54 - 1))

/-- The state with an instruction word placed as the next that a supervisor thread in context 63 of core 0 issues: its block
stands at physical address 0x1000, STOP follows a word that may not end a block, and the register cache holds the thread's
registers (log 8). -/
def placeWord (s : State) (w : Word) : State :=
  let base := Config.fwBase
  let len := if isEnder w then 1 else 2
  let words : List Word := [plainHeader len, 0, w] ++ (if isEnder w then [] else [0x0200000000000000#64])
  let mem := (List.range words.length).foldl (fun m i => m.write (base + 8 * i) 8 (words.getD i 0).toNat) s.mem
  let s : State := { s with mem := mem, mgmt := { s.mgmt with phase := .ready }, agenda := [.issue 0 63] }
  let s := s.modCore 0 (fun x =>
    { x with icache := x.icache.filter (fun e => decide (e.pa < base) || decide (base + 32 ≤ e.pa)), convoy := [63], unissued := [63],
             resident := (List.range 54).map (fun n => 64 * 63 + n), evicted := [] })
  s.modThread 0 63 (fun t =>
    { t with stat := .ready, owner := .sup, priv := true, pcBlk := BitVec.ofNat 32 (base / 8), pcOff := 0, hdr0 := plainHeader len,
             hdr1 := 0, loaded := true, entering := none, code := none, held := none, wait := .none, async := none, haltReq := false, out := [] })

/-- The READY member of a convoy that has begun to issue and goes on, in ascending s.tid (R98). -/
def convoyNext (s : State) : Option (Nat × Nat) := s.findThread (fun c k t => (s.coreAt c).unissued.contains k && s.ready t)

/-- The READY context that begins to issue next: the one whose turn it is on the core of the oldest (R98, R100). None issues while some
context waits for its next word, so that contexts that go on together form a convoy. -/
def issuer (s : State) : Option (Nat × Nat) :=
  if (s.findThread (fun _ _ t => s.mayIssue t && decide (t.stat = .issued) && decide (t.wait = .stall .fetch))).isSome then none
  else (s.oldestThread (fun _ _ t => s.ready t)).bind (fun x => (s.issuerOn x.1).map (fun k => (x.1, k)))

/-- The next context that tries again, in turn after the one that acted last. -/
def retrier (s : State) : Option (Nat × Nat) :=
  let again (t : Thread) : Bool := s.mayIssue t && decide (t.stat = .issued) && retriable t.wait
  match s.findThread (fun c k t => (decide (c > s.core) || (decide (c = s.core) && decide (k > s.ctx))) && again t) with
  | some x => some x
  | none => s.findThread (fun _ _ t => again t)

/-- The act that happens where the agenda names none: bring-up goes on; a convoy that has begun to issue goes on, so that its lookups stand
together (R17); else events that are due, READY contexts and contexts that try again take turns; else a cycle passes. -/
def defaultAct (s : State) : Act :=
  match phaseEvent s.mgmt.phase with
  | some e => .event e
  | none =>
    let event (_ : Unit) : Option Act := s.dueEvent
    let issue (_ : Unit) : Option Act := s.issuer.map (fun x => .issue x.1 x.2)
    let again (_ : Unit) : Option Act := s.retrier.map (fun x => .issue x.1 x.2)
    let first (f g h : Unit → Option Act) : Act := ((f ()).orElse (fun _ => (g ()).orElse h)).getD (.tick 1)
    if let some x := s.convoyNext then .issue x.1 x.2
    else if s.clock % 3 = 0 then first event issue again
    else if s.clock % 3 = 1 then first issue again event
    else first again event issue

/-! ## What an event meets of outstanding accesses (R259, log 5) -/

/-- The agents that an event lets act on memory: those units of a core, of a span or of the device. -/
def agentsOf (s : State) : Instr → List Agent
  | .vectorComplete c => [.coreUnit c]
  | .matrixComplete c _ => [.coreUnit c]
  | .mma2GroupOp c => (pairRow c).map .coreUnit
  | .brotStep c _ => (s.trussRing c).map .coreUnit
  | .streamerCompletion n _ => [.spanUnit n]
  | .streamerRequestStart n => if (s.spanAt n).queue.head?.any (fun q => decide (kindCode q.kind = 3)) then [.spanUnit n] else []
  | .remoteRequest _ _ _ => [.device]
  | .remoteAck _ _ _ => [.device]
  | .recordFetch _ => [.device]
  | .copyRecordRun _ => [.device]
  | .admission => [.device]
  | .gangStart _ => [.device]
  | .gangRetire _ => [.device]
  | .swapOut _ => [.device]
  | .swapIn _ => [.device]
  | .patrolScrubRead _ _ => [.device]
  | .quoteComplete => [.device]
  | .listLaunch => [.device]
  | .listWaitc => [.device]
  | .listSkipif => [.device]
  | .listJump => [.device]
  | .listCall => [.device]
  | .listRet => [.device]
  | .listPost => [.device]
  | .listFence => [.device]
  | .listTable => [.device]
  | _ => []

/-- The state in which an event happens: what its agents can meet of guarded accesses has been performed. A post meets loads of its
counter through the window, those of its own thread among them (R262 row 7). -/
def met (s : State) (e : Instr) : State :=
  let s := (s.agentsOf e).foldl (fun s a => s.reveal a (fun _ => true)) s
  match e with
  | .counterPost (.underWay n) => match s.posts[n]? with
    | some p =>
      let s := s.meetWindow .device p.core p.idx
      match p.by_ with
      | some (c, k) => s.meetWindow (.thread c k) p.core p.idx
      | none => s
    | none => s
  | _ => s

end State

end Sys2Proof.Machine
end

