-- ==== Sys2Proof/Machine/Dispatch.lean ====
section
/-! DEFINITION. One arm per constructor of Instr. -/

namespace Sys2Proof.Machine

/-- What an instruction or an event does. -/
def exec (i : Instr) (s : State) : Host.Outcome State Fault Refusal :=
  match i with
  | .patrolScrubRead x1 x2 => Sys2Proof.Machine.execPatrolScrubRead x1 x2 s
  | .recalibration x1 => Sys2Proof.Machine.execRecalibration x1 s
  | .powerInterval x1 x2 x3 => Sys2Proof.Machine.execPowerInterval x1 x2 x3 s
  | .mailboxArrival x1 => Sys2Proof.Machine.execMailboxArrival x1 s
  | .counterPost x1 => Sys2Proof.Machine.execCounterPost x1 s
  | .trapDelivery x1 x2 => Sys2Proof.Machine.execTrapDelivery x1 x2 s
  | .asyncTrapTake x1 x2 => Sys2Proof.Machine.execAsyncTrapTake x1 x2 s
  | .registerFill x1 x2 x3 => Sys2Proof.Machine.execRegisterFill x1 x2 x3 s
  | .contextRelease x1 x2 => Sys2Proof.Machine.execContextRelease x1 x2 s
  | .tableRefreshEnd x1 x2 => Sys2Proof.Machine.execTableRefreshEnd x1 x2 s
  | .debugHalt x1 x2 => Sys2Proof.Machine.execDebugHalt x1 x2 s
  | .ringWaitStart x1 x2 => Sys2Proof.Machine.execRingWaitStart x1 x2 s
  | .vectorComplete x1 => Sys2Proof.Machine.execVectorComplete x1 s
  | .matrixAccept x1 x2 => Sys2Proof.Machine.execMatrixAccept x1 x2 s
  | .matrixComplete x1 x2 => Sys2Proof.Machine.execMatrixComplete x1 x2 s
  | .brotStep x1 x2 => Sys2Proof.Machine.execBrotStep x1 x2 s
  | .brotTimeout x1 x2 => Sys2Proof.Machine.execBrotTimeout x1 x2 s
  | .mma2GroupOp x1 => Sys2Proof.Machine.execMma2GroupOp x1 s
  | .mma2Timeout x1 => Sys2Proof.Machine.execMma2Timeout x1 s
  | .mailboxReserve x1 x2 => Sys2Proof.Machine.execMailboxReserve x1 x2 s
  | .streamerRequestStart x1 => Sys2Proof.Machine.execStreamerRequestStart x1 s
  | .streamerCompletion x1 x2 => Sys2Proof.Machine.execStreamerCompletion x1 x2 s
  | .remoteRequest x1 x2 x3 => Sys2Proof.Machine.execRemoteRequest x1 x2 x3 s
  | .remoteAck x1 x2 x3 => Sys2Proof.Machine.execRemoteAck x1 x2 x3 s
  | .flitReceive x1 x2 => Sys2Proof.Machine.execFlitReceive x1 x2 s
  | .portSignalDetect x1 => Sys2Proof.Machine.execPortSignalDetect x1 s
  | .laneAligned x1 => Sys2Proof.Machine.execLaneAligned x1 s
  | .deskewTimeout x1 => Sys2Proof.Machine.execDeskewTimeout x1 s
  | .equaliseSettled x1 => Sys2Proof.Machine.execEqualiseSettled x1 s
  | .equaliseTimeout x1 => Sys2Proof.Machine.execEqualiseTimeout x1 s
  | .capabilityRecord x1 x2 => Sys2Proof.Machine.execCapabilityRecord x1 x2 s
  | .signalLoss x1 => Sys2Proof.Machine.execSignalLoss x1 s
  | .portEnWrite x1 x2 => Sys2Proof.Machine.execPortEnWrite x1 x2 s
  | .portRetrain x1 => Sys2Proof.Machine.execPortRetrain x1 s
  | .hostMemRead x1 x2 => Sys2Proof.Machine.execHostMemRead x1 x2 s
  | .hostMemWrite x1 x2 => Sys2Proof.Machine.execHostMemWrite x1 x2 s
  | .queueEnableWrite x1 x2 => Sys2Proof.Machine.execQueueEnableWrite x1 x2 s
  | .qprodWrite x1 x2 => Sys2Proof.Machine.execQprodWrite x1 x2 s
  | .queueErrClear x1 => Sys2Proof.Machine.execQueueErrClear x1 s
  | .recordFetch x1 => Sys2Proof.Machine.execRecordFetch x1 s
  | .recordReserving x1 => Sys2Proof.Machine.execRecordReserving x1 s
  | .gangStart x1 => Sys2Proof.Machine.execGangStart x1 s
  | .copyRecordRun x1 => Sys2Proof.Machine.execCopyRecordRun x1 s
  | .gangRetire x1 => Sys2Proof.Machine.execGangRetire x1 s
  | .preemptHalt x1 => Sys2Proof.Machine.execPreemptHalt x1 s
  | .swapOut x1 => Sys2Proof.Machine.execSwapOut x1 s
  | .swapIn x1 => Sys2Proof.Machine.execSwapIn x1 s
  | .gangStall x1 => Sys2Proof.Machine.execGangStall x1 s
  | .evtwaitTimeout x1 x2 => Sys2Proof.Machine.execEvtwaitTimeout x1 x2 s
  | .spanReport x1 => Sys2Proof.Machine.execSpanReport x1 s
  | .collectiveComplete x1 => Sys2Proof.Machine.execCollectiveComplete x1 s
  | .rollback x1 => Sys2Proof.Machine.execRollback x1 s
  | .rollbackRestore x1 => Sys2Proof.Machine.execRollbackRestore x1 s
  | .cancelArrival x1 => Sys2Proof.Machine.execCancelArrival x1 s
  | .drawAccept x1 x2 => Sys2Proof.Machine.execDrawAccept x1 x2 s
  | .tlbinvComplete x1 => Sys2Proof.Machine.execTlbinvComplete x1 s
  | .pageReleaseComplete x1 => Sys2Proof.Machine.execPageReleaseComplete x1 s
  | .attcmdWrite x1 => Sys2Proof.Machine.execAttcmdWrite x1 s
  | .pcapWrite x1 => Sys2Proof.Machine.execPcapWrite x1 s
  | .scrWrite x1 => Sys2Proof.Machine.execScrWrite x1 s
  | .rclWrite x1 => Sys2Proof.Machine.execRclWrite x1 s
  | .registerWrite x1 x2 => Sys2Proof.Machine.execRegisterWrite x1 x2 s
  | .next x1 x2 => Sys2Proof.Machine.execNext x1 x2 s
  | .tstart x1 x2 x3 => Sys2Proof.Machine.execTstart x1 x2 x3 s
  | .trap x1 => Sys2Proof.Machine.execTrap x1 s
  | .brk x1 => Sys2Proof.Machine.execBrk x1 s
  | .tret x1 => Sys2Proof.Machine.execTret x1 s
  | .srd x1 x2 => Sys2Proof.Machine.execSrd x1 x2 s
  | .swr x1 x2 => Sys2Proof.Machine.execSwr x1 x2 s
  | .gdead x1 x2 => Sys2Proof.Machine.execGdead x1 x2 s
  | .tbw x1 x2 x3 x4 => Sys2Proof.Machine.execTbw x1 x2 x3 x4 s
  | .tbr x1 x2 x3 x4 => Sys2Proof.Machine.execTbr x1 x2 x3 x4 s
  | .tbcommit x1 x2 => Sys2Proof.Machine.execTbcommit x1 x2 s
  | .tbclr x1 => Sys2Proof.Machine.execTbclr x1 s
  | .tblook x1 x2 x3 => Sys2Proof.Machine.execTblook x1 x2 x3 s
  | .tbgen x1 x2 => Sys2Proof.Machine.execTbgen x1 x2 s
  | .add x1 x2 x3 => Sys2Proof.Machine.execAdd x1 x2 x3 s
  | .addi x1 x2 x3 => Sys2Proof.Machine.execAddi x1 x2 x3 s
  | .sub x1 x2 x3 => Sys2Proof.Machine.execSub x1 x2 x3 s
  | .mul x1 x2 x3 => Sys2Proof.Machine.execMul x1 x2 x3 s
  | .mulh x1 x2 x3 => Sys2Proof.Machine.execMulh x1 x2 x3 s
  | .mulhu x1 x2 x3 => Sys2Proof.Machine.execMulhu x1 x2 x3 s
  | .div x1 x2 x3 => Sys2Proof.Machine.execDiv x1 x2 x3 s
  | .divu x1 x2 x3 => Sys2Proof.Machine.execDivu x1 x2 x3 s
  | .rem x1 x2 x3 => Sys2Proof.Machine.execRem x1 x2 x3 s
  | .remu x1 x2 x3 => Sys2Proof.Machine.execRemu x1 x2 x3 s
  | .and x1 x2 x3 => Sys2Proof.Machine.execAnd x1 x2 x3 s
  | .andi x1 x2 x3 => Sys2Proof.Machine.execAndi x1 x2 x3 s
  | .or x1 x2 x3 => Sys2Proof.Machine.execOr x1 x2 x3 s
  | .ori x1 x2 x3 => Sys2Proof.Machine.execOri x1 x2 x3 s
  | .xor x1 x2 x3 => Sys2Proof.Machine.execXor x1 x2 x3 s
  | .xori x1 x2 x3 => Sys2Proof.Machine.execXori x1 x2 x3 s
  | .shl x1 x2 x3 => Sys2Proof.Machine.execShl x1 x2 x3 s
  | .shli x1 x2 x3 => Sys2Proof.Machine.execShli x1 x2 x3 s
  | .shr x1 x2 x3 => Sys2Proof.Machine.execShr x1 x2 x3 s
  | .shri x1 x2 x3 => Sys2Proof.Machine.execShri x1 x2 x3 s
  | .sar x1 x2 x3 => Sys2Proof.Machine.execSar x1 x2 x3 s
  | .sari x1 x2 x3 => Sys2Proof.Machine.execSari x1 x2 x3 s
  | .rol x1 x2 x3 => Sys2Proof.Machine.execRol x1 x2 x3 s
  | .roli x1 x2 x3 => Sys2Proof.Machine.execRoli x1 x2 x3 s
  | .min x1 x2 x3 => Sys2Proof.Machine.execMin x1 x2 x3 s
  | .minu x1 x2 x3 => Sys2Proof.Machine.execMinu x1 x2 x3 s
  | .max x1 x2 x3 => Sys2Proof.Machine.execMax x1 x2 x3 s
  | .maxu x1 x2 x3 => Sys2Proof.Machine.execMaxu x1 x2 x3 s
  | .abs x1 x2 => Sys2Proof.Machine.execAbs x1 x2 s
  | .clz x1 x2 => Sys2Proof.Machine.execClz x1 x2 s
  | .ctz x1 x2 => Sys2Proof.Machine.execCtz x1 x2 s
  | .popc x1 x2 => Sys2Proof.Machine.execPopc x1 x2 s
  | .brev x1 x2 => Sys2Proof.Machine.execBrev x1 x2 s
  | .bswap x1 x2 => Sys2Proof.Machine.execBswap x1 x2 s
  | .extr x1 x2 x3 x4 x5 => Sys2Proof.Machine.execExtr x1 x2 x3 x4 x5 s
  | .insr x1 x2 x3 x4 x5 => Sys2Proof.Machine.execInsr x1 x2 x3 x4 x5 s
  | .clmul x1 x2 x3 => Sys2Proof.Machine.execClmul x1 x2 x3 s
  | .clmulh x1 x2 x3 => Sys2Proof.Machine.execClmulh x1 x2 x3 s
  | .li x1 x2 => Sys2Proof.Machine.execLi x1 x2 s
  | .lih x1 x2 x3 => Sys2Proof.Machine.execLih x1 x2 x3 s
  | .lea x1 x2 x3 x4 x5 => Sys2Proof.Machine.execLea x1 x2 x3 x4 x5 s
  | .cmp x1 x2 x3 x4 => Sys2Proof.Machine.execCmp x1 x2 x3 x4 s
  | .cmpi x1 x2 x3 x4 => Sys2Proof.Machine.execCmpi x1 x2 x3 x4 s
  | .sel x1 x2 x3 x4 => Sys2Proof.Machine.execSel x1 x2 x3 x4 s
  | .plog x1 x2 x3 x4 => Sys2Proof.Machine.execPlog x1 x2 x3 x4 s
  | .pmovGet x1 => Sys2Proof.Machine.execPmovGet x1 s
  | .pmovSet x1 x2 => Sys2Proof.Machine.execPmovSet x1 x2 s
  | .cset x1 x2 x3 => Sys2Proof.Machine.execCset x1 x2 x3 s
  | .crd x1 x2 => Sys2Proof.Machine.execCrd x1 x2 s
  | .cadd x1 x2 x3 => Sys2Proof.Machine.execCadd x1 x2 x3 s
  | .fadd x1 x2 x3 x4 => Sys2Proof.Machine.execFadd x1 x2 x3 x4 s
  | .fsub x1 x2 x3 x4 => Sys2Proof.Machine.execFsub x1 x2 x3 x4 s
  | .fmul x1 x2 x3 x4 => Sys2Proof.Machine.execFmul x1 x2 x3 x4 s
  | .ffma x1 x2 x3 x4 => Sys2Proof.Machine.execFfma x1 x2 x3 x4 s
  | .fmin x1 x2 x3 => Sys2Proof.Machine.execFmin x1 x2 x3 s
  | .fmax x1 x2 x3 => Sys2Proof.Machine.execFmax x1 x2 x3 s
  | .fcmp x1 x2 x3 x4 => Sys2Proof.Machine.execFcmp x1 x2 x3 x4 s
  | .fcvt x1 x2 x3 x4 x5 x6 => Sys2Proof.Machine.execFcvt x1 x2 x3 x4 x5 x6 s
  | .fclass x1 x2 => Sys2Proof.Machine.execFclass x1 x2 s
  | .fexp2 x1 x2 => Sys2Proof.Machine.execFexp2 x1 x2 s
  | .flog2 x1 x2 => Sys2Proof.Machine.execFlog2 x1 x2 s
  | .frcp x1 x2 => Sys2Proof.Machine.execFrcp x1 x2 s
  | .frsq x1 x2 => Sys2Proof.Machine.execFrsq x1 x2 s
  | .fscale x1 x2 x3 x4 => Sys2Proof.Machine.execFscale x1 x2 x3 x4 s
  | .ld x1 x2 x3 x4 x5 x6 => Sys2Proof.Machine.execLd x1 x2 x3 x4 x5 x6 s
  | .lda x1 x2 x3 x4 x5 x6 x7 => Sys2Proof.Machine.execLda x1 x2 x3 x4 x5 x6 x7 s
  | .st x1 x2 x3 x4 x5 x6 => Sys2Proof.Machine.execSt x1 x2 x3 x4 x5 x6 s
  | .stl x1 x2 x3 x4 x5 x6 => Sys2Proof.Machine.execStl x1 x2 x3 x4 x5 x6 s
  | .take x1 x2 x3 x4 => Sys2Proof.Machine.execTake x1 x2 x3 x4 s
  | .fill x1 x2 x3 x4 => Sys2Proof.Machine.execFill x1 x2 x3 x4 s
  | .trytake x1 x2 x3 x4 x5 => Sys2Proof.Machine.execTrytake x1 x2 x3 x4 x5 s
  | .amo x1 x2 x3 x4 x5 x6 x7 x8 => Sys2Proof.Machine.execAmo x1 x2 x3 x4 x5 x6 x7 x8 s
  | .amocas x1 x2 x3 x4 x5 x6 x7 => Sys2Proof.Machine.execAmocas x1 x2 x3 x4 x5 x6 x7 s
  | .fence x1 x2 => Sys2Proof.Machine.execFence x1 x2 s
  | .pref x1 x2 x3 => Sys2Proof.Machine.execPref x1 x2 x3 s
  | .ring x1 x2 => Sys2Proof.Machine.execRing x1 x2 s
  | .radv x1 x2 x3 => Sys2Proof.Machine.execRadv x1 x2 x3 s
  | .rrel x1 x2 x3 => Sys2Proof.Machine.execRrel x1 x2 x3 s
  | .rstat x1 x2 x3 => Sys2Proof.Machine.execRstat x1 x2 x3 s
  | .vadd x1 x2 x3 x4 x5 x6 => Sys2Proof.Machine.execVadd x1 x2 x3 x4 x5 x6 s
  | .vsub x1 x2 x3 x4 x5 x6 => Sys2Proof.Machine.execVsub x1 x2 x3 x4 x5 x6 s
  | .vmul x1 x2 x3 x4 x5 x6 => Sys2Proof.Machine.execVmul x1 x2 x3 x4 x5 x6 s
  | .vfma x1 x2 x3 x4 x5 x6 x7 => Sys2Proof.Machine.execVfma x1 x2 x3 x4 x5 x6 x7 s
  | .vmax x1 x2 x3 x4 x5 x6 => Sys2Proof.Machine.execVmax x1 x2 x3 x4 x5 x6 s
  | .vmin x1 x2 x3 x4 x5 x6 => Sys2Proof.Machine.execVmin x1 x2 x3 x4 x5 x6 s
  | .vexp2 x1 x2 x3 x4 x5 => Sys2Proof.Machine.execVexp2 x1 x2 x3 x4 x5 s
  | .vrcp x1 x2 x3 x4 x5 => Sys2Proof.Machine.execVrcp x1 x2 x3 x4 x5 s
  | .vrsq x1 x2 x3 x4 x5 => Sys2Proof.Machine.execVrsq x1 x2 x3 x4 x5 s
  | .vcvt x1 x2 x3 x4 x5 => Sys2Proof.Machine.execVcvt x1 x2 x3 x4 x5 s
  | .vscale x1 x2 x3 x4 x5 => Sys2Proof.Machine.execVscale x1 x2 x3 x4 x5 s
  | .vredsum x1 x2 x3 x4 x5 => Sys2Proof.Machine.execVredsum x1 x2 x3 x4 x5 s
  | .vredmax x1 x2 x3 x4 => Sys2Proof.Machine.execVredmax x1 x2 x3 x4 s
  | .vcmp x1 x2 x3 x4 x5 x6 x7 x8 => Sys2Proof.Machine.execVcmp x1 x2 x3 x4 x5 x6 x7 x8 s
  | .vsel x1 x2 x3 x4 x5 x6 x7 => Sys2Proof.Machine.execVsel x1 x2 x3 x4 x5 x6 x7 s
  | .vbits x1 x2 x3 x4 x5 x6 x7 x8 => Sys2Proof.Machine.execVbits x1 x2 x3 x4 x5 x6 x7 x8 s
  | .vgath x1 x2 x3 x4 x5 x6 => Sys2Proof.Machine.execVgath x1 x2 x3 x4 x5 x6 s
  | .vscat x1 x2 x3 x4 x5 x6 x7 x8 => Sys2Proof.Machine.execVscat x1 x2 x3 x4 x5 x6 x7 x8 s
  | .vfillc x1 x2 x3 x4 x5 x6 => Sys2Proof.Machine.execVfillc x1 x2 x3 x4 x5 x6 s
  | .viota x1 x2 x3 x4 x5 => Sys2Proof.Machine.execViota x1 x2 x3 x4 x5 s
  | .mfmt x1 x2 x3 => Sys2Proof.Machine.execMfmt x1 x2 x3 s
  | .bload x1 x2 => Sys2Proof.Machine.execBload x1 x2 s
  | .brot x1 => Sys2Proof.Machine.execBrot x1 s
  | .mma x1 x2 x3 x4 => Sys2Proof.Machine.execMma x1 x2 x3 x4 s
  | .mmas x1 x2 x3 x4 x5 => Sys2Proof.Machine.execMmas x1 x2 x3 x4 x5 s
  | .mma2 x1 x2 x3 x4 x5 => Sys2Proof.Machine.execMma2 x1 x2 x3 x4 x5 s
  | .azero x1 x2 => Sys2Proof.Machine.execAzero x1 x2 s
  | .aver x1 x2 => Sys2Proof.Machine.execAver x1 x2 s
  | .awaitv x1 x2 => Sys2Proof.Machine.execAwaitv x1 x2 s
  | .aepi x1 x2 x3 x4 x5 x6 x7 => Sys2Proof.Machine.execAepi x1 x2 x3 x4 x5 x6 x7 s
  | .atopkInit x1 => Sys2Proof.Machine.execAtopkInit x1 s
  | .atopkAcc x1 x2 x3 x4 => Sys2Proof.Machine.execAtopkAcc x1 x2 x3 x4 s
  | .acselInit x1 => Sys2Proof.Machine.execAcselInit x1 s
  | .acselAcc x1 x2 x3 x4 => Sys2Proof.Machine.execAcselAcc x1 x2 x3 x4 s
  | .ardk x1 x2 x3 => Sys2Proof.Machine.execArdk x1 x2 x3 s
  | .ardkClr x1 x2 => Sys2Proof.Machine.execArdkClr x1 x2 s
  | .xcopy x1 x2 x3 x4 => Sys2Proof.Machine.execXcopy x1 x2 x3 x4 s
  | .xconv x1 x2 x3 x4 => Sys2Proof.Machine.execXconv x1 x2 x3 x4 s
  | .xscript x1 x2 x3 x4 => Sys2Proof.Machine.execXscript x1 x2 x3 x4 s
  | .xsela x1 x2 x3 x4 x5 x6 => Sys2Proof.Machine.execXsela x1 x2 x3 x4 x5 x6 s
  | .xremPut x1 x2 x3 x4 => Sys2Proof.Machine.execXremPut x1 x2 x3 x4 s
  | .xremAddmx x1 x2 x3 x4 => Sys2Proof.Machine.execXremAddmx x1 x2 x3 x4 s
  | .msend x1 x2 x3 x4 => Sys2Proof.Machine.execMsend x1 x2 x3 x4 s
  | .mwait x1 x2 => Sys2Proof.Machine.execMwait x1 x2 s
  | .mrecv x1 x2 x3 => Sys2Proof.Machine.execMrecv x1 x2 x3 s
  | .cpost x1 x2 x3 => Sys2Proof.Machine.execCpost x1 x2 x3 s
  | .cwait x1 x2 x3 x4 => Sys2Proof.Machine.execCwait x1 x2 x3 x4 s
  | .crdc x1 x2 x3 => Sys2Proof.Machine.execCrdc x1 x2 x3 s
  | .xdrain x1 => Sys2Proof.Machine.execXdrain x1 s
  | .evarr x1 x2 => Sys2Proof.Machine.execEvarr x1 x2 s
  | .evwait x1 x2 x3 x4 => Sys2Proof.Machine.execEvwait x1 x2 x3 x4 s
  | .evtwait x1 x2 x3 x4 x5 => Sys2Proof.Machine.execEvtwait x1 x2 x3 x4 x5 s
  | .mtxlock x1 x2 => Sys2Proof.Machine.execMtxlock x1 x2 s
  | .mtxrel x1 => Sys2Proof.Machine.execMtxrel x1 s
  | .evsigSig x1 x2 => Sys2Proof.Machine.execEvsigSig x1 x2 s
  | .evsigCfg x1 x2 x3 => Sys2Proof.Machine.execEvsigCfg x1 x2 x3 s
  | .gbar x1 => Sys2Proof.Machine.execGbar x1 s
  | .sstep x1 x2 => Sys2Proof.Machine.execSstep x1 x2 s
  | .launch x1 x2 x3 => Sys2Proof.Machine.execLaunch x1 x2 x3 s
  | .gballot x1 x2 x3 => Sys2Proof.Machine.execGballot x1 x2 x3 s
  | .gcancel x1 x2 => Sys2Proof.Machine.execGcancel x1 x2 s
  | .gstat x1 x2 x3 => Sys2Proof.Machine.execGstat x1 x2 x3 s
  | .draw x1 x2 x3 x4 => Sys2Proof.Machine.execDraw x1 x2 x3 x4 s
  | .pgref x1 x2 => Sys2Proof.Machine.execPgref x1 x2 s
  | .pgrel x1 x2 => Sys2Proof.Machine.execPgrel x1 x2 s
  | .tlbinvPage x1 x2 x3 => Sys2Proof.Machine.execTlbinvPage x1 x2 x3 s
  | .tlbinvAll x1 x2 x3 => Sys2Proof.Machine.execTlbinvAll x1 x2 x3 s
  | .tlbinvCode x1 x2 x3 => Sys2Proof.Machine.execTlbinvCode x1 x2 x3 s
  | .pgmap x1 x2 x3 x4 x5 => Sys2Proof.Machine.execPgmap x1 x2 x3 x4 x5 s
  | .ctxsaveThr x1 x2 => Sys2Proof.Machine.execCtxsaveThr x1 x2 s
  | .ctxsaveGang x1 x2 x3 x4 => Sys2Proof.Machine.execCtxsaveGang x1 x2 x3 x4 s
  | .ctxloadThr x1 x2 => Sys2Proof.Machine.execCtxloadThr x1 x2 s
  | .ctxloadGang x1 x2 x3 x4 => Sys2Proof.Machine.execCtxloadGang x1 x2 x3 x4 s
  | .injectPsn x1 x2 => Sys2Proof.Machine.execInjectPsn x1 x2 s
  | .injectClr x1 x2 => Sys2Proof.Machine.execInjectClr x1 x2 s
  | .injectSig x1 x2 => Sys2Proof.Machine.execInjectSig x1 x2 s
  | .injectTclr x1 x2 => Sys2Proof.Machine.execInjectTclr x1 x2 s
  | .injectHalt x1 x2 => Sys2Proof.Machine.execInjectHalt x1 x2 s
  | .sretRes x1 x2 => Sys2Proof.Machine.execSretRes x1 x2 s
  | .sretSkip x1 x2 => Sys2Proof.Machine.execSretSkip x1 x2 s
  | .sretUser x1 x2 => Sys2Proof.Machine.execSretUser x1 x2 s
  | .sretAbort x1 x2 => Sys2Proof.Machine.execSretAbort x1 x2 s
  | .sretAbortGang x1 x2 => Sys2Proof.Machine.execSretAbortGang x1 x2 s
  | .tensetSet x1 x2 x3 => Sys2Proof.Machine.execTensetSet x1 x2 x3 s
  | .tensetClr x1 x2 => Sys2Proof.Machine.execTensetClr x1 x2 s
  | .locsetSet x1 x2 x3 => Sys2Proof.Machine.execLocsetSet x1 x2 x3 s
  | .locsetInv x1 x2 => Sys2Proof.Machine.execLocsetInv x1 x2 s
  | .accessPerformed x1 x2 x3 => Sys2Proof.Machine.execAccessPerformed x1 x2 x3 s
  | .thermalLimitReached x1 => Sys2Proof.Machine.execThermalLimitReached x1 s
  | .resetRelease => Sys2Proof.Machine.execResetRelease s
  | .fwverify => Sys2Proof.Machine.execFwverify s
  | .memtrain => Sys2Proof.Machine.execMemtrain s
  | .sraminit => Sys2Proof.Machine.execSraminit s
  | .linkup => Sys2Proof.Machine.execLinkup s
  | .ready => Sys2Proof.Machine.execReady s
  | .powerLoss => Sys2Proof.Machine.execPowerLoss s
  | .supervisorNotification => Sys2Proof.Machine.execSupervisorNotification s
  | .admission => Sys2Proof.Machine.execAdmission s
  | .schedulerPreempt => Sys2Proof.Machine.execSchedulerPreempt s
  | .listLaunch => Sys2Proof.Machine.execListLaunch s
  | .listWaitc => Sys2Proof.Machine.execListWaitc s
  | .listSkipif => Sys2Proof.Machine.execListSkipif s
  | .listJump => Sys2Proof.Machine.execListJump s
  | .listCall => Sys2Proof.Machine.execListCall s
  | .listRet => Sys2Proof.Machine.execListRet s
  | .listPost => Sys2Proof.Machine.execListPost s
  | .listFence => Sys2Proof.Machine.execListFence s
  | .listTable => Sys2Proof.Machine.execListTable s
  | .quoteComplete => Sys2Proof.Machine.execQuoteComplete s
  | .elogRead => Sys2Proof.Machine.execElogRead s
  | .stop => Sys2Proof.Machine.execStop s
  | .tyield => Sys2Proof.Machine.execTyield s
  | .nop => Sys2Proof.Machine.execNop s
  | .ltrig => Sys2Proof.Machine.execLtrig s
  | .decodeFailure => Sys2Proof.Machine.execDecodeFailure s
  | .cxlLinkDown => Sys2Proof.Machine.execCxlLinkDown s

end Sys2Proof.Machine
end

