-- ==== Sys2Proof/Machine/Step.lean ====
section
/-! DEFINITION. One step: the choice that the agenda names, or the default one, is carried out (log 3). -/

namespace Sys2Proof.Machine

/-- A choice carried out. -/
def perform (a : Act) (s : State) : Host.Outcome State Fault Refusal :=
  match a with
  | .issue c k =>
    if s.stopped then .fault .nothingRuns
    else match s.frontEnd c k with
      | .done t => .next t
      | .run i t => exec i t
  | .event e => if s.admits e then exec e (s.met e) else .next s
  | .list w e => if s.admits e then exec e { s.met e with walker := w } else .next s
  | .tick n => .next (s.advance (s.quietFor n))

/-- The choice that comes next, and the state without it. -/
def choose (s : State) : Act × State :=
  match s.agenda with
  | a :: rest => (a, { s with agenda := rest })
  | [] => (s.defaultAct, s)

/-- One step: a cycle passes and the next choice is carried out. -/
def step (s : State) : Host.Outcome State Fault Refusal :=
  let x := choose s
  perform x.1 (x.2.advance 1)

/-- The state with an instruction placed where step fetches the next one (log 8). -/
def State.withFetchWord (s : State) (nbits w : Nat) : State := s.placeWord (BitVec.ofNat 64 (w % 2 ^ nbits))

end Sys2Proof.Machine
end

