-- ==== Sys2Proof/Safety.lean ====
section
/-! DEFINITION. The terms in which claims speak about a step: what stays as it was outside the running thread, what a thread is
after its instruction has retired with or without a result, what a trap leaves, and the invariant of the machine. -/

set_option linter.constructorNameAsVariable false

namespace Sys2Proof.Machine

/-! ## Parts of the state that journalling may touch (R322, R324) -/

/-- A core without its threads and its journal. -/
def Core.bare (x : Core) : Core := { x with threads := [], journal := [] }

/-- The state without its cores and its gangs. -/
def State.outside (s : State) : State := { s with cores := [], gangs := [] }

/-- A thread without its pending asynchronous trap. -/
def Thread.calm (t : Thread) : Thread := { t with async := none }

/-- A thread without its pending asynchronous trap and its registers. -/
def Thread.bare (t : Thread) : Thread := { t with async := none, regs := [] }

/-- From s to t nothing outside context k of core c changes, but for what a journal adds by itself: the list of journalled
units of the core, and the end of replay of a gang whose journal is full. -/
structure SameOutside (s t : State) (c k : Nat) : Prop where
  rest : t.outside = s.outside
  cores : ∀ j, j ≠ c → t.coreAt j = s.coreAt j
  core : (t.coreAt c).bare = (s.coreAt c).bare
  threads : ∀ l, l ≠ k → t.thread c l = s.thread c l
  gangs : ∀ h, t.gangAt h = s.gangAt h ∨ t.gangAt h = (s.gangAt h).map (fun g => { g with replay := false })

/-- From s to t a core has fetched a code word: nothing changes but its cached translations and its fetched copies of code words (R336,
R341). -/
structure CodeFetched (s t : State) (c : Nat) : Prop where
  rest : { t with cores := [] } = { s with cores := [] }
  cores : ∀ j, j ≠ c → t.coreAt j = s.coreAt j
  core : { t.coreAt c with tlb := [], icache := [] } = { s.coreAt c with tlb := [], icache := [] }

/-- A pending asynchronous trap stays, unless none was pending, the superstep could be replayed and its journal is now full: then
JOURNAL_FULL is pending (R316, R324). -/
def AsyncKept (s t : State) (c k : Nat) : Prop :=
  (t.thread c k).async = (s.thread c k).async ∨
    ((s.thread c k).async = none ∧ (s.replaying (spanOf c)).isSome = true ∧
      (t.thread c k).async = some (Cause.journalFull, 0))

/-! ## After an instruction -/

/-- A thread whose instruction has retired (R87, R88, R319): it stands at the next word, the word folded into the hash. Out of ISSUED it
stays there until that word has been fetched; else it is READY. -/
def Thread.retired (x : Thread) (clock : Nat) : Thread :=
  { x with hash := foldHash x.hash x.word, pcOff := x.pcOff + 1, haltAt := none,
           stat := if x.stat = .issued then .issued else .ready, wait := if x.stat = .issued then .stall .fetch else .none,
           code := if x.stat = .issued then none else x.code, held := none, age := clock }

/-- A thread has no instruction to retire and goes on (R87, R88): it is READY, or stands in ISSUED until its next word has been fetched. -/
def Thread.goesOn (t : Thread) : Prop :=
  t.held = none ∧ (t.stat = .ready ∧ t.wait = .none ∨ t.stat = .issued ∧ t.wait = .stall .fetch)

/-- From s to t the running thread becomes x and retires, and nothing else changes. -/
structure Retires (s t : State) (x : Thread) : Prop where
  outside : SameOutside s t s.core s.ctx
  me : t.me.calm = (x.retired s.clock).calm
  async : AsyncKept s t s.core s.ctx

/-- From s to t the running thread, after a change to x, writes a result v to the register d and retires, and nothing else
changes: d and q hold the value, with poison if the value has it or the thread is tainted (R47, R321); z discards it and
leaves q; every other register is as it was. -/
structure Result (s t : State) (x : Thread) (d : Reg) (v : Val) : Prop where
  outside : SameOutside s t s.core s.ctx
  written : d ≠ 0 → t.reg d = ⟨v.v, v.p || x.tnt⟩ ∧ t.reg 1 = ⟨v.v, v.p || x.tnt⟩
  discarded : d = 0 → t.reg d = Val.zero ∧ t.reg 1 = x.reg 1
  others : ∀ r, r ≠ d → r ≠ 1 → t.reg r = x.reg r
  rest : t.me.bare = ((x.setReg d v).retired s.clock).bare
  async : AsyncKept s t s.core s.ctx

/-- An instruction completes with a result. -/
def Gives (i : Instr) (s : State) (d : Reg) (v : Word) (p : Bool) : Prop :=
  ∃ t, exec i s = .next t ∧ Result s t s.me d ⟨v, p⟩

/-- An instruction completes and the running thread becomes x. -/
def Makes (i : Instr) (s : State) (x : Thread) : Prop := ∃ t, exec i s = .next t ∧ Retires s t x

/-! ## After a trap -/

/-- From s to t context k of core c is stopped by a trap (R315): TRAPPED, with the cause, the position of the instruction and the
value saved, its instruction unfinished and its age reset (R100); nothing else changes. -/
structure TrappedAt (s t : State) (c k : Nat) (cause : BitVec 8) (tval : Word) : Prop where
  outside : SameOutside s t c k
  thread : (t.thread c k).calm = { s.thread c k with stat := .trapped, cause := cause,
                                                     tpc := pcWord (s.thread c k).pcBlk (s.thread c k).pcOff, tval := tval,
                                                     code := none, held := none, wait := .none,
                                                     age := s.clock }.calm
  async : AsyncKept s t c k

/-- The running thread is stopped by a trap. -/
abbrev Trapped (s t : State) (cause : BitVec 8) (tval : Word) : Prop := TrappedAt s t s.core s.ctx cause tval

/-- An instruction ends in a trap of the running thread. -/
def Traps (i : Instr) (s : State) (cause : BitVec 8) (tval : Word) : Prop :=
  ∃ t, exec i s = .next t ∧ Trapped s t cause tval

/-- The gang of a context does not turn a trap of a cause into something else: it is not aborting (R302) and, for POISON_CONSUMED,
its superstep cannot be replayed (R326). -/
def trapsPlainlyAt (s : State) (c k : Nat) (cause : BitVec 8) : Bool :=
  match s.gangOf (s.thread c k) with
  | none => true
  | some g => decide (g.stat ≠ .aborting) && !(decide (cause = Cause.poisonConsumed) && g.replay)

/-- The same of the running thread. -/
def trapsPlainly (s : State) (cause : BitVec 8) : Bool := trapsPlainlyAt s s.core s.ctx cause

/-! ## Memory instructions -/

/-- A memory instruction of n bytes passes the checks of R162 (data: its stored operand is poisoned): ad is the address it
accesses, physical in global space and the byte offset elsewhere, and u the state after the translation. -/
def Accepted (s : State) (use : MemUse) (sp : Space) (a : Reg) (disp : BitVec 24) (n : Nat) (data : Bool) (ad : Nat)
    (u : State) : Prop :=
  let ea := (effAddr (s.reg a).v disp).toNat
  (s.reg a).p = false ∧ allowed use sp = true ∧ ea % n = 0 ∧
    if sp = .gl then s.checkGlobal use ea = .ok (ad, u) ∧ (use = .load ∨ u.inReplay = false ∧ data = false)
    else s.checkLocal sp ea n = none ∧ ad = ea ∧ u = s

/-- From s to t the running thread issues an access x and retires: x is its youngest outstanding access, and an access with a
destination becomes the one that writes it and q, where an older one no longer does (R47); no register and no byte of any memory changes (R257, R262). -/
structure Issues (s t : State) (x : Access) : Prop where
  outside : SameOutside s t s.core s.ctx
  out : t.me.out = (if x.dest = 0 then s.me.out else s.me.out.map (Access.overtaken x.dest)) ++
    [{ x with toQ := decide (x.dest ≠ 0), taint := s.me.tnt }]
  regs : ∀ r, t.reg r = s.reg r
  rest : { t.me.calm with out := [], written := 0 } = { (s.me.retired s.clock).calm with out := [], written := 0 }

/-! ## Instructions and events that act elsewhere -/

/-- An instruction completes in a state of which P holds. -/
def Reaches (i : Instr) (s : State) (P : State → Prop) : Prop := ∃ t, exec i s = .next t ∧ P t

/-- No register of any context and no byte or poison bit of any memory differs. -/
structure SameData (s t : State) : Prop where
  regs : ∀ c k r, (t.thread c k).reg r = (s.thread c k).reg r
  mems : ∀ sp p, t.localMem sp p = s.localMem sp p

/-- From s to t an operation of the running thread joins the matrix sequence, and no register and no memory differs (R180). -/
structure Joins (s t : State) (op : MatOp) : Prop where
  seq : t.myCore.mx.seq = s.myCore.mx.seq ++ [⟨s.ctx, op, s.liveCycles s.core, false⟩]
  data : SameData s t

/-! ## The invariant -/

/-- Physical memory is in its canonical form. -/
def Inv (s : State) : Prop := s.mem.wf = true

end Sys2Proof.Machine
end

