-- ==== Sys2Proof/Certificates/Slice0/Obligations.lean ====
section
/-! DEFINITION. The statements for the provers. Where a statement names a log entry, that clause is the model's choice. -/

set_option linter.constructorNameAsVariable false

open Sys2Proof Sys2Proof.Machine

/-! ## Scalar instructions (spec/07) -/

/-- R121, R123: sums, products, their upper halves, quotients and remainders; the poison of the result is the OR of the poison
of the operands read. -/
def Obligations.IntegerArithmeticResults : Prop :=
  ∀ (s : State) (d a b : Reg),
    let x := (s.reg a).v; let y := (s.reg b).v; let p := (s.reg a).p || (s.reg b).p
    Gives (.add d a b) s d (x + y) p ∧
    Gives (.sub d a b) s d (x - y) p ∧
    Gives (.mul d a b) s d (x * y) p ∧
    Gives (.mulh d a b) s d ((x.signExtend 128 * y.signExtend 128).extractLsb' 64 64) p ∧
    Gives (.mulhu d a b) s d ((x.setWidth 128 * y.setWidth 128).extractLsb' 64 64) p ∧
    Gives (.div d a b) s d (if y = 0 then BitVec.allOnes 64 else x.sdiv y) p ∧
    Gives (.divu d a b) s d (if y = 0 then BitVec.allOnes 64 else x / y) p ∧
    Gives (.rem d a b) s d (if y = 0 then x else x.srem y) p ∧
    Gives (.remu d a b) s d (if y = 0 then x else x % y) p

/-- R122, R124, R125: operations with an immediate, bitwise operations, shifts and rotations; a count is taken modulo 64. -/
def Obligations.LogicAndShiftResults : Prop :=
  ∀ (s : State) (d a b : Reg) (imm : Half) (n : BitVec 6),
    let x := (s.reg a).v; let y := (s.reg b).v; let pa := (s.reg a).p; let p := (s.reg a).p || (s.reg b).p
    Gives (.and d a b) s d (x &&& y) p ∧
    Gives (.or d a b) s d (x ||| y) p ∧
    Gives (.xor d a b) s d (x ^^^ y) p ∧
    Gives (.addi d a imm) s d (x + imm.signExtend 64) pa ∧
    Gives (.andi d a imm) s d (x &&& imm.signExtend 64) pa ∧
    Gives (.ori d a imm) s d (x ||| imm.signExtend 64) pa ∧
    Gives (.xori d a imm) s d (x ^^^ imm.signExtend 64) pa ∧
    Gives (.shl d a b) s d (x <<< (y.toNat % 64)) p ∧
    Gives (.shr d a b) s d (x >>> (y.toNat % 64)) p ∧
    Gives (.sar d a b) s d (x.sshiftRight (y.toNat % 64)) p ∧
    Gives (.rol d a b) s d (x.rotateLeft y.toNat) p ∧
    Gives (.shli d a n) s d (x <<< n.toNat) pa ∧
    Gives (.shri d a n) s d (x >>> n.toNat) pa ∧
    Gives (.sari d a n) s d (x.sshiftRight n.toNat) pa ∧
    Gives (.roli d a n) s d (x.rotateLeft n.toNat) pa

/-- R126, R127: the smaller and the larger of two values, magnitude, counts of bits, and reversed orders of bits and bytes. -/
def Obligations.SelectionAndBitCountResults : Prop :=
  ∀ (s : State) (d a b : Reg),
    let x := (s.reg a).v; let y := (s.reg b).v; let pa := (s.reg a).p; let p := (s.reg a).p || (s.reg b).p
    Gives (.min d a b) s d (if x.toInt ≤ y.toInt then x else y) p ∧
    Gives (.max d a b) s d (if x.toInt ≤ y.toInt then y else x) p ∧
    Gives (.minu d a b) s d (if x.toNat ≤ y.toNat then x else y) p ∧
    Gives (.maxu d a b) s d (if x.toNat ≤ y.toNat then y else x) p ∧
    Gives (.abs d a) s d (BitVec.ofNat 64 x.toInt.natAbs) pa ∧
    (∃ n, n ≤ 64 ∧ x.toNat < 2 ^ (64 - n) ∧ (n < 64 → 2 ^ (63 - n) ≤ x.toNat) ∧ Gives (.clz d a) s d (BitVec.ofNat 64 n) pa) ∧
    (∃ n, n ≤ 64 ∧ (∀ i, i < n → x.getLsbD i = false) ∧ (n < 64 → x.getLsbD n = true) ∧
      Gives (.ctz d a) s d (BitVec.ofNat 64 n) pa) ∧
    Gives (.popc d a) s d (BitVec.ofNat 64 ((List.range 64).filter (fun i => x.getLsbD i)).length) pa ∧
    (∃ v : Word, (∀ i, i < 64 → v.getLsbD i = x.getLsbD (63 - i)) ∧ Gives (.brev d a) s d v pa) ∧
    (∃ v : Word, (∀ i, i < 8 → v.extractLsb' (8 * i) 8 = x.extractLsb' (56 - 8 * i) 8) ∧ Gives (.bswap d a) s d v pa)

/-- R128: a field taken out or put in, where its position and width are within the limits; else RANGE with the word. R129: the
lower and the upper half of the product of two polynomials over GF(2): bit i is the parity of the pairs of set bits whose
positions add up to i. -/
def Obligations.BitFieldAndCarrylessResults : Prop :=
  (∀ (s : State) (d a b : Reg) (sign : Bool) (pos : BitVec 6) (width : BitVec 7),
    let x := (s.reg a).v; let y := (s.reg b).v
    (1 ≤ width.toNat → width.toNat ≤ 64 → pos.toNat + width.toNat ≤ 64 →
      let f := (x >>> pos.toNat).setWidth width.toNat
      Gives (.extr d a sign pos width) s d (if sign then f.signExtend 64 else f.setWidth 64) (s.reg a).p ∧
      ∃ v : Word, (∀ i, i < 64 → v.getLsbD i =
          if pos.toNat ≤ i ∧ i < pos.toNat + width.toNat then x.getLsbD (i - pos.toNat) else y.getLsbD i) ∧
        Gives (.insr d a b pos width) s d v ((s.reg a).p || (s.reg b).p)) ∧
    (width.toNat = 0 ∨ 64 < width.toNat ∨ 64 < pos.toNat + width.toNat → trapsPlainly s Cause.range = true →
      Traps (.extr d a sign pos width) s Cause.range s.me.word ∧
      Traps (.insr d a b pos width) s Cause.range s.me.word)) ∧
  (∀ (s : State) (d a b : Reg),
    let x := (s.reg a).v; let y := (s.reg b).v; let p := (s.reg a).p || (s.reg b).p
    let coefficient (i : Nat) : Bool :=
      decide ((List.range 64).countP (fun j => decide (j ≤ i) && (x.getLsbD (i - j) && y.getLsbD j)) % 2 = 1)
    (∃ v : Word, (∀ i, i < 64 → v.getLsbD i = coefficient i) ∧ Gives (.clmul d a b) s d v p) ∧
    ∃ v : Word, (∀ i, i < 64 → v.getLsbD i = coefficient (i + 64)) ∧ Gives (.clmulh d a b) s d v p)

/-- R130, R131: constants, and an address that is not used as one. R136, R119: the counters c0 to c3 wrap modulo 2^32; CSET
takes the low half of A plus an immediate, CADD adds an immediate and gives the new value, CRD gives the counter. -/
def Obligations.ConstantsAddressesCounters : Prop :=
  (∀ (s : State) (d a b : Reg) (imm : Half) (sh : BitVec 2),
    Gives (.li d imm) s d (imm.signExtend 64) false ∧
    Gives (.lih d a imm) s d (imm ++ (s.reg a).v.extractLsb' 0 32) (s.reg a).p ∧
    Gives (.lea d a b sh imm) s d ((s.reg a).v + (s.reg b).v * BitVec.ofNat 64 (2 ^ sh.toNat) + imm.signExtend 64)
      ((s.reg a).p || (s.reg b).p)) ∧
  (∀ (s : State) (d a : Reg) (c : BitVec 2) (imm : Half),
    let old := s.me.counter c.toNat
    Gives (.crd d c) s d (old.setWidth 64) false ∧
    (∃ t x, exec (.cadd d c imm) s = .next t ∧ Result s t x d ⟨(old + imm).setWidth 64, false⟩ ∧
      x.counter c.toNat = old + imm ∧ (∀ j : BitVec 2, j ≠ c → x.counter j.toNat = s.me.counter j.toNat) ∧
      { x with c0 := 0, c1 := 0, c2 := 0, c3 := 0 } = { s.me with c0 := 0, c1 := 0, c2 := 0, c3 := 0 }) ∧
    (∃ x, Makes (.cset c a imm) s x ∧ x.counter c.toNat = (s.reg a).v.extractLsb' 0 32 + imm ∧
      (∀ j : BitVec 2, j ≠ c → x.counter j.toNat = s.me.counter j.toNat) ∧
      { x with c0 := 0, c1 := 0, c2 := 0, c3 := 0 } =
        { s.me with c0 := 0, c1 := 0, c2 := 0, c3 := 0, tp := s.me.tp || (s.reg a).p }))

/-- R132 to R135, R116: comparisons and predicate logic write one predicate, PMOV.set those of its mask, and no register; a
poisoned operand sets the thread poison flag. SEL and PMOV.get read the predicates; SEL takes the poison of the operand it
selects. -/
def Obligations.PredicateResults : Prop :=
  ∀ (s : State) (d a b : Reg) (n pa pb : BitVec 3) (imm : Half) (table : BitVec 4) (mask : BitVec 8),
    let x := (s.reg a).v; let p := (s.reg a).p || (s.reg b).p
    let holds (c : ICond) (y : Word) : Bool := match c with
      | .eq => decide (x = y)
      | .ne => decide (x ≠ y)
      | .lt => decide (x.toInt < y.toInt)
      | .ge => decide (x.toInt ≥ y.toInt)
      | .ltu => decide (x.toNat < y.toNat)
      | .geu => decide (x.toNat ≥ y.toNat)
    let only (q : BitVec 8) (v : Bool) : Prop :=
      ∀ i, i < 8 → q.getLsbD i = if i = n.toNat then v else s.me.preds.getLsbD i
    (∀ c, ∃ q, only q (holds c (s.reg b).v) ∧ Makes (.cmp c n a b) s { s.me with preds := q, tp := s.me.tp || p }) ∧
    (∀ c, ∃ q, only q (holds c (imm.signExtend 64)) ∧
      Makes (.cmpi c n a imm) s { s.me with preds := q, tp := s.me.tp || (s.reg a).p }) ∧
    (∃ q, only q (table.getLsbD (2 * (s.me.preds.getLsbD pa.toNat).toNat + (s.me.preds.getLsbD pb.toNat).toNat)) ∧
      Makes (.plog n pa pb table) s { s.me with preds := q }) ∧
    (∃ q : BitVec 8, (∀ i, i < 8 → q.getLsbD i = if mask.getLsbD i then x.getLsbD i else s.me.preds.getLsbD i) ∧
      Makes (.pmovSet a mask) s { s.me with preds := q, tp := s.me.tp || (s.reg a).p }) ∧
    Gives (.pmovGet d) s d (s.me.preds.setWidth 64) false ∧
    (let c := if s.me.preds.getLsbD n.toNat then s.reg a else s.reg b
     Gives (.sel d a b n) s d c.v c.p)

/-- R118, R137, R138, R139, R141 to R144: every scalar floating-point instruction completes; its result is the FP32 (or
converted) encoding with zeros or the sign above, its flags are ORed into s.rmode, and rounding code 0 takes s.rmode[1:0]. -/
def Obligations.FloatingPointCompletion : Prop :=
  ∀ (s : State) (d a b : Reg) (rm : Rnd) (src dst : Fmt) (sat : Bool) (cond : FCond) (n : BitVec 3),
    let x := ((s.reg a).v.extractLsb' 0 32).toNat; let y := ((s.reg b).v.extractLsb' 0 32).toNat
    let z := ((s.reg d).v.extractLsb' 0 32).toNat
    let pa := (s.reg a).p; let p := (s.reg a).p || (s.reg b).p
    let m : RMode := match rm with
      | .mode => match (s.me.rmode.extractLsb' 0 2).toNat with
        | 0 => .rne
        | 1 => .rz
        | 2 => .rup
        | _ => .rdn
      | .rne => .rne
      | .rz => .rz
      | .rup => .rup
      | .rdn => .rdn
    let flagged (f : Flags) : Thread := { s.me with rmode := s.me.rmode ||| (f.setWidth 64 <<< 8) }
    let gives (i : Instr) (r : Nat × Flags) (q : Bool) : Prop :=
      ∃ t, exec i s = .next t ∧ Result s t (flagged r.2) d ⟨BitVec.ofNat 64 (r.1 % 2 ^ 32), q⟩
    gives (.fadd d a b rm) (fpAdd m x y) p ∧
    gives (.fsub d a b rm) (fpSub m x y) p ∧
    gives (.fmul d a b rm) (fpMul m x y) p ∧
    gives (.ffma d a b rm) (fpFma m x y z) (p || (s.reg d).p) ∧
    gives (.fmin d a b) (fpMinMax false x y) p ∧
    gives (.fmax d a b) (fpMinMax true x y) p ∧
    gives (.fexp2 d a) (fpExp2 x) pa ∧
    gives (.flog2 d a) (fpLog2 x) pa ∧
    gives (.frcp d a) (fpRcp x) pa ∧
    gives (.frsq d a) (fpRsq x) pa ∧
    gives (.fscale d a b rm) (fpScale m x (s.reg b).v.toInt) p ∧
    Gives (.fclass d a) s d (BitVec.ofNat 64 (2 ^ fpClass x)) pa ∧
    (let r := fpCvt src dst sat m x
     ∃ t, exec (.fcvt d a rm src dst sat) s = .next t ∧ Result s t (flagged r.2) d ⟨cvtImage dst r.1, pa⟩) ∧
    (let r := fpCond cond (Sys2Proof.Machine.Num.ofBits .fp32 x) (Sys2Proof.Machine.Num.ofBits .fp32 y)
     ∃ q, (∀ i, i < 8 → q.getLsbD i = if i = n.toNat then r.1 else s.me.preds.getLsbD i) ∧
       Makes (.fcmp cond n a b) s { flagged r.2 with preds := q, tp := s.me.tp || p })

/-- R142, R138: FCLASS tells the ten classes of FP32 encodings apart by sign, exponent and fraction; FMIN and FMAX deliver one
of their operands bit for bit, with -0 below +0 and no flag, and the canonical NaN where an operand is a NaN. R68 step 2: a
magnitude that is not a multiple of the quantum goes to one of the two neighbours: to the nearer under RNE (a tie to the even
one), to the one nearer zero under RZ, to the one not below the value under RUP, to the one not above it under RDN. -/
def Obligations.ClassesOrderAndRounding : Prop :=
  (∀ x y : Nat, x < 2 ^ 32 → y < 2 ^ 32 →
    let neg (x : Nat) : Bool := decide (2 ^ 31 ≤ x)
    let mag (x : Nat) : Nat := x % 2 ^ 31
    let isNan (x : Nat) : Prop := 0x7F800000 < mag x
    let key (x : Nat) : Int := if neg x then -(mag x : Int) - 1 else mag x
    (fpClass x =
      if 0x7FC00000 ≤ mag x then 9
      else if 0x7F800000 < mag x then 8
      else if mag x = 0x7F800000 then (if neg x then 0 else 7)
      else if 0x00800000 ≤ mag x then (if neg x then 1 else 6)
      else if mag x ≠ 0 then (if neg x then 2 else 5)
      else if neg x then 3 else 4) ∧
    (¬ isNan x → ¬ isNan y → fpMinMax false x y = (if key x ≤ key y then x else y, Flags.none)) ∧
    (¬ isNan x → ¬ isNan y → fpMinMax true x y = (if key x ≤ key y then y else x, Flags.none)) ∧
    (isNan x ∨ isNan y → (fpMinMax false x y).1 = 0x7FC00000 ∧ (fpMinMax true x y).1 = 0x7FC00000)) ∧
  (∀ (neg : Bool) (m : Nat) (e q : Int), e ≤ q →
    let unit := 2 ^ (q - e).toNat
    let r (mode : RMode) : Nat := (quantise mode neg m e q (fun _ => false)).1
    (∀ mode, unit * r mode ≤ m + unit ∧ m ≤ unit * r mode + unit ∧ (m % unit = 0 → unit * r mode = m)) ∧
    (2 * (unit * r .rne) ≤ 2 * m + unit ∧ 2 * m ≤ 2 * (unit * r .rne) + unit ∧
      (2 * (m % unit) = unit → r .rne % 2 = 0)) ∧
    unit * r .rz ≤ m ∧
    (if neg then unit * r .rup ≤ m ∧ m ≤ unit * r .rdn else m ≤ unit * r .rup ∧ unit * r .rdn ≤ m))

/-! ## Contexts and traps (spec/05, spec/18) -/

/-- R90: TSTART without a FREE context gives all ones; with one it gives the number of the lowest-numbered, which starts at the
block with the value of A in o0, its parent's number in o1 and every other register 0, under its parent's owner, privilege, draw
key and rounding mode (R90; log 42 for the rounding mode). It is a release: it starts once the parent's accesses and posts are
performed. -/
def Obligations.ThreadStart : Prop :=
  ∀ (s : State) (d a : Reg) (blk : Half), s.me.out = [] → s.posting = false →
    (s.freeContext = none → Gives (.tstart d a blk) s d (BitVec.allOnes 64) false) ∧
    (∀ k, s.freeContext = some k →
      ∃ u child, Result s u s.me d ⟨BitVec.ofNat 64 k, false⟩ ∧
        exec (.tstart d a blk) s =
          .next (((u.setThread s.core k child).countBlock s.core k).enterBlock s.core k blk none true (some (s.core, s.ctx))) ∧
        child.reg (Reg.o 0) = s.reg a ∧ child.reg (Reg.o 1) = ⟨BitVec.ofNat 64 s.ctx, false⟩ ∧
        (∀ r, r ≠ Reg.o 0 → r ≠ Reg.o 1 → child.reg r = Val.zero) ∧ child.preds = 0 ∧ (∀ n, child.counter n = 0) ∧
        child.tp = false ∧ child.ih = false ∧ child.owner = s.me.owner ∧ child.priv = s.me.priv ∧
        child.drawkey = s.me.drawkey ∧ child.rmode = (s.me.rmode.extractLsb' 0 2).setWidth 64)

/-- R101: SRD gives each special register, with poison clear; a supervisor thread, which has no gang, reads s.tenant, s.gang and
s.group as all ones (R92), and its s.step and s.sib as 0. That s.clock lies at most 16 cycles behind the device's count is the
model's choice (log 4), and so is that s.kern of a supervisor thread is a free value (log 11). R101, R94, R95, R96, R100: SWR
writes one special register, within the bits it has, and a poisoned source sets the thread poison flag; GDEAD makes the g
registers it names read 0 and no other, and their entries leave the register cache; NOP and TYIELD change nothing. -/
def Obligations.SpecialRegisters : Prop :=
  (∀ (s : State) (d : Reg),
    (∀ g h, s.gangOf s.me = some g → s.me.gang? = some h →
      Gives (.srd d .gang) s d (BitVec.ofNat 64 (g.index % 256 + h * 256)) false ∧
      Gives (.srd d .kern) s d (BitVec.ofNat 64 g.kern) false ∧
      Gives (.srd d .step) s d (BitVec.ofNat 64 g.step) false ∧
      Gives (.srd d .tenant) s d (BitVec.ofNat 64 g.tenant) false ∧
      (∀ n, g.group = some n → Gives (.srd d .group) s d (BitVec.ofNat 64 n) false ∧
        Gives (.srd d .sib) s d (BitVec.ofNat 64 g.sib) false) ∧
      (g.group = none → Gives (.srd d .group) s d (BitVec.allOnes 64) false ∧ Gives (.srd d .sib) s d 0 false)) ∧
    (s.gangOf s.me = none → Gives (.srd d .tenant) s d (BitVec.allOnes 64) false ∧
      Gives (.srd d .gang) s d (BitVec.allOnes 64) false ∧ Gives (.srd d .group) s d (BitVec.allOnes 64) false ∧
      Gives (.srd d .step) s d 0 false ∧ Gives (.srd d .sib) s d 0 false ∧
      ∃ v u, u = { s with fresh := s.fresh + 1 } ∧ exec (.srd d .kern) s = .next (u.finish d ⟨v, false⟩)) ∧
    (∃ lag u, lag ≤ 16 ∧ u = { s with fresh := s.fresh + 1 } ∧
      exec (.srd d .clock) s = .next (u.finish d ⟨BitVec.ofNat 64 (s.clock - lag), false⟩)) ∧
    Gives (.srd d .tid) s d (BitVec.ofNat 64 s.ctx) false ∧
    Gives (.srd d .core) s d (BitVec.ofNat 64 (s.core % 128 + s.core / 128 * 256)) false ∧
    Gives (.srd d .span) s d (BitVec.ofNat 64 (spanOf s.core)) false ∧
    Gives (.srd d .drawkey) s d s.me.drawkey false ∧
    Gives (.srd d .cause) s d (s.me.cause.setWidth 64) false ∧
    Gives (.srd d .tpc) s d s.me.tpc false ∧
    Gives (.srd d .tval) s d s.me.tval false ∧
    Gives (.srd d .rmode) s d s.me.rmode false) ∧
  (∀ (s : State) (a : Reg) (half : Bool) (mask : Half),
    let w := (s.reg a).v; let tp := s.me.tp || (s.reg a).p
    Makes (.swr .drawkey a) s { s.me with drawkey := w, tp := tp } ∧
    Makes (.swr .cause a) s { s.me with cause := w.extractLsb' 0 8, tp := tp } ∧
    Makes (.swr .tpc a) s { s.me with tpc := (w.extractLsb' 0 42).setWidth 64, tp := tp } ∧
    Makes (.swr .tval a) s { s.me with tval := w, tp := tp } ∧
    Makes (.swr .rmode a) s { s.me with rmode := w &&& 0x3F03, tp := tp } ∧
    Makes .nop s s.me ∧
    Makes .tyield s s.me ∧
    let named (r : Nat) : Prop := 10 ≤ r ∧ (if half then 32 ≤ r - 10 ∧ mask.getLsbD (r - 42) else mask.getLsbD (r - 10))
    ∃ t x, exec (.gdead half mask) s = .next t ∧ Retires (s.dropDead s.core s.ctx (gdeadMask half mask)) t x ∧
      (∀ r : Reg, (named r.toNat → x.reg r = Val.zero) ∧ (¬ named r.toNat → x.reg r = s.me.reg r)) ∧
      { x with regs := [], out := [] } = { s.me with regs := [], out := [] } ∧
      ∀ k n, n < 54 → (64 * k + n ∈ t.myCore.resident ↔
        64 * k + n ∈ s.myCore.resident ∧ ¬ (k = s.ctx ∧ named (n + 10))))

/-- R88, R314, R316: TRAP ends its block and raises SOFTWARE with its code; BRK raises BREAKPOINT with its code where the gang
does not debug, and halts the thread and notifies firmware where it does; STOP clears IH (R114) and makes the thread DONE. -/
def Obligations.SoftwareTrapBreakpointAndStop : Prop :=
  ∀ (s : State) (code : Half),
    (trapsPlainly s.lastWord Cause.software = true →
      ∃ t, exec (.trap code) s = .next t ∧ Trapped s.lastWord t Cause.software (code.setWidth 64)) ∧
    ((∀ g, s.gangOf s.me = some g → g.debug = false ∧ g.stat ≠ .aborting) →
      Traps (.brk code) s Cause.breakpoint (code.setWidth 64)) ∧
    (∀ g, s.gangOf s.me = some g → g.debug = true → g.stat ≠ .aborting →
      ∃ t, exec (.brk code) s = .next t ∧ t.me.stat = .halted ∧ t.me.cause = Cause.breakpoint ∧
        t.me.tpc = pcWord s.me.pcBlk s.me.pcOff ∧ t.me.tval = code.setWidth 64 ∧ (∀ r, t.reg r = s.reg r) ∧
        ∃ m : Msg, t.notes = s.notes ++ [m] ∧ m.payload = code.setWidth 64) ∧
    ∃ t, exec .stop s = .next t ∧ t.me.stat = .done ∧ t.me.ih = false ∧ t.me.held = none ∧ t.me.wait = .none

/-- R314, R302, R326: a trap saves its cause, the position of the instruction and its value, stops the thread and changes
nothing else, no register included; in an aborting gang the thread becomes DONE instead. R114, R315: a user-recoverable trap
goes to the kernel's trap block, with IH set and every register kept; a trap that no trap block takes halts the thread; a thread
that is not TRAPPED is left alone. -/
def Obligations.TrapEntryAndDelivery : Prop :=
  (∀ (s : State) (c k : Nat) (cause : BitVec 8) (tval : Word),
    (trapsPlainlyAt s c k cause = true →
      TrappedAt s (s.raiseTrapAt c k cause tval) c k cause tval ∧
      ∀ r, ((s.raiseTrapAt c k cause tval).thread c k).reg r = (s.thread c k).reg r) ∧
    (∀ g, s.gangOf (s.thread c k) = some g → g.stat = .aborting →
      ((s.raiseTrapAt c k cause tval).thread c k).stat = .done)) ∧
  (∀ (s : State) (c k : Nat),
    ((s.thread c k).stat ≠ .trapped → exec (.trapDelivery c k) s = .next s) ∧
    (∀ g, (s.thread c k).stat = .trapped → s.gangOf (s.thread c k) = some g → userRecoverable (s.thread c k).cause = true →
      g.trap ≠ 0 → (s.thread c k).ih = false →
      exec (.trapDelivery c k) s =
        .next (((s.modThread c k (fun t => { t with ih := true })).countBlock c k).enterBlock c k g.trap none false (some (c, k)))) ∧
    ((s.thread c k).stat = .trapped →
      (∀ g, s.gangOf (s.thread c k) = some g →
        userRecoverable (s.thread c k).cause = false ∨ g.trap = 0 ∨ (s.thread c k).ih = true) →
      ∃ t, exec (.trapDelivery c k) s = .next t ∧ (t.thread c k).stat = .halted ∧
        (t.thread c k).cause = (s.thread c k).cause ∧ (t.thread c k).tpc = (s.thread c k).tpc ∧
        (t.thread c k).tval = (s.thread c k).tval))

/-- TRET: outside a trap block it traps ILLEGAL_OP with its word; in one it clears IH and resumes at the position in s.tpc, or
at the word after it, with every register kept; a position past the end of the block traps RANGE with s.tpc. -/
def Obligations.TrapReturn : Prop :=
  ∀ (s : State) (skip : Bool),
    let blk := s.me.tpc.extractLsb' 0 32
    let off := (s.me.tpc.extractLsb' 32 10).toNat + (if skip then 1 else 0)
    (s.me.ih = false → trapsPlainly s Cause.illegalOp = true → Traps (.tret skip) s Cause.illegalOp s.me.word) ∧
    (∀ len u, s.me.ih = true → s.blockLength s.core (s.tenantOf s.me) blk = .ok (len, u) →
      (off < len →
        ∃ t, exec (.tret skip) s = .next t ∧ t.me.ih = false ∧ t.me.pcBlk = blk ∧ t.me.pcOff = off ∧ t.me.goesOn ∧
          (∀ r, t.reg r = s.reg r) ∧ t.me.preds = s.me.preds ∧ t.me.rmode = s.me.rmode) ∧
      (len ≤ off → trapsPlainly u Cause.range = true →
        ∃ t, exec (.tret skip) s = .next t ∧ Trapped u t Cause.range s.me.tpc))

/-- R316, R330, R331, R91, R95, R96: an asynchronous trap is taken at an instruction boundary outside a trap block; a requested
halt takes effect there too, and s.tpc names the position (the model's choice, log 14); a DONE context whose accesses and posts
are performed is FREE, with every register 0 (log 2), and a mutex that it still owned has passed to the head of its queue or is free (R244).
R98, R100: the context of a core that issues next stands in the convoy of a context of greatest age; that the members of a convoy issue
one after another, so that the lowest member of one that has begun to issue and has not comes before every other context, is the
model's choice (logs 36 and 3), for R98 issues a convoy at once. R17: a trap that may be delivered was raised before every other that waits on its core, or
belongs to the lowest s.tid of those raised then. A register that becomes resident while the register cache has room keeps
its value, or gets the value and the poison of its context record if they were written back to it; in a full cache the oldest
entry that nothing under way will write is written back to its record first (which entry goes is the model's choice, log 9). -/
def Obligations.ContextEvents : Prop :=
  ∀ (s : State) (c k n : Nat),
    let e := 64 * k + n; let x := s.coreAt c
    (s.issuerOn c = some k →
      (∀ j ∈ x.unissued, s.ready (s.thread c j) = true → k ∈ x.unissued ∧ k ≤ j) ∧
      ((∀ j ∈ x.unissued, s.ready (s.thread c j) = false) →
        ∃ j ∈ s.convoyOf c k, ∀ i, s.ready (s.thread c i) = true → (s.thread c j).age ≤ (s.thread c i).age)) ∧
    (s.admits (.trapDelivery c k) = true → (s.thread c k).stat = .trapped ∧ ∀ i, (s.thread c i).stat = .trapped →
      (s.thread c k).age < (s.thread c i).age ∨ ((s.thread c k).age = (s.thread c i).age ∧ k ≤ i)) ∧
    (∀ cause tval, (s.thread c k).async = some (cause, tval) → (s.thread c k).stat = .ready → (s.thread c k).ih = false →
      trapsPlainlyAt s c k cause = true →
      ∃ u t, u = (s.modThread c k (fun t => { t with async := none })).leaveConvoy c k ∧ exec (.asyncTrapTake c k) s = .next t ∧
        TrappedAt u t c k cause tval) ∧
    ((s.thread c k).haltReq = true → (s.thread c k).stat = .ready →
      ∃ t, exec (.debugHalt c k) s = .next t ∧ (t.thread c k).stat = .halted ∧ (t.thread c k).haltReq = false ∧
        (t.thread c k).tpc = pcWord (s.thread c k).pcBlk (s.thread c k).pcOff ∧ ∀ r, (t.thread c k).reg r = (s.thread c k).reg r) ∧
    ((s.thread c k).stat = .done → (s.thread c k).out = [] → (∀ p, p ∈ s.posts → p.by_ ≠ some (c, k)) →
      ∃ t, exec (.contextRelease c k) s = .next t ∧ (t.thread c k).stat = .free ∧ (∀ r, (t.thread c k).reg r = Val.zero) ∧
        ((t.thread c k).owner = if (s.thread c k).owner = .sup then .none else (s.thread c k).owner) ∧
        ∀ m, m < 16 → (s.mutexAt (spanOf c) m).owner = some (c, k) →
          (t.mutexAt (spanOf c) m).owner = (s.mutexAt (spanOf c) m).queue.head?) ∧
    (n < 54 → (s.thread c k).stat ≠ .free → ¬ e ∈ x.resident →
      (x.resident.length < 2048 →
        ∃ t, exec (.registerFill c k n) s = .next t ∧ (t.coreAt c).resident = e :: x.resident ∧ t.mem = s.mem ∧
          (∀ r, r.toNat ≠ n + 10 ∨ ¬ e ∈ x.evicted → (t.thread c k).reg r = (s.thread c k).reg r) ∧
          (∀ pa, e ∈ x.evicted → s.recordOf c k = some pa →
            (t.thread c k).raw (n + 10) = ⟨s.physWord (pa + 8 * n), (s.physWord (pa + 440)).getLsbD n⟩)) ∧
      (∀ l v pa, x.resident = l ++ [v] → ¬ v ∈ l → x.resident.length = 2048 → v % 64 < 54 →
        s.willWrite c v = false → s.recordOf c (v / 64) = some pa → pa + 448 ≤ Config.cwinBase →
        ∃ t, exec (.registerFill c k n) s = .next t ∧ (t.coreAt c).resident = e :: l ∧
          t.physWord (pa + 8 * (v % 64)) = ((s.thread c (v / 64)).raw (v % 64 + 10)).v ∧
          (t.physWord (pa + 440)).getLsbD (v % 64) = ((s.thread c (v / 64)).raw (v % 64 + 10)).p))

/-! ## Match tables (spec/06) -/

/-- R109, R110, R112, R50: table instructions on a table of the thread's team that no refresh occupies: TBW changes one part of
one shadow entry and no other, the entry being named by a number or by a register below 64; a poisoned value traps
POISON_CONSUMED and an action with a reserved bit RANGE, both with the value; TBR reads one; TBCOMMIT exchanges the banks and
advances the generation, and 64 cycles later the banks are equal; TBCLR clears the shadow bank; TBLOOK gives the winner, or bit
6, with the generation; TBGEN gives the generation. While a refresh or a clear occupies the table, TBW, TBR, TBCOMMIT and TBCLR
wait in ISSUED, in the order in which they arrived (R17). A register index of 64 or more traps TABLE_IDX with it. R102: an instruction that names a table its team does
not have traps TABLE_IDX with the table's number; that it does so whatever the index is the model's choice (log 42). -/
def Obligations.TableInstructions : Prop :=
  (∀ (s : State) (d a : Reg) (tb : BitVec 3) (idx : KIdx) (i : Nat) (part : Part) (n : Nat),
    s.teamTable tb.toNat = some n →
    (match idx with
      | .imm j => i = j.toNat
      | .reg b => i = (s.reg b).v.toNat ∧ i < 64) →
    let x := s.tableAt s.core n
    let waits (i : Instr) : Prop := exec i s = .next ((s.stall .table).modMe (fun t => { t with age := s.clock }))
    (x.busy = none → (s.reg a).p = false → (part = .act → (s.reg a).v.extractLsb' 55 9 = 0) →
      ∃ t, exec (.tbw tb idx part a) s = .next t ∧ (t.tableAt s.core n).active = x.active ∧
        (t.tableAt s.core n).gen = x.gen ∧
        ∀ j, (t.tableAt s.core n).shadow.get TEntry.never j =
          if j = i then (x.shadow.get TEntry.never j).setPart part (s.reg a).v else x.shadow.get TEntry.never j) ∧
    (x.busy = none → (s.reg a).p = true → trapsPlainly s Cause.poisonConsumed = true →
      Traps (.tbw tb idx part a) s Cause.poisonConsumed (s.reg a).v) ∧
    (x.busy = none → (s.reg a).p = false → part = .act → (s.reg a).v.extractLsb' 55 9 ≠ 0 → trapsPlainly s Cause.range = true →
      Traps (.tbw tb idx part a) s Cause.range (s.reg a).v) ∧
    (x.busy = none → Gives (.tbr d tb idx part) s d ((x.shadow.get TEntry.never i).part part) false) ∧
    (x.busy = none →
      ∃ t, exec (.tbcommit d tb) s = .next t ∧
        t.tableAt s.core n = { x with active := x.shadow, shadow := x.active, gen := x.gen + 1,
                                      busy := some (s.clock + 64, true) } ∧
        (d ≠ 0 → (t.reg d).v = (x.gen + 1).setWidth 64)) ∧
    (x.busy = none →
      ∃ t, exec (.tbclr tb) s = .next t ∧
        t.tableAt s.core n = { x with shadow := [], busy := some (s.clock + 64, false) }) ∧
    (x.busy ≠ none → waits (.tbw tb idx part a) ∧ waits (.tbr d tb idx part) ∧ waits (.tbcommit d tb) ∧ waits (.tbclr tb)) ∧
    Gives (.tblook d tb a) s d (x.gen ++ BitVec.ofNat 32 ((x.winner (s.buildKey a)).getD 64)) ((s.buildKey a).getLsbD 13) ∧
    Gives (.tbgen d tb) s d (x.gen.setWidth 64) false ∧
    (∀ due refresh, x.busy = some (due, refresh) → due ≤ s.clock →
      ∃ t, exec (.tableRefreshEnd s.core n) s = .next t ∧
        t.tableAt s.core n = { x with busy := none, shadow := if refresh then x.active else x.shadow })) ∧
  (∀ (s : State) (d a b : Reg) (tb : BitVec 3) (part : Part) (n : Nat),
    s.teamTable tb.toNat = some n → 64 ≤ (s.reg b).v.toNat → trapsPlainly s Cause.tableIdx = true →
    Traps (.tbw tb (.reg b) part a) s Cause.tableIdx (s.reg b).v ∧
    Traps (.tbr d tb (.reg b) part) s Cause.tableIdx (s.reg b).v) ∧
  (∀ (s : State) (d a : Reg) (tb : BitVec 3) (idx : KIdx) (part : Part),
    s.teamTable tb.toNat = none → trapsPlainly s Cause.tableIdx = true →
    Traps (.tbw tb idx part a) s Cause.tableIdx (tb.setWidth 64) ∧
    Traps (.tbr d tb idx part) s Cause.tableIdx (tb.setWidth 64) ∧
    Traps (.tbcommit d tb) s Cause.tableIdx (tb.setWidth 64) ∧
    Traps (.tbclr tb) s Cause.tableIdx (tb.setWidth 64) ∧
    Traps (.tblook d tb a) s Cause.tableIdx (tb.setWidth 64) ∧
    Traps (.tbgen d tb) s Cause.tableIdx (tb.setWidth 64))

/-- R105: the winner is the matching entry of lowest index among the 64 of the active bank. R104: the bits of the key:
predicates, zero flags of the counters, the cancel, the poison, the low half of A and the tag. -/
def Obligations.KeyAndWinner : Prop :=
  (∀ (t : Table) (k : Word),
    let matchesAt (i : Nat) : Prop :=
      (k ^^^ (t.active.get TEntry.never i).key) &&& (t.active.get TEntry.never i).mask = 0
    (∀ i, t.winner k = some i ↔ i < 64 ∧ matchesAt i ∧ ∀ j, j < i → ¬ matchesAt j) ∧
    (t.winner k = none ↔ ∀ i, i < 64 → ¬ matchesAt i)) ∧
  (∀ (s : State) (a : Reg),
    let k := s.buildKey a
    k.extractLsb' 0 8 = s.me.preds ∧
    k.getLsbD 8 = decide (s.me.c0 = 0) ∧ k.getLsbD 9 = decide (s.me.c1 = 0) ∧
    k.getLsbD 10 = decide (s.me.c2 = 0) ∧ k.getLsbD 11 = decide (s.me.c3 = 0) ∧
    k.getLsbD 12 = s.cancelled s.core s.ctx ∧
    k.getLsbD 13 = ((s.reg a).p || s.me.tp) ∧
    k.extractLsb' 14 2 = 0 ∧
    k.extractLsb' 16 32 = (s.reg a).v.extractLsb' 0 32 ∧
    k.extractLsb' 48 12 = s.me.hdr1.extractLsb' 0 12 ∧
    k.extractLsb' 60 4 = 0)

/-- R107, R108: NEXT, its word being the last of the block: in an aborting gang the thread ends (R302); else a cancel that the
winner does not route ends it; then poison that the winner does not route traps POISON_CONSUMED with the key; then a lookup
without a winner traps NO_MATCH with the key; else the action of the winner is applied: its counter operation, the value for o7,
the end of trap handling, and DONE, or entry to its target block at offset 0 with the successor mask of the block that it leaves; what
the entry itself does, SignatureCheck says. -/
def Obligations.NextResolvesLookup : Prop :=
  (∀ (s : State) (tb : BitVec 3) (a : Reg) (n : Nat),
    let u := s.lastWord
    let k := u.buildKey a
    let x := u.tableAt u.core n
    let routed (b : Nat) : Bool := match x.winner k with
      | some i => (x.active.get TEntry.never i).mask.getLsbD b
      | none => false
    (u.aborting u.core u.ctx = true → exec (.next tb a) s = .next u.endThread) ∧
    (u.aborting u.core u.ctx = false → u.teamTable tb.toNat = some n →
    (k.getLsbD 12 = true → routed 12 = false → exec (.next tb a) s = .next u.endThread) ∧
    ((k.getLsbD 12 = true → routed 12 = true) →
      (k.getLsbD 13 = true → routed 13 = false → trapsPlainly u Cause.poisonConsumed = true →
        ∃ t, exec (.next tb a) s = .next t ∧ Trapped u t Cause.poisonConsumed k) ∧
      ((k.getLsbD 13 = true → routed 13 = true) →
        (x.winner k = none → trapsPlainly u Cause.noMatch = true →
          ∃ t, exec (.next tb a) s = .next t ∧ Trapped u t Cause.noMatch k) ∧
        (∀ i, x.winner k = some i →
          exec (.next tb a) s = .next (u.applyAction (x.active.get TEntry.never i).act)))))) ∧
  (∀ (u : State) (act : Word), act.getLsbD 53 = true →
    let n := (act.extractLsb' 48 2).toNat
    let t := u.applyAction act
    t.me.stat = .done ∧ t.me.ih = false ∧
    (∀ j, j < 4 → t.me.counter j = if j ≠ n then u.me.counter j else match (act.extractLsb' 50 2).toNat with
      | 0 => u.me.counter j
      | 1 => u.me.counter j - 1
      | 2 => (act.extractLsb' 32 16).setWidth 32
      | _ => 0) ∧
    (act.getLsbD 52 = true → u.me.tnt = false → t.reg (Reg.o 7) = ⟨(act.extractLsb' 32 16).setWidth 64, false⟩) ∧
    (act.getLsbD 52 = true → ∀ x ∈ t.me.out, x.dest ≠ Reg.o 7 ∧ x.toQ = false) ∧
    (act.getLsbD 52 = false → ∀ r, t.reg r = u.reg r)) ∧
  (∀ (u : State) (act : Word), act.getLsbD 53 = false →
    let n := (act.extractLsb' 48 2).toNat
    let counters (x : Thread) : Prop := ∀ j, j < 4 → x.counter j =
      if j ≠ n then u.me.counter j else match (act.extractLsb' 50 2).toNat with
      | 0 => u.me.counter j
      | 1 => u.me.counter j - 1
      | 2 => (act.extractLsb' 32 16).setWidth 32
      | _ => 0
    let t := u.applyAction act
    counters t.me ∧ t.me.ih = false ∧ t.me.pcBlk = act.extractLsb' 0 32 ∧ t.me.pcOff = 0 ∧
    ∃ e : State, t = e.enterBlock u.core u.ctx (act.extractLsb' 0 32) (some (u.me.hdr1.extractLsb' 16 16)) true (some (u.core, u.ctx)) ∧
      e.core = u.core ∧ e.ctx = u.ctx ∧ counters e.me ∧ e.me.ih = false ∧ e.me.preds = u.me.preds ∧
      (act.getLsbD 52 = true → u.me.tnt = false → e.reg (Reg.o 7) = ⟨(act.extractLsb' 32 16).setWidth 64, false⟩ ∧
        e.reg 1 = ⟨(act.extractLsb' 32 16).setWidth 64, false⟩) ∧
      (act.getLsbD 52 = true → (∀ x ∈ e.me.out, x.dest ≠ Reg.o 7 ∧ x.toQ = false) ∧ ∀ r, r ≠ Reg.o 7 → r ≠ 1 → e.reg r = u.reg r) ∧
      (act.getLsbD 52 = false → ∀ r, e.reg r = u.reg r))

/-- R319 to R321: the check at the last word of a block, which NEXT, STOP and TRAP make before their effect: the word is folded, and
if the hash is unbroken and differs from the header's, or a mismatch is forced, every register that the block wrote and the thread
poison flag become poisoned, each value kept, and the forced mismatch is used up; else no register and no flag changes. A context
that enters a block by NEXT is tainted, and its poison flag set, if the block's class is not in the mask of the block that it left,
and untainted if it is; any other entry leaves the taint; a block entered at offset 0 starts a fresh hash. R87, R88: a thread that
enters a block out of ISSUED stays there until its next word has been fetched; out of any other state it is READY. -/
def Obligations.SignatureCheck : Prop :=
  (∀ (s : State),
    let x := s.me
    let t := s.lastWord
    let bad : Prop := x.hashOk = true ∧ (x.forceMis = true ∨ foldHash x.hash x.word ≠ x.hdr1.extractLsb' 32 32)
    let wrote (r : Reg) : Prop := r ≠ 0 ∧ x.written.getLsbD r.toNat = true
    exec .stop s = .next t.endThread ∧ (∀ code : Half, exec (.trap code) s = .next (t.raiseTrap Cause.software (code.setWidth 64))) ∧
    t.me.hash = foldHash x.hash x.word ∧ t.me.hashOk = false ∧
    (bad → t.me.tp = true ∧ t.me.forceMis = false ∧
      ∀ r, (t.reg r).v = (s.reg r).v ∧ (wrote r → (t.reg r).p = true) ∧ (¬ wrote r → t.reg r = s.reg r)) ∧
    (¬ bad → t.me.tp = x.tp ∧ t.me.forceMis = x.forceMis ∧ ∀ r, t.reg r = s.reg r) ∧
    (∀ c k, c ≠ s.core ∨ k ≠ s.ctx → ∀ r, (t.thread c k).reg r = (s.thread c k).reg r) ∧ ∀ sp p, t.localMem sp p = s.localMem sp p) ∧
  (∀ (s : State) (c k : Nat) (blk : Half) (leaving : Option (BitVec 16)) (mask : Bool) (by_ : Option (Nat × Nat)) (w0 w1 : Word)
      (u v : State),
    let x := s.thread c k
    let s1 := (s.modThread c k (fun t =>
      { t with pcBlk := blk, pcOff := 0, loaded := false, entering := leaving, hash := hashStart, hashOk := true,
               written := 0, haltAt := none, code := none, stat := if x.stat = .issued then .issued else .ready, held := none,
               wait := if x.stat = .issued then .stall .fetch else .none, age := s.clock })).touchCore c [unitOfThread k] by_
    let t := (s.enterBlock c k blk leaving mask by_).thread c k
    let bad (m : BitVec 16) : Bool := !m.getLsbD (w1.extractLsb' 12 4).toNat
    s1.fetchCode c (s1.tenantOf (s1.thread c k)) (8 * blk.toNat) = .ok (w0, u) →
    u.fetchCode c (u.tenantOf (s1.thread c k)) (8 * blk.toNat + 8) = .ok (w1, v) → w0.extractLsb' 54 10 ≠ 0 →
    t.hash = hashStart ∧ t.hashOk = true ∧ t.written = 0 ∧ t.hdr0 = w0 ∧ t.hdr1 = w1 ∧ t.held = none ∧
    (x.stat = .issued → t.stat = .issued ∧ t.wait = .stall .fetch) ∧ (x.stat ≠ .issued → t.stat = .ready ∧ t.wait = .none) ∧
    (leaving = none → t.tnt = x.tnt ∧ t.tp = x.tp) ∧
    ∀ m, leaving = some m → t.tnt = bad m ∧ t.tp = (x.tp || bad m))

/-! ## Memory accesses (spec/08, spec/14) -/

/-- R163, R164, R166, R257, R262, R267: a load, store or atomic that passes its checks issues its access and retires: the access
has the instruction's kind, space, address, size, destination and data; LDA (but from the counter window and the context space)
and the atomics acquire, STL and the atomics release; no register and no byte of memory changes until the access is performed,
at a later step (log 5). A release waits in ISSUED until the thread's earlier writes and posts are made: at .sys scope until they
are performed; at a narrower scope an earlier write that could be performed is guarded, which makes it precede the release for
every agent that the scope covers. An acquire at a narrower scope is guarded likewise when nothing earlier is outstanding. The
guards are the model's reading of R259 and R265 (log 5). -/
def Obligations.AccessInstructionsIssue : Prop :=
  ∀ (s : State) (d a b : Reg) (sp : Space) (sz : Size) (disp : BitVec 24) (sext : Bool) (scope : Scope) (hint : Hint) (op : AmoOp)
    (ad : Nat) (u : State),
    let n := Size.bytes sz
    let access (kind : AccKind) (dest : Reg) (data : Val) (cmp : Word) (at_ : Scope) (acq rel : Bool) : Access :=
      { kind := kind, space := sp, place := placeOf sp s.core, addr := ad, bytes := n, page := u.pageAt a disp, dest := dest,
        toQ := false, data := data, cmp := cmp, acq := acq, rel := rel, scope := at_, guard := none, taint := false }
    let issues (i : Instr) (x : Access) : Prop := ∃ t, exec i s = .next t ∧ Issues u t x
    let meetsNone (x : Access) : Prop := u.guardedFrom (.thread u.core u.ctx) (·.conflicts x) = none
    let acquires (i : Instr) (x : Access) : Prop := meetsNone x →
      ∃ g, (g = none ∨ (x.acq = true ∧ scope ≠ .sys ∧ g = some scope)) ∧ issues i { x with guard := g } ∧
        (u.me.out = [] → x.acq = true → scope ≠ .sys → g = some scope)
    let releases (i : Instr) (x : Access) : Prop :=
      (u.me.out = [] → u.posting = false → acquires i x) ∧
      (scope = .sys → (u.posting = true ∨ ∃ y ∈ u.me.out, y.writes = true ∧ y.guardedFor .sys = false) →
        exec i s = .next (u.stall .order)) ∧
      (∀ y, u.me.out = [y] → u.posting = false → scope ≠ .sys → y.kind = .store → y.guard = none → y.acq = false →
        y.overlaps x = false → y.space ≠ .cx → meetsNone x → meetsNone y →
        ∃ t g, exec i s = .next t ∧ t.me.goesOn ∧ (∀ r, t.reg r = s.reg r) ∧
          t.me.out = [{ y with guard := some scope, toQ := decide (y.toQ = true ∧ x.dest = 0),
                               dest := if x.dest ≠ 0 ∧ (y.dest = x.dest ∨ y.dest = 1) then 0 else y.dest },
                      { x with toQ := decide (x.dest ≠ 0), taint := s.me.tnt, guard := g }])
    (Accepted s .load sp a disp n false ad u →
      issues (.ld d a sp sz disp sext) (access (.load sext) d Val.zero 0 .sys false false) ∧
      acquires (.lda d a sp sz disp scope sext)
        (access (.load sext) d Val.zero 0 scope (decide (sp ≠ .cx) && !(decide (sp = .gl) && inCwin ad)) false)) ∧
    (Accepted s .store sp a disp n (s.reg b).p ad u →
      issues (.st a b sp sz disp hint) (access .store 0 (s.reg b) 0 .sys false false) ∧
      releases (.stl a b sp sz disp scope) (access .store 0 (s.reg b) 0 scope false true)) ∧
    (Accepted s .atomic sp a disp n (s.reg b).p ad u →
      releases (.amo op d a b sp sz disp scope) (access (.amo op) d (s.reg b) 0 scope true true) ∧
      releases (.amocas d a b sp sz disp scope) (access .cas d (s.reg b) (s.reg d).v scope true true))

/-- R162, R146, R145, R324, R336: the checks of every memory instruction in their order: a poisoned base; an instruction that the
space does not allow; an address that is not a multiple of the size; an address outside a local space, or in the record of
another team's context; a global address of 2^48 or more, one that translation refuses (no page, a page that is not writable, an
unpopulated address of a supervisor thread), a store or an atomic to the counter window, a load from the window of a core outside
the tenant's sub-mesh; a global store or atomic in a replayable superstep; one with poisoned data. Each traps with the effective
address. -/
def Obligations.AccessChecksTrapInOrder : Prop :=
  ∀ (s : State) (d a b : Reg) (sp : Space) (sz : Size) (disp : BitVec 24) (sext : Bool) (hint : Hint) (scope : Scope) (op : AmoOp)
    (q : BitVec 3),
    let ea := (s.reg a).v + disp.signExtend 64
    let each (use : MemUse) (P : Instr → Nat → Bool → Prop) : Prop := match use with
      | .load => P (.ld d a sp sz disp sext) (Size.bytes sz) false ∧ P (.lda d a sp sz disp scope sext) (Size.bytes sz) false
      | .store => P (.st a b sp sz disp hint) (Size.bytes sz) (s.reg b).p ∧ P (.stl a b sp sz disp scope) (Size.bytes sz) (s.reg b).p
      | .atomic => P (.amo op d a b sp sz disp scope) (Size.bytes sz) (s.reg b).p ∧
          P (.amocas d a b sp sz disp scope) (Size.bytes sz) (s.reg b).p
      | .fullEmpty => P (.take d a sp disp) 8 false ∧ P (.fill a b sp disp) 8 false ∧ P (.trytake q d a sp disp) 8 false
    let lawful (use : MemUse) : Bool := match use, sp with
      | .load, _ => true
      | .store, .gl | .store, .sp | .store, .wb | .store, .ab => true
      | .store, _ => false
      | .atomic, .gl | .atomic, .sp => true
      | .atomic, _ => false
      | .fullEmpty, .sp => true
      | .fullEmpty, _ => false
    let traps (i : Instr) (u : State) (cause : BitVec 8) : Prop :=
      trapsPlainly u cause = true → ∃ t, exec i s = .next t ∧ Trapped u t cause ea
    ∀ use, each use (fun i n data =>
      ((s.reg a).p = true → traps i s Cause.poisonConsumed) ∧
      ((s.reg a).p = false →
        (lawful use = false → traps i s Cause.access) ∧
        (lawful use = true → ea.toNat % n ≠ 0 → traps i s Cause.misaligned) ∧
        (lawful use = true → ea.toNat % n = 0 →
          (sp ≠ .gl → spaceSize sp < ea.toNat + n → traps i s Cause.range) ∧
          (sp = .cx → ea.toNat + n ≤ spaceSize sp → (s.thread s.core (ea.toNat / 1024)).owner ≠ s.me.owner →
            traps i s Cause.access) ∧
          (sp = .gl → 2 ^ 48 ≤ ea.toNat → traps i s Cause.access) ∧
          (sp = .gl → ea.toNat < 2 ^ 48 →
            let rights : Rights := if use = .load then .read else .write
            (∀ cause, s.coreTranslate s.core (s.tenantOf s.me) ea.toNat rights = .error cause → traps i s cause) ∧
            (s.tenantOf s.me = none → s.populated ea.toNat = false → traps i s Cause.access) ∧
            (∀ n, s.tenantOf s.me = some n → tlbFind s.myCore.tlb n ea.toNat = none →
              (s.walk n ea.toNat = none → traps i s Cause.pageFault) ∧
              (∀ h, s.walk n ea.toNat = some h →
                ((h.entry.extractLsb' 4 2).toNat = 3 → traps i s Cause.pageFault) ∧
                (use ≠ .load → (h.entry.extractLsb' 4 2).toNat = 2 → traps i s Cause.pageFault) ∧
                (use ≠ .load → (h.entry.extractLsb' 4 2).toNat < 2 → h.entry.getLsbD 2 = false → traps i s Cause.access))) ∧
            (∀ pa u, s.coreTranslate s.core (s.tenantOf s.me) ea.toNat rights = .ok (pa, u) →
              (inCwin pa = true → use ≠ .load → traps i s Cause.access) ∧
              (inCwin pa = true → use = .load → u.inSubmesh (s.tenantOf s.me) ((pa - Config.cwinBase) / 2048) = false →
                traps i s Cause.tenant) ∧
              (inCwin pa = false → use ≠ .load → u.inReplay = true → traps i u Cause.replayStore) ∧
              (inCwin pa = false → use ≠ .load → u.inReplay = false → data = true → traps i u Cause.poisonConsumed))))))

/-- R164, R158: when a store is performed, the bytes from its address on hold its data, every other byte of that memory and
every other memory is as before, and the word's poison is set by poisoned data, cleared by clean data of 8 bytes and kept
otherwise; no register changes. No other thread has a guarded access to its bytes here:
FencesScopesAndPrefetch says what happens to one. -/
def Obligations.StoreChangesOnlyItsBytes : Prop :=
  ∀ (s : State) (c k i : Nat) (x : Access), (s.thread c k).out[i]? = some x → x.kind = .store → x.space ≠ .cx →
    (x.space = .gl → inCwin x.addr = false) → x.ready ((s.thread c k).out.take i) = true →
    s.guardedFrom (.thread c k) (·.conflicts x) = none →
    ∃ t, exec (.accessPerformed c k i) s = .next t ∧
      (∀ b, (t.localMem x.space x.place).byte b =
        if x.addr ≤ b ∧ b < x.addr + x.bytes then BitVec.ofNat 8 (x.data.v.toNat % 2 ^ (8 * x.bytes) / 256 ^ (b - x.addr))
        else (s.localMem x.space x.place).byte b) ∧
      (∀ b, (t.localMem x.space x.place).poison b =
        if b / 8 = x.addr / 8 then x.data.p || ((s.localMem x.space x.place).poison b && decide (x.bytes ≠ 8))
        else (s.localMem x.space x.place).poison b) ∧
      (∀ sp p, sp ≠ x.space ∨ (sp ≠ .gl ∧ p ≠ x.place) → t.localMem sp p = s.localMem sp p) ∧
      ∀ r, (t.thread c k).reg r = (s.thread c k).reg r

/-- R163, R261, R158, R161, R97: when a load is performed, its destination holds the bytes zero- or sign-extended with the poison
of their word: of a local memory or of global memory; of a counter, whose upper half reads 0, in the counter window; of a word of
a context record, where g registers stand first, each with its value or, where the register cache has written it back, with that
of the record in memory (R96); and of the thread's own pending store of exactly those bytes where one stands
latest before it. q takes the value unless a later instruction has written it (R47); no other register and no byte of any memory
changes. -/
def Obligations.LoadDeliversMemory : Prop :=
  ∀ (s : State) (c k i : Nat) (x : Access) (sign : Bool), (s.thread c k).out[i]? = some x → x.kind = .load sign → 0 < x.bytes →
    x.ready ((s.thread c k).out.take i) = true → s.guardedFrom (.thread c k) (·.conflicts x) = none →
    let m := s.localMem x.space x.place
    let delivers (v : Nat) (psn : Bool) : Prop :=
      ∃ t, exec (.accessPerformed c k i) s = .next t ∧ (∀ sp p, t.localMem sp p = s.localMem sp p) ∧
        (let p := psn || x.taint
         let w : Word := if sign then BitVec.ofInt 64 (signedNat (8 * x.bytes) v) else BitVec.ofNat 64 v
         (x.dest ≠ 0 → (t.thread c k).reg x.dest = ⟨w, p⟩) ∧ (x.toQ = true → (t.thread c k).reg 1 = ⟨w, p⟩) ∧
         (x.toQ = false → x.dest ≠ 1 → (t.thread c k).reg 1 = (s.thread c k).reg 1) ∧
         ∀ r, r ≠ x.dest → r ≠ 1 → (t.thread c k).reg r = (s.thread c k).reg r)
    let outside : Prop := x.space = .gl → x.addr + x.bytes ≤ Config.cwinBase ∨ Config.cwinEnd ≤ x.addr
    ((∀ y ∈ (s.thread c k).out.take i, y.overlaps x = false) →
      (x.space ≠ .cx → outside → delivers (m.read x.addr x.bytes) (m.poison x.addr)) ∧
      (∀ core idx, x.space = .gl → x.addr = Config.cwinBase + 2048 * core + 8 * idx → core < 16384 → idx < 256 → x.bytes = 8 →
        (∀ p ∈ s.posts, p.by_ = some (c, k) → p.core = core → p.idx ≠ idx) →
        delivers ((s.coreAt core).counters.get 0 idx).toNat false) ∧
      (∀ j w, x.space = .cx → x.addr = 1024 * j + 8 * w → w < 128 → x.bytes = 8 →
        let t := s.cachedThread x.place j
        let e := 64 * j + w
        delivers (t.recordWord w).toNat (t.recordPoison w) ∧
        (w < 54 → t.recordWord w = (t.raw (w + 10)).v ∧ t.recordPoison w = (t.raw (w + 10)).p ∧
          (¬ e ∈ (s.coreAt x.place).evicted → t.raw (w + 10) = (s.thread x.place j).raw (w + 10)) ∧
          ∀ pa, e ∈ (s.coreAt x.place).evicted → s.recordOf x.place j = some pa →
            t.raw (w + 10) = ⟨s.physWord (pa + 8 * w), (s.physWord (pa + 440)).getLsbD w⟩))) ∧
    (∀ y, x.forward ((s.thread c k).out.take i) = some y → x.space ≠ .cx → outside →
      delivers (y.data.v.toNat % 2 ^ (8 * x.bytes)) (y.data.p || (m.poison x.addr && decide (x.bytes ≠ 8))))

/-- R166, R159: when an AMO on the scratchpad or on global memory is performed and its word has no poison, its destination holds
the old value and the word the new one, by the nine operations on values of its size; the poison of the destination is the
word's after the write. A poisoned word keeps its value. An AMOCAS writes only where the old value is the expected one: that it
then leaves the word and its poison as they were, also with a poisoned operand, is the model's choice (log 15). R152, R165: TAKE
and TRYTAKE of a full scratchpad word that no FILL waits for give its value and leave it empty; TAKE of an empty word and FILL
of a full one park; TRYTAKE of an empty word gives 0 and clears its predicate; FILL of an empty word that no TAKE waits for
writes it and leaves it full. -/
def Obligations.AtomicsAndFullEmptyWords : Prop :=
  (∀ (op : AmoOp) (n : Nat) (x y : BitVec n), 0 < n → amoValue op n x.toNat y.toNat = BitVec.toNat (match op with
      | .add => x + y
      | .and => x &&& y
      | .or => x ||| y
      | .xor => x ^^^ y
      | .min => if x.toInt ≤ y.toInt then x else y
      | .max => if x.toInt ≤ y.toInt then y else x
      | .minu => if x.toNat ≤ y.toNat then x else y
      | .maxu => if x.toNat ≤ y.toNat then y else x
      | .swap => y)) ∧
  (∀ (s : State) (c k i : Nat) (x : Access), (s.thread c k).out[i]? = some x → x.space = .sp ∨ x.space = .gl → 0 < x.bytes →
    (x.space = .gl → x.addr + x.bytes ≤ Config.cwinBase ∨ Config.cwinEnd ≤ x.addr) →
    x.ready ((s.thread c k).out.take i) = true → s.guardedFrom (.thread c k) (·.conflicts x) = none →
    let m := s.localMem x.space x.place
    let old := m.read x.addr x.bytes
    let data := x.data.v.toNat % 2 ^ (8 * x.bytes)
    let leaves (m' : Memory) : Prop :=
      ∃ t, exec (.accessPerformed c k i) s = .next t ∧ t.localMem x.space x.place = m' ∧
        (x.dest ≠ 0 → (t.thread c k).reg x.dest = ⟨BitVec.ofNat 64 old, m'.poison x.addr || x.taint⟩) ∧
        (x.toQ = true → (t.thread c k).reg 1 = ⟨BitVec.ofNat 64 old, m'.poison x.addr || x.taint⟩) ∧
        (∀ r, r ≠ x.dest → r ≠ 1 → (t.thread c k).reg r = (s.thread c k).reg r) ∧
        ∀ sp p, sp ≠ x.space ∨ (sp ≠ .gl ∧ p ≠ x.place) → t.localMem sp p = s.localMem sp p
    (∀ op, x.kind = .amo op →
      (m.poison x.addr = false → leaves (m.store x.addr x.bytes (amoValue op (8 * x.bytes) old data) x.data.p)) ∧
      (m.poison x.addr = true → leaves m)) ∧
    (x.kind = .cas →
      (m.poison x.addr = false → old = x.cmp.toNat % 2 ^ (8 * x.bytes) → leaves (m.store x.addr x.bytes data x.data.p)) ∧
      (m.poison x.addr = true ∨ old ≠ x.cmp.toNat % 2 ^ (8 * x.bytes) → leaves m))) ∧
  (∀ (s : State) (d a b : Reg) (n : BitVec 3) (disp : BitVec 24) (ad : Nat),
    let span := spanOf s.core
    let m := (s.spanAt span).sp
    let w : Word := BitVec.ofNat 64 (m.read ad 8)
    Accepted s .fullEmpty .sp a disp 8 false ad s → (s.spanAt span).overflow = [] → s.mustFollow .sp ad 8 = false →
    s.guardedFrom (.thread s.core s.ctx) (·.overlaps (Access.plain .store .sp s.core ad (0, 0) 8 0 Val.zero)) = none →
    let goesOn : Prop := s.aborting s.core s.ctx = false ∧ s.cancelled s.core s.ctx = false
    (s.isFull span ad = true → s.oldestSlot span ad true = none →
      (∃ t, exec (.take d a .sp disp) s = .next t ∧ t.isFull span ad = false ∧ (t.spanAt span).sp = m ∧
        (d ≠ 0 → (t.reg d).v = w)) ∧
      ∃ t, exec (.trytake n d a .sp disp) s = .next t ∧ t.isFull span ad = false ∧ (t.spanAt span).sp = m ∧
        (d ≠ 0 → (t.reg d).v = w) ∧ t.me.preds.getLsbD n.toNat = true) ∧
    (s.isFull span ad = false →
      (∃ q x, (∀ i, i < 8 → q.getLsbD i = if i = n.toNat then false else s.me.preds.getLsbD i) ∧ x = { s.me with preds := q } ∧
        ∃ t, exec (.trytake n d a .sp disp) s = .next t ∧ Result s t x d ⟨0, false⟩) ∧
      (goesOn → ∃ t, exec (.take d a .sp disp) s = .next t ∧ t.me.stat = .parked ∧ t.me.wait = .take d ad ∧
        (t.spanAt span).sp = m ∧ ∀ r, t.reg r = s.reg r)) ∧
    (s.me.out = [] → s.posting = false →
      (s.isFull span ad = false → s.oldestSlot span ad false = none →
        ∃ t, exec (.fill a b .sp disp) s = .next t ∧ t.isFull span ad = true ∧
          (t.spanAt span).sp = m.store ad 8 (s.reg b).v.toNat (s.reg b).p ∧ ∀ r, t.reg r = s.reg r) ∧
      (s.isFull span ad = true → goesOn →
        ∃ t, exec (.fill a b .sp disp) s = .next t ∧ t.me.stat = .parked ∧ t.me.wait = .fill ad (s.reg b) ∧
          (t.spanAt span).sp = m ∧ ∀ r, t.reg r = s.reg r)))

/-- R167, R257 to R259, R265, R168: FENCE completes once no earlier access of a kind that its set puts first is outstanding, and
until then waits, at .sys scope; a post under way counts as a write. At a narrower scope an access that could be performed is
guarded instead, and a guarded access is performed before any access of an agent that the scope covers meets its bytes (the
model's reading, log 5). The scopes cover: .th the thread alone, .core the threads of a core, .span those of a span, .gang
those of the gang's rectangle, .dev every thread, .sys the host as well. PREF with a clean base changes nothing, and with a
poisoned one traps. -/
def Obligations.FencesScopesAndPrefetch : Prop :=
  (∀ (s : State) (scope : Scope) (set : BitVec 4) (a : Reg) (disp : BitVec 24) (core : Bool),
    let w := set.getLsbD 2 || set.getLsbD 3
    let held (x : Access) : Bool := ((set.getLsbD 0 || set.getLsbD 1) && x.reads) || (w && x.writes)
    (s.me.out.any held = false → (w = true → s.posting = false) → Makes (.fence scope set) s s.me) ∧
    (scope = .sys → (∃ x ∈ s.me.out, held x = true ∧ x.guardedFor .sys = false) ∨ (w = true ∧ s.posting = true) →
      exec (.fence scope set) s = .next (s.stall .order)) ∧
    (∀ x, scope ≠ .sys → s.me.out = [x] → held x = true → x.space ≠ .cx → x.guard = none →
      s.guardedFrom (.thread s.core s.ctx) (·.conflicts x) = none → s.posting = false →
      Makes (.fence scope set) s { s.me with out := [{ x with guard := some scope }] }) ∧
    ((s.reg a).p = false → Makes (.pref a disp core) s s.me) ∧
    ((s.reg a).p = true → trapsPlainly s Cause.poisonConsumed = true →
      Traps (.pref a disp core) s Cause.poisonConsumed ((s.reg a).v + disp.signExtend 64))) ∧
  (∀ (s : State) (c k c' k' : Nat), (c, k) ≠ (c', k') →
    let both (scope : Scope) : Bool := s.coversBoth scope (.thread c k) (.thread c' k')
    both .th = false ∧ both .core = decide (c = c') ∧ both .span = decide (spanOf c = spanOf c') ∧
    (∀ g g', s.gangOf (s.thread c k) = some g → s.gangOf (s.thread c' k') = some g' →
      both .gang = (decide (spanOf c = spanOf c') || (g.holdsSpan (spanOf c') && g'.holdsSpan (spanOf c)))) ∧
    both .dev = true ∧ both .sys = true ∧
    s.coversBoth .dev (.thread c k) .host = false ∧ s.coversBoth .sys (.thread c k) .host = true) ∧
  (∀ (s : State) (c k i c' k' : Nat) (x y : Access), (s.thread c k).out[i]? = some x →
    x.ready ((s.thread c k).out.take i) = true → (x.space = .gl → inCwin x.addr = false) →
    s.guardedFrom (.thread c k) (·.conflicts x) = some (c', k', 0) → (s.thread c' k').out[0]? = some y →
    s.guardedFrom (.thread c' k') (·.conflicts y) = none →
    (s.performAt c' k' 0).guardedFrom (.thread c k) (·.conflicts x) = none →
    exec (.accessPerformed c k i) s = exec (.accessPerformed c k i) (s.performAt c' k' 0))

/-! ## Rings and vectors (spec/09) -/

/-- R169, R172: RING binds a handle to a valid descriptor, or unbinds it with 0, and both pointers become 0; RADV moves the
producer pointer and RREL the consumer pointer by k, modulo 2^32; each waits until nothing holds it back (RADV and RREL are releases), and none changes
another handle, a register or a memory. R171: the ring waits of the core are tested as the handle moves, so that none whose streams
now all meet their need is left waiting. A bad descriptor, an unbound handle and a count without room trap. RSTAT reads the
handle. -/
def Obligations.RingInstructions : Prop :=
  ∀ (s : State) (h : BitVec 4) (d a b : Reg) (n : BitVec 16) (desc : Bool),
    let r := s.ringAt h.toNat
    let k := n.toNat + (s.reg b).v.toNat
    let w := (s.reg a).v
    let becomes (i : Instr) (x : Ring) : Prop := Reaches i s (fun t =>
      t.ringAt h.toNat = x ∧ (∀ j, j ≠ h.toNat → t.ringAt j = s.ringAt j) ∧ SameData s t ∧ t.me.goesOn ∧
      ∀ q, t.ringWaiter s.core q = none)
    Gives (.rstat d h desc) s d (if desc then r.desc else r.c ++ r.p) false ∧
    ((s.reg a).p = false → w ≠ 0 → (Sys2Proof.Machine.Ring.mk w 0 0).valid = false → trapsPlainly s Cause.ringConfig = true →
      Traps (.ring h a) s Cause.ringConfig w) ∧
    ((s.reg b).p = false → r.desc = 0 → trapsPlainly s Cause.ringConfig = true →
      Traps (.radv h n b) s Cause.ringConfig (h.setWidth 64) ∧ Traps (.rrel h n b) s Cause.ringConfig (h.setWidth 64)) ∧
    ((s.reg b).p = false → r.desc ≠ 0 → trapsPlainly s Cause.range = true →
      (r.slots - r.filled < k → Traps (.radv h n b) s Cause.range (BitVec.ofNat 64 k)) ∧
      (r.filled < k → Traps (.rrel h n b) s Cause.range (BitVec.ofNat 64 k))) ∧
    (s.me.owner ≠ .none →
      ((s.reg a).p = false → w = 0 ∨ (Sys2Proof.Machine.Ring.mk w 0 0).valid = true → s.ringBusy h.toNat = false → becomes (.ring h a) ⟨w, 0, 0⟩) ∧
      ((s.reg b).p = false → r.desc ≠ 0 → s.me.out = [] → s.posting = false →
        (k ≤ r.slots - r.filled → becomes (.radv h n b) { r with p := r.p + BitVec.ofNat 32 k }) ∧
        (k ≤ r.filled → becomes (.rrel h n b) { r with c := r.c + BitVec.ofNat 32 k })))

/-- R171, R177, R178: a vector instruction that passes its checks starts when every stream it names has the elements or the room
it needs: it joins the engine's instructions with the handles as they stand, and its thread stays in ISSUED; until then it parks
with reason RING, and RING_WAIT_START starts it while its gang may issue, the lowest s.tid of the core first (R174). No register and
no memory changes before it runs. -/
def Obligations.VectorInstructionsStart : Prop :=
  ∀ (s : State) (d a b : Reg) (ho ha hb hc : BitVec 4) (n : BitVec 16) (rm : Rnd) (cond : FCond) (op : BitOp) (add sp : Bool),
    let starts (i : Instr) : Prop :=
      let f := vform i
      let m := State.vcount s.me f
      let named := f.streams m
      let met : Bool := named.all (fun x => let r := s.ringAt x.h
        decide (r.slotsFor x.m ≤ if x.out then r.slots - r.filled else r.filled))
      (∀ r, f.base = some r ∨ f.count = some r → (s.reg r).p = false) →
      (∀ x ∈ named, (s.ringAt x.h).desc ≠ 0 ∧ x.rule.ok (s.ringAt x.h).type = true ∧
        (s.ringAt x.h).slotsFor x.m ≤ (s.ringAt x.h).slots) →
      m ≤ 65535 → (f.base ≠ none → f.sp = true → m ≤ 4096) →
      (∀ r x, f.base = some r → named.head? = some x → (s.reg r).v.toNat % (s.ringAt x.h).size = 0) →
      (met = true → Reaches i s (fun t => ∃ job, t.myCore.vec = s.myCore.vec ++ [job] ∧ job.ins = i ∧ job.ctx = s.ctx ∧ job.n = m ∧
        (∀ x ∈ named, job.rings.get Ring.unbound x.h = s.ringAt x.h) ∧ t.me.stat = .issued ∧ SameData s t)) ∧
      (met = false → s.pendingStatus s.core s.ctx = none →
        Reaches i s (fun t => t.me.stat = .parked ∧ t.me.wait = .ring ∧ t.myCore.vec = s.myCore.vec ∧ SameData s t))
    starts (.vadd ho ha hb n b rm) ∧ starts (.vsub ho ha hb n b rm) ∧ starts (.vmul ho ha hb n b rm) ∧
    starts (.vfma ho ha hb hc n b rm) ∧ starts (.vmax ho ha hb n b rm) ∧ starts (.vmin ho ha hb n b rm) ∧
    starts (.vexp2 ho ha n b rm) ∧ starts (.vrcp ho ha n b rm) ∧ starts (.vrsq ho ha n b rm) ∧ starts (.vcvt ho ha n b rm) ∧
    starts (.vscale ho ha n b rm) ∧ starts (.vredsum d ha n b rm) ∧ starts (.vredmax d ha n b) ∧
    starts (.vcmp d cond ho ha hb a n b) ∧ starts (.vsel ho ha hb hc n b rm) ∧ starts (.vbits op ho ha hb a n b rm) ∧
    starts (.vgath ho ha a sp n b) ∧ starts (.vscat add ha hb a sp n b rm) ∧ starts (.vfillc add ho a n b rm) ∧
    starts (.viota ho a b n rm) ∧
    ∀ c k i, (s.thread c k).stat = .parked → (s.thread c k).wait = .ring → (s.thread c k).held = some i →
      let m := State.vcount (s.thread c k) (vform i)
      ((vform i).streams m).all (State.streamReady (s.ringsOf c k)) = true → s.mayIssue (s.thread c k) = true →
      (∀ j, j < k → s.ringWaiter c j = none) →
      Reaches (.ringWaitStart c k) s (fun t => ∃ job, (t.coreAt c).vec = (s.coreAt c).vec ++ [job] ∧ job.ins = i ∧ job.ctx = k ∧
        job.n = m ∧ (t.thread c k).stat = .issued ∧ SameData s t)

/-- R175 to R178, R78: what VECTOR_COMPLETE writes into an output stream that its ring has room for, its inputs standing in other
words: element by element the value rounded once to the output's type, every other byte as it was; the poison of a word whose
elements are all written is that of their operands, and one written in part keeps its own beside it; the flags are ORed into
s.rmode, the thread is READY and no register changes but D of VCMP, which counts the bits set. VGATH copies table elements and
VSCAT stores or adds into the table in ascending order; an element outside the table's space ends them with RANGE and the
address, the earlier ones done. A reduction gives its result in D and changes no memory. (A scale beyond 400 either way acts
as 400: every type rounds both alike.) R262, R263: while the thread has an outstanding access to a byte that the instruction writes,
it does not complete. That all of it happens in the one step VECTOR_COMPLETE is the model's choice (log 6). Which elements the poison
of an element of VSEL comes from (the selected one and its word of the bitmap alone), and the type and the saturation that VSCAT adds
with (those of the handle of its values), are the model's reading (log 22). -/
def Obligations.VectorResults : Prop :=
  ∀ (s : State) (c : Nat) (job : VecJob) (rest : List VecJob) (d a b : Reg) (ho ha hb hc : BitVec 4) (n : BitVec 16) (rm : Rnd)
    (flag sp : Bool) (cond : FCond) (op : BitOp),
    (s.coreAt c).vec = job :: rest →
    let k := job.ctx
    let ring (h : BitVec 4) : Ring := job.rings.get Ring.unbound h.toNat
    (∀ h map, (vform job.ins).out = some (h, map) → (s.vectorMeets c job = true ↔
      ∃ x ∈ (s.thread c k).out, x.space = (ring h).space ∧ x.place = placeOf (ring h).space c ∧
        ∃ j, j < (if map then (job.n + 31) / 32 else job.n) ∧
          x.addr < (ring h).elemAddr (ring h).p j + (ring h).size ∧ (ring h).elemAddr (ring h).p j < x.addr + x.bytes)) ∧
    (s.vectorMeets c job = true → exec (.vectorComplete c) s = .next s) ∧
    (s.vectorMeets c job = false →
    let val (h : BitVec 4) (j : Nat) : Sys2Proof.Machine.Num := s.vval c (ring h) j
    let psn (h : BitVec 4) (j : Nat) : Bool := (s.velem c (ring h) j).2
    let mask (h : BitVec 4) (j : Nat) : Bool := (s.velem c (ring h) (j / 32)).1.testBit (j % 32)
    let m := roundingOf (s.thread c k).rmode rm
    let scal := job.a.p || job.b.p
    let o := ring ho
    let place := placeOf o.space c
    let old := s.localMem o.space place
    let at_ (j : Nat) : Nat := o.elemAddr o.p j
    let all (count : Nat) (f : Nat → Flags) : Flags := (List.range count).foldl (fun x j => x ||| f j) 0
    let ends (t : State) (stop : Option Word) (flags : Flags) (d : Reg) (v : Option Word) : Prop :=
      (t.coreAt c).vec = rest ∧ (t.thread c k).rmode = (s.thread c k).rmode ||| (flags.setWidth 64 <<< 8) ∧
      (∀ r, (v = none ∨ (r ≠ d ∧ r ≠ 1)) → (t.thread c k).reg r = (s.thread c k).reg r) ∧
      (∀ w, v = some w → d ≠ 0 → ((t.thread c k).reg d).v = w) ∧
      (stop = none → (t.thread c k).goesOn) ∧
      (∀ w, stop = some w → trapsPlainlyAt s c k Cause.range = true →
        (t.thread c k).stat = .trapped ∧ (t.thread c k).cause = Cause.range ∧ (t.thread c k).tval = w)
    let apart (r : Ring) (words : Nat) (count : Nat) : Prop := r.valid = true ∧
      (r.space ≠ o.space ∨ ∀ i, i < words → ∀ j, j < count → r.elemAddr r.c i / 8 ≠ at_ j / 8)
    let fills (count : Nat) (y : Nat → Nat) (p : Nat → Bool) (flags : Flags) (stop : Option Word) (d : Reg) (v : Option Word) : Prop :=
      o.valid = true → count ≤ o.slots * o.elems →
      (∀ x ∈ (vform job.ins).streams job.n, x.out = false → apart (job.rings.get Ring.unbound x.h) x.m count) →
      Reaches (.vectorComplete c) s (fun t => ends t stop flags d v ∧
        (∀ i, (t.localMem o.space place).byte i =
          match (List.range count).find? (fun j => decide (at_ j ≤ i) && decide (i < at_ j + o.size)) with
          | some j => BitVec.ofNat 8 (y j / 256 ^ (i - at_ j))
          | none => old.byte i) ∧
        (∀ i, let joined := (List.range count).any (fun j => decide (at_ j / 8 = i / 8) && p j)
          (t.localMem o.space place).poison i =
            if (List.range count).any (fun j => decide (at_ j / 8 = i / 8) && decide ((at_ j + o.size) % 8 = 0)) then joined
            else old.poison i || joined) ∧
        ∀ sp q, sp ≠ o.space ∨ q ≠ place → t.localMem sp q = s.localMem sp q)
    let writes (i : Instr) (v : Nat → Sys2Proof.Machine.Num) (p : Nat → Bool) (f : Nat → Flags) : Prop := job.ins = i →
      let y (j : Nat) := fmtRound o.type o.fsat m (v j)
      fills job.n (fun j => (y j).1) p (all job.n (fun j => f j ||| (y j).2)) none 0 none
    let function (f : Nat → Nat × Flags) (x : Sys2Proof.Machine.Num) : Sys2Proof.Machine.Num × Flags :=
      let e := toF32 .rne x
      (f32 (f e.1).1, e.2 ||| (f e.1).2)
    let applies (i : Instr) (f : Nat → Nat × Flags) : Prop :=
      writes i (fun j => (function f (val ha j)).1) (fun j => psn ha j || scal) (fun j => (function f (val ha j)).2)
    let reduces (i : Instr) (r : Nat × Flags) : Prop := job.ins = i →
      Reaches (.vectorComplete c) s (fun t => (∀ sp q, t.localMem sp q = s.localMem sp q) ∧ (t.thread c k).goesOn ∧
        (d ≠ 0 → ((t.thread c k).reg d).v = BitVec.ofNat 64 r.1) ∧
        (t.thread c k).rmode = (s.thread c k).rmode ||| (r.2.setWidth 64 <<< 8))
    let values : List Sys2Proof.Machine.Num := (List.range job.n).map (s.vval c (ring ha))
    let none_ (_ : Nat) : Flags := 0
    let both (j : Nat) : Bool := psn ha j || psn hb j
    let scalar (v : Word) : Sys2Proof.Machine.Num :=
      if fmtIsInt (ring ha).type then Sys2Proof.Machine.Num.ofInt v.toInt else f32 (v.extractLsb' 0 32).toNat
    let tsp : Space := if sp then .sp else .ab
    let table := s.localMem tsp (placeOf tsp c)
    -- the address of the table element that an index stream names
    let entry (h : BitVec 4) (size j : Nat) : Int :=
      job.a.v.toNat + signedNat (8 * (ring h).size) (s.velem c (ring h) j).1 * size
    let inside (h : BitVec 4) (size j : Nat) : Prop := 0 ≤ entry h size j ∧ entry h size j + size ≤ spaceSize tsp
    writes (.vadd ho ha hb n b rm) (fun j => (val ha j).add m (val hb j)) both none_ ∧
    writes (.vsub ho ha hb n b rm) (fun j => (val ha j).add m (val hb j).negate) both none_ ∧
    writes (.vmul ho ha hb n b rm) (fun j => (val ha j).mul (val hb j)) both none_ ∧
    writes (.vfma ho ha hb hc n b rm) (fun j => ((val ha j).mul (val hb j)).add m (val hc j)) (fun j => both j || psn hc j) none_ ∧
    writes (.vmax ho ha hb n b rm) (fun j => numMinMax true (val ha j) (val hb j)) both none_ ∧
    writes (.vmin ho ha hb n b rm) (fun j => numMinMax false (val ha j) (val hb j)) both none_ ∧
    writes (.vcvt ho ha n b rm) (val ha) (fun j => psn ha j || scal) none_ ∧
    writes (.vscale ho ha n b rm) (fun j => (val ha j).scale (max (-400) (min job.b.v.toInt 400))) (fun j => psn ha j || scal) none_ ∧
    applies (.vexp2 ho ha n b rm) fpExp2 ∧ applies (.vrcp ho ha n b rm) fpRcp ∧ applies (.vrsq ho ha n b rm) fpRsq ∧
    writes (.vfillc flag ho a n b rm)
      (fun _ => if flag then Sys2Proof.Machine.Num.ofInt job.a.v.toInt else f32 (job.a.v.extractLsb' 0 32).toNat) (fun _ => scal) none_ ∧
    writes (.viota ho a b n rm) (fun j => Sys2Proof.Machine.Num.ofInt (job.a.v.toInt + j * job.b.v.toInt)) (fun _ => scal) none_ ∧
    writes (.vsel ho ha hb hc n b rm) (fun j => if mask hc j then val ha j else val hb j)
      (fun j => (if mask hc j then psn ha j else psn hb j) || psn hc (j / 32)) none_ ∧
    writes (.vbits op ho ha hb a n b rm)
      (fun j => if mask hb j then (match op with
        | .set => scalar job.a.v
        | .add => (val ha j).add m (scalar job.a.v)
        | .mul => (val ha j).mul (scalar job.a.v)
        | .max => numMinMax true (val ha j) (scalar job.a.v)
        | .min => numMinMax false (val ha j) (scalar job.a.v)) else val ha j)
      (fun j => psn ha j || psn hb (j / 32) || scal) none_ ∧
    (job.ins = .vcmp d cond ho ha hb a n b →
      let other (j : Nat) : Sys2Proof.Machine.Num × Bool := if a = 0 then (val hb j, psn hb j) else (scalar job.a.v, job.a.p)
      let r (j : Nat) : Bool × Flags := fpCond cond (val ha j) (other j).1
      let bits (e : Nat) : List Nat := (List.range 32).filter (fun i => decide (32 * e + i < job.n))
      fills ((job.n + 31) / 32) (fun e => (bits e).foldl (fun v i => if (r (32 * e + i)).1 then v + 2 ^ i else v) 0)
        (fun e => (bits e).any (fun i => psn ha (32 * e + i) || (other (32 * e + i)).2)) (all job.n (fun j => (r j).2)) none d
        (some (BitVec.ofNat 64 ((List.range job.n).countP (fun j => (r j).1))))) ∧
    (∀ count, job.ins = .vgath ho ha a sp n b → (∀ j, j < count → inside ha o.size j) → job.a.v.toNat % o.size = 0 →
      (tsp ≠ o.space ∨ ∀ i, i < count → ∀ j, j < count → (entry ha o.size i).toNat / 8 ≠ at_ j / 8) →
      let gives (stop : Option Word) : Prop :=
        fills count (fun j => table.read (entry ha o.size j).toNat o.size)
          (fun j => table.poison (entry ha o.size j).toNat || psn ha j) 0 stop 0 none
      (count = job.n → gives none) ∧
      (count < job.n → ¬ inside ha o.size count → gives (some (BitVec.ofInt 64 (entry ha o.size count))))) ∧
    (∀ count, job.ins = .vscat flag ha hb a sp n b rm →
      let v := ring ha
      (∀ j, j < count → inside hb v.size j) → job.a.v.toNat % v.size = 0 →
      (∀ h, h = ha ∨ h = hb → (ring h).valid = true ∧ ((ring h).space ≠ tsp ∨
        ∀ i, i < job.n → ∀ j, j < count → (ring h).elemAddr (ring h).c i / 8 ≠ (entry hb v.size j).toNat / 8)) →
      let done : Memory × Flags := (List.range count).foldl (fun r j =>
        let e := (entry hb v.size j).toNat
        let y : Nat × Flags := if flag then
          fmtRound v.type v.fsat m ((fmtValue v.type (r.1.read e v.size)).add m (val ha j)) else ((s.velem c v j).1, 0)
        (r.1.store e v.size y.1 (psn ha j || psn hb j), r.2 ||| y.2)) (table, 0)
      let gives (stop : Option Word) : Prop := Reaches (.vectorComplete c) s (fun t => ends t stop done.2 0 none ∧
        t.localMem tsp (placeOf tsp c) = done.1 ∧ ∀ sp q, sp ≠ tsp ∨ q ≠ placeOf tsp c → t.localMem sp q = s.localMem sp q)
      (count = job.n → gives none) ∧
      (count < job.n → ¬ inside hb v.size count → gives (some (BitVec.ofInt 64 (entry hb v.size count))))) ∧
    reduces (.vredsum d ha n b rm) (reduce false m values) ∧
    reduces (.vredmax d ha n b) (reduce true (roundingOf (s.thread c k).rmode .mode) values))

/-! ## The matrix unit (spec/10) -/

/-- R180, R181, R182, R184, R195: a matrix instruction that passes its checks joins the sequence: one of the array path when
fewer than four are in flight, a writer of a tile when the accepted version equals its own, which then advances; MFMT, BLOAD,
MMA, MMAS and AZERO retire at acceptance; BROT and MMA2 stay in ISSUED for their partners, epilogue instructions for their
completion. A version behind the accepted one traps RANGE with the accepted one, also where an MMA2 is pending on the tile (of
MMA2 itself, R189: others that have accepted the same group operation then retire with D = 1); one ahead of it, or a pending
MMA2, makes it wait. AVER and AWAITV act at once. R181, R180: an instruction that waits in ISSUED for a version or for the limit of the
array path is tried again by MATRIX_ACCEPT, as if it issued. -/
def Obligations.MatrixAcceptance : Prop :=
  (∀ (s : State) (g : Gang) (d a b : Reg) (fa fb : BitVec 3) (l bias sat : Bool) (tl : BitVec 2) (slot : BitVec 8) (ver : BitVec 16)
    (ty : Fmt) (var : ArdkVar),
    s.matrixGang = some g → (∀ x ∈ s.me.out, x.space = .gl ∨ x.space = .cb ∨ x.space = .cx) →
    let m := s.myCore.mx
    let e := m.atEnd
    let A := s.reg a
    let B := s.reg b
    let retires (i : Instr) (op : MatOp) : Prop := m.inFlight < 4 → Reaches i s (fun t => Joins s t op ∧ t.me.goesOn)
    let writer (i : Instr) (op : MatOp) : Prop := m.inFlight < 4 → Reaches i s (fun t => Joins s t op ∧ t.me.goesOn ∧
      t.myCore.mx.accepted tl.toNat = ver + 1 ∧ ∀ j, j ≠ tl.toNat → t.myCore.mx.accepted j = m.accepted j)
    let waits (i : Instr) (op : MatOp) (why : Stall) : Prop :=
      Reaches i s (fun t => Joins s t op ∧ t.me.stat = .issued ∧ t.me.wait = .stall why)
    let turn : Prop := m.accepted tl.toNat = ver ∧ ∀ j ∈ m.seq, j.op.isMma2 = true → j.op.writes ≠ some tl.toNat
    let pair (size : BitVec 3 → Nat) : Prop := slot.toNat < 160 ∧ m.latchWaits l = false ∧
      256 * slot.toNat + size e.fa ≤ Config.wbSize ∧ (e.fa = 0 ↔ (if l then e.t1 else e.t0) = 0)
    let quiet : Prop := s.pendingStatus s.core s.ctx = none
    (A.p = false → retires (.mfmt fa fb a) (.mfmt fa fb (A.v.extractLsb' 0 32))) ∧
    (A.p = false → A.v.toNat % 256 = 0 → A.v.toNat + tileBytes e.fb ≤ Config.abSize → retires (.bload l a) (.bload l A.v.toNat)) ∧
    (quiet → m.inFlight < 4 → waits (.brot l) (.brot l) .partner) ∧
    (pair tileBytes → turn → writer (.mma tl l slot ver) (.mma tl.toNat l slot.toNat ver)) ∧
    (∀ o, A = ⟨BitVec.ofNat 64 (2 ^ 21 + o), false⟩ → o % 256 = 0 → o + 256 ≤ Config.spSize → pair sparseBytes → turn →
      writer (.mmas tl l slot a ver) (.mmas tl.toNat l slot.toNat o ver)) ∧
    (g.paired = true → pair tileBytes → turn → m.completed tl.toNat = ver → quiet → m.inFlight < 4 →
      waits (.mma2 d tl l slot ver) (.mma2 d tl.toNat l slot.toNat ver) .partner) ∧
    (turn → writer (.azero tl ver) (.azero tl.toNat ver)) ∧
    (let behind : Prop := 0 < (m.accepted tl.toNat - ver).toInt
     let stale (i : Instr) : Prop := trapsPlainly s Cause.range = true → Traps i s Cause.range ((m.accepted tl.toNat).setWidth 64)
     (behind → stale (.azero tl ver) ∧ (pair tileBytes → stale (.mma tl l slot ver) ∧
       (g.paired = true → trapsPlainly s Cause.range = true → Reaches (.mma2 d tl l slot ver) s (fun t =>
         t.me.stat = .trapped ∧ t.me.cause = Cause.range ∧ t.me.tval = (m.accepted tl.toNat).setWidth 64 ∧
         ∀ r ∈ State.pairRow s.core, r ≠ s.core → ∀ k' d' tl' l' slot' ver' at' gone,
           ((s.coreAt r).mx.seq.filter (fun j => j.op.isMma2))[m.seq.countP (fun j => j.op.isMma2)]? =
             some ⟨k', .mma2 d' tl' l' slot' ver', at', gone⟩ →
           (t.thread r k').goesOn ∧ (d' ≠ 0 → ((t.thread r k').reg d').v = 1))))) ∧
     (¬ behind → (m.accepted tl.toNat - ver).toInt < 0 ∨ s.tilePending tl.toNat = true → quiet →
       exec (.azero tl ver) s = .next (s.stall .version) ∧
       (pair tileBytes → exec (.mma tl l slot ver) s = .next (s.stall .version)))) ∧
    Gives (.aver d tl) s d ((m.accepted tl.toNat ++ m.completed tl.toNat).setWidth 64) false ∧
    (0 ≤ (m.completed tl.toNat - ver).toInt → Makes (.awaitv tl ver) s s.me) ∧
    (B.p = false → 256 * slot.toNat + 1024 * fmtBytes ty ≤ Config.abSize →
      (bias = true → B.v.toNat % 128 = 0 ∧ B.v.toNat + 128 ≤ Config.abSize) → turn →
      waits (.aepi ty sat bias tl slot b ver)
        (.aepi ty sat (if bias then some B.v.toNat else none) tl.toNat slot.toNat e.scale) .epilogue) ∧
    (A.p = false → tkLegal A.v = true → waits (.atopkInit a) (.atopkInit A.v) .epilogue) ∧
    (A.p = false → csLegal A.v = true → waits (.acselInit a) (.acselInit A.v) .epilogue) ∧
    (A.p = false → B.p = false → A.v.toNat + 31 ≤ 0xFFFE → turn →
      waits (.atopkAcc tl a b ver) (.atopkAcc tl.toNat A.v.toNat (B.v.extractLsb' 0 32)) .epilogue ∧
      waits (.acselAcc tl a b ver) (.acselAcc tl.toNat A.v.toNat (B.v.extractLsb' 0 32)) .epilogue) ∧
    (∀ rank row, A = ⟨BitVec.ofNat 64 (rank + 256 * row), false⟩ → rank < 256 → row < 32 →
      (var = .topk → rank < (tkFields m.tkAtEnd).k ∧ ((tkFields m.tkAtEnd).one = true → row = 0)) →
      (var = .csel → rank < (m.csAtEnd.extractLsb' 0 5).toNat) →
      waits (.ardk d a var) (.ardk d var rank row) .epilogue) ∧
    (A.p = false → waits (.ardkClr d a) (.ardkClr d A.v) .epilogue) ∧
    ((m.accepted tl.toNat - ver).toInt > 0 → (∀ j ∈ m.seq, j.op.isMma2 = true → j.op.writes ≠ some tl.toNat) →
      trapsPlainly s Cause.range = true → Traps (.azero tl ver) s Cause.range ((m.accepted tl.toNat).setWidth 64))) ∧
  (∀ (s : State) (c k : Nat) (i : Instr) (d a b : Reg) (fa fb : BitVec 3) (l bias sat : Bool) (tl : BitVec 2) (slot : BitVec 8)
    (ver : BitVec 16) (ty : Fmt) (var : ArdkVar),
    let u : State := { s with core := c, ctx := k }
    u.me.stat = .issued → u.me.wait = .stall .version ∨ u.me.wait = .stall .limit → u.mayIssue u.me = true → u.me.held = some i →
    i ∈ [Instr.mfmt fa fb a, .bload l a, .brot l, .mma tl l slot ver, .mmas tl l slot a ver, .mma2 d tl l slot ver, .azero tl ver,
      .awaitv tl ver, .aepi ty sat bias tl slot b ver, .atopkInit a, .atopkAcc tl a b ver, .acselInit a, .acselAcc tl a b ver,
      .ardk d a var, .ardkClr d a] →
    (∃ t, exec (.matrixAccept c k) s = .next t) ∧ exec (.matrixAccept c k) s = exec i u)

/-- R185, R186, R192, R196 to R205: the effect of an accepted matrix instruction when it completes at the head of its path:
formats and scale, the latch, the tile with its version, the output of the epilogue, the configurations, the status; it leaves
the sequence, and the thread of an epilogue instruction is READY. That its operands are read and its whole effect appears in this
one step is the model's choice (log 6). -/
def Obligations.MatrixCompletes : Prop :=
  ∀ (s : State) (c k at_ : Nat) (fa fb : BitVec 3) (sc dead : Half) (l sat : Bool) (ba tl slot ofs rank row : Nat) (ver : BitVec 16)
    (w : Word) (d : Reg) (ty : Fmt) (bias : Option Nat) (gone : Bool),
    let x := s.coreAt c
    let m := x.mx
    let completes (epilogue : Bool) (op : MatOp) (P : Core → Prop) : Prop :=
      m.head epilogue = some ⟨k, op, at_, gone⟩ → m.free ⟨k, op, at_, gone⟩ = true →
      Reaches (.matrixComplete c epilogue) s (fun t => P (t.coreAt c) ∧
        (t.coreAt c).mx.seq = m.seq.eraseP (· == ⟨k, op, at_, gone⟩) ∧ (epilogue = true → (t.thread c k).goesOn))
    let gives (op : MatOp) (v : Val) : Prop :=
      m.head true = some ⟨k, op, at_, gone⟩ → m.free ⟨k, op, at_, gone⟩ = true →
      Reaches (.matrixComplete c true) s (fun t => (t.thread c k).goesOn ∧
        (d ≠ 0 → (t.thread c k).reg d = ⟨v.v, v.p || (s.thread c k).tnt⟩) ∧ ∀ sp q, t.localMem sp q = s.localMem sp q)
    let product (y : Core) (r : Memory × Flags) : Prop :=
      y.cbuf = r.1 ∧ y.mx.completed tl = ver + 1 ∧ y.mx.status = m.status ||| matrixFlags r.2
    completes false (.mfmt fa fb sc) (fun y => y.mx.fa = fa ∧ y.mx.fb = fb ∧ y.mx.scale = sc) ∧
    completes false (.bload l ba) (fun y => (y.mx.latch l).tag = m.fb ∧ y.mx.latch (!l) = m.latch (!l) ∧
      (∀ j, j < tileBytes m.fb → (y.mx.latch l).img.byte j = x.abuf.byte (ba + j)) ∧
      ∀ j, j < tileBytes m.fb / 8 → (y.mx.latch l).img.poison (8 * j) = x.abuf.poison (ba + 8 * j)) ∧
    completes false (.mma tl l slot ver) (fun y => product y (denseProduct x.cbuf x.wbuf m.fa slot tl (m.latch l))) ∧
    completes false (.mmas tl l slot ofs ver)
      (fun y => product y (sparseProduct x.cbuf x.wbuf (s.spanAt (spanOf c)).sp m.fa slot tl ofs (m.latch l))) ∧
    completes false (.azero tl ver) (fun y => y.mx.completed tl = ver + 1 ∧
      (∀ j, y.cbuf.byte j = if 4096 * tl ≤ j ∧ j < 4096 * tl + 4096 then 0 else x.cbuf.byte j) ∧
      ∀ j, y.cbuf.poison j = if 4096 * tl ≤ j ∧ j < 4096 * tl + 4096 then false else x.cbuf.poison j) ∧
    completes true (.aepi ty sat bias tl slot sc) (fun y =>
      let r := epilogueTile x.cbuf x.abuf ty sat bias tl slot sc
      y.abuf = r.1 ∧ y.mx.status = m.status ||| matrixFlags r.2 ∧
      ((∀ o, bias = some o → o + 128 ≤ 256 * slot ∨ 256 * slot + 1024 * fmtBytes ty ≤ o) → ∀ e, e < 1024 →
        let add : Sys2Proof.Machine.Num := match bias with
          | some o => f32 (x.abuf.read (o + 4 * (e % 32)) 4)
          | none => .zero
        y.abuf.read (256 * slot + fmtBytes ty * e) (fmtBytes ty) = (fmtRound ty sat .rne
          (((f32 (x.cbuf.read (4096 * tl + 4 * e) 4)).mul (f32 sc.toNat)).add .rne add)).1 % 256 ^ fmtBytes ty)) ∧
    completes true (.atopkInit w) (fun y => y.mx.tkCfg = w ∧ y.mx.tkOn = true ∧ y.mx.tk = []) ∧
    completes true (.acselInit w) (fun y => y.mx.csCfg = w ∧ y.mx.csOn = true ∧ y.mx.cs = []) ∧
    completes true (.atopkAcc tl ba dead) (fun y => let f := tkFields m.tkCfg
      y.mx.tk = (supply x.cbuf m.tk m.activeRows tl ba dead true f.k f.gs f.lim).1) ∧
    completes true (.acselAcc tl ba dead) (fun y =>
      y.mx.cs = (supply x.cbuf m.cs (List.range 32) tl ba dead false (m.csCfg.extractLsb' 0 5).toNat 0 0).1) ∧
    completes true (.ardkClr d w) (fun y => y.mx.status = m.status &&& ~~~ w.extractLsb' 0 5) ∧
    gives (.ardkClr d w) ⟨m.statusWord, false⟩ ∧
    gives (.ardk d .stat rank row) ⟨m.statusWord, false⟩ ∧
    (let v := m.cs.get SelEntry.empty (256 * row + rank)
     gives (.ardk d .csel rank row) ⟨BitVec.ofNat 32 v.idx ++ v.val, v.psn⟩) ∧
    (let f := tkFields m.tkCfg
     let v := m.tk.get SelEntry.empty (256 * (if f.one then f.row else row) + rank)
     gives (.ardk d .topk rank row) ⟨BitVec.ofNat 32 v.idx ++ v.val, v.psn⟩)

/-- R76, R77, R199: a dense product adds two terms, one for each block of 32 positions in K, to every element of the tile, and
rounds to FP32 after each; a word of the tile takes the poison of its row of A and of its two lines of B, and no other byte of
the memory changes. R190: element j of a row of a sparse A multiplies the element of B at K = 4·(j div 2) + the metadata bits [2j+1:2j]
of its row, every other K counts as zero, and its row's metadata word joins the poison. R193, R194: a tile offers a list the elements of
its line that are no NaN and not dead, each with its index and the poison of its word; the list becomes the entries that the rule's loop
takes from those it held and those offered, in rank order; ATOPK's lists are rows and ACSEL's columns; no other list changes, and the
ranks behind the last entry are empty. -/
def Obligations.DenseProductElements : Prop :=
  (∀ (cbuf wbuf : Memory) (fa : BitVec 3) (slot tl : Nat) (b : Latch),
    let r := (denseProduct cbuf wbuf fa slot tl b).1
    (∀ i c, i < 32 → c < 32 →
      let a := 4096 * tl + 128 * i + 4 * c
      let term (kb : Nat) : Sys2Proof.Machine.Num := (tileBlock wbuf (256 * slot) fa i kb).dot (tileBlock b.img 0 b.tag c kb)
      r.read a 4 = (accumulate (accumulate (cbuf.read a 4) (term 0)).1 (term 1)).1 ∧
      r.poison a = (cbuf.poison a || tilePoison wbuf (256 * slot) fa i || tilePoison b.img 0 b.tag (c / 2 * 2) ||
        tilePoison b.img 0 b.tag (c / 2 * 2 + 1))) ∧
    ∀ j, j < 4096 * tl ∨ 4096 * tl + 4096 ≤ j → r.byte j = cbuf.byte j ∧ r.poison j = cbuf.poison j) ∧
  (∀ (cbuf wbuf sp : Memory) (fa : BitVec 3) (slot tl ofs i c : Nat) (b : Latch) (term : Nat → Sys2Proof.Machine.Num),
    let r := (sparseProduct cbuf wbuf sp fa slot tl ofs b).1
    let md := sp.read (ofs + 8 * i) 8
    let place (kb j : Nat) : Nat := 4 * ((16 * kb + j) / 2) + md / 2 ^ (2 * (16 * kb + j)) % 4
    let m := fa.toNat + 1
    let base := 256 * slot
    (∀ kb, kb < 2 → match tileBlock b.img 0 b.tag c kb with
      | .bfp mb eb ys => fa ≠ 0 ∧ term kb = bfpBlock m mb (wbuf.read (base + planeSize (4 * m) 32 + i) 1) eb
          ((List.range 16).map (fun j => mantAt m (16 * kb + j) (wbuf.read (base + 4 * m * i) (4 * m))))
          ((List.range 16).map (fun j => ys.getD (place kb j - 32 * kb) 0))
      | .bf16 ys =>
        let pairs : List (Sys2Proof.Machine.Num × Sys2Proof.Machine.Num) := (List.range 32).flatMap (fun q =>
          match (List.range 16).filter (fun j => decide (place kb j = 32 * kb + q)) with
          | [] => [(.zero, ys.getD q .zero)]
          | l => l.map (fun j => (fmtValue .bf16 (wbuf.read (base + 64 * i + 2 * (16 * kb + j)) 2), ys.getD q .zero)))
        fa = 0 ∧ term kb = bf16Block (pairs.map (·.1)) (pairs.map (·.2))) →
    i < 32 → c < 32 →
    let a := 4096 * tl + 128 * i + 4 * c
    r.read a 4 = (accumulate (accumulate (cbuf.read a 4) (term 0)).1 (term 1)).1 ∧
    r.poison a = (cbuf.poison a || sparsePoison wbuf base fa i || sp.poison (ofs + 8 * i) || tilePoison b.img 0 b.tag (c / 2 * 2) ||
      tilePoison b.img 0 b.tag (c / 2 * 2 + 1)) ∧
    ∀ j, j < 4096 * tl ∨ 4096 * tl + 4096 ≤ j → r.byte j = cbuf.byte j ∧ r.poison j = cbuf.poison j) ∧
  (∀ (cbuf : Memory) (lists : SMap SelEntry) (lines : List Nat) (line t base k gs lim : Nat) (dead : Half) (byRow : Bool),
    lines.Nodup → base + 31 ≤ 0xFFFE → k ≤ 256 →
    let after := (supply cbuf lists lines t base dead byRow k gs lim).1
    let old := listEntries lists line
    let new := listEntries after line
    let at_ (o : Nat) : Nat := 4096 * t + 4 * (if byRow then 32 * line + o else 32 * o + line)
    let offered : List SelEntry :=
      ((List.range 32).filter (fun o => !dead.getLsbD o && !(f32 (cbuf.read (at_ o) 4)).isNan)).map
        (fun o => ⟨BitVec.ofNat 32 (cbuf.read (at_ o) 4), base + o, cbuf.poison (at_ o)⟩)
    let ranked (l : List SelEntry) : Prop := l.Pairwise (fun x y =>
      rankKey x.val > rankKey y.val ∨ (rankKey x.val = rankKey y.val ∧ x.idx ≤ y.idx))
    (line ∉ lines → new = old) ∧
    (line ∈ lines → ranked old → ranked new ∧ (∀ r, r < 256 → after.get .empty (256 * line + r) = new.getD r .empty) ∧
      ∃ l, l.Perm (old ++ offered) ∧ ranked l ∧ new = l.foldl (fun e x =>
        if e.length < k ∧ (lim = 0 ∨ e.countP (fun y => decide (y.idx / 2 ^ gs = x.idx / 2 ^ gs)) < lim) then e ++ [x] else e) []))

/-- R187, R188, R189: when every member of a ring has accepted BROT, none of them later than the count of 2^20 cycles, each latch receives
the image and tag of its west neighbour and every member retires; when every member of a group has accepted MMA2 so, each adds its
product, completes its version, sends its latch to the latch of that name of its east neighbour and retires with D = 0 (that all of an
exchange is seen in the one step BROT_STEP or MMA2_GROUP_OP is the model's choice, log 23). When the count, which starts at the first
acceptance, ends before some member has accepted, every member that accepted within it traps PAIR_TIMEOUT and its instruction leaves
the sequence, and the step does not happen; a later one's stays. -/
def Obligations.RotationAndGroupSteps : Prop :=
  ∀ (s : State) (c : Nat) (l : Bool),
    -- a member's job was accepted before the count from any member's acceptance ended
    let inTime (cores : List Nat) (p : MatOp → Bool) (j : MatJob) : Prop :=
      ∀ r ∈ cores, ∀ x, s.firstJob r p = some x → j.at_ < x.at_ + 2 ^ 20
    let together (cores : List Nat) (p : MatOp → Bool) : Prop := ∀ r ∈ cores, ∀ j, s.firstJob r p = some j → inTime cores p j
    (let ring := s.trussRing c
     let west (i : Nat) : Nat := ring.getD ((i + ring.length - 1) % ring.length) 0
     (¬ together ring (MatOp.isBrot l) → exec (.brotStep c l) s = .next s) ∧
     ((∀ r ∈ ring, s.atHead r (MatOp.isBrot l) = true) → together ring (MatOp.isBrot l) →
     Reaches (.brotStep c l) s (fun t =>
       (∀ i, i < ring.length → (t.coreAt (ring.getD i 0)).mx.latch l = (s.coreAt (west i)).mx.latch l) ∧
       (∀ r ∈ ring, ∀ j, s.firstJob r (MatOp.isBrot l) = some j → (t.thread r j.ctx).goesOn) ∧ SameData s t))) ∧
    (let row := State.pairRow c
     (¬ together row MatOp.isMma2 → exec (.mma2GroupOp c) s = .next s) ∧
     ((∀ r ∈ row, s.atHead r MatOp.isMma2 = true) → together row MatOp.isMma2 →
     Reaches (.mma2GroupOp c) s (fun t => ∀ i, i < 16 → ∀ k at_ d tl l2 slot ver gone,
       let r := row.getD i 0
       s.firstJob r MatOp.isMma2 = some ⟨k, .mma2 d tl l2 slot ver, at_, gone⟩ →
       let x := s.coreAt r
       (t.coreAt r).cbuf = (denseProduct x.cbuf x.wbuf x.mx.fa slot tl (x.mx.latch l2)).1 ∧
       (t.coreAt r).mx.completed tl = ver + 1 ∧ (t.coreAt r).mx.accepted tl = ver + 1 ∧
       (t.thread r k).goesOn ∧ (d ≠ 0 → ((t.thread r k).reg d).v = 0) ∧
       let east := row.getD ((i + 1) % 16) 0
       (t.coreAt east).mx.latch l2 = (s.coreAt r).mx.latch l2 ∧ (t.coreAt east).mx.latch (!l2) = (s.coreAt east).mx.latch (!l2)))) ∧
    (let expires (i : Instr) (cores : List Nat) (p : MatOp → Bool) : Prop :=
       (∃ r ∈ cores, ∃ j, s.firstJob r p = some j ∧ j.at_ + 2 ^ 20 ≤ s.liveCycles r) →
       (∃ r ∈ cores, s.firstJob r p = none) ∨ ¬ together cores p →
       (∀ r ∈ cores, ∀ j, s.firstJob r p = some j → trapsPlainlyAt s r j.ctx Cause.pairTimeout = true) →
       Reaches i s (fun t => ∀ r ∈ cores, ∀ j, s.firstJob r p = some j →
         (inTime cores p j → (t.thread r j.ctx).stat = .trapped ∧ (t.thread r j.ctx).cause = Cause.pairTimeout ∧
           (t.coreAt r).mx.seq = (s.coreAt r).mx.seq.eraseP (fun y => p y.op)) ∧
         (¬ inTime cores p j → (t.thread r j.ctx).stat = (s.thread r j.ctx).stat ∧
           (t.coreAt r).mx.seq = (s.coreAt r).mx.seq))
     expires (.brotTimeout c l) (s.trussRing c) (MatOp.isBrot l) ∧ expires (.mma2Timeout c) (State.pairRow c) MatOp.isMma2)

/-! ## Requests, messages and counters (spec/11) -/

/-- R206 to R209, R218: a kick that passes its checks reserves a mailbox entry, takes the next ticket, which D receives, and
retires; its request, with the block as read, joins the queue of the streamer that owns the source: that of a local place's span,
and of a global address's home slice. In a replayable superstep a request whose destination is global memory or another device is
held instead. With no entry free it waits in ISSUED, and MAILBOX_RESERVE tries it again: that it then runs as if it issued
afresh, with its block read and checked anew, is the model's choice (log 33). R210, R235: a streamer starts the oldest request of
its queue while fewer than eight run; XDRAIN of a thread whose kicks have all posted gives 0, and else waits in ISSUED. -/
def Obligations.KicksStartAndDrain : Prop :=
  (∀ (s : State) (d a b : Reg) (init : Bool) (sp : BitVec 2) (tag : BitVec 16),
    let space : Space := match sp.toNat with
      | 0 => .gl
      | 1 => .sp
      | 2 => .wb
      | _ => .ab
    let kick (i : Instr) (kind : ReqKind) (b : Reg) : Prop :=
      (∀ blk u, (s.reg a).p = false → (s.reg b).p = false → s.me.out = [] → s.posting = false →
        (s.meetBlock space (s.reg a).v).readBlock space (s.reg a).v = .ok (blk, false, u) →
        firstBad (fieldsOk kind blk) = none → u.placeOutside (u.tenantOf u.me) kind blk = none →
        u.ownCheck (u.tenantOf u.me) kind blk = none → u.inReplay = false ∨ u.foreignDst kind blk = false →
        (u.mailUsed u.core < 64 →
          Reaches i s (fun t => t.me.goesOn ∧ (d ≠ 0 → (t.reg d).v = (u.ticketOf u.core u.ctx).setWidth 64) ∧
            t.ticketOf u.core u.ctx = u.ticketOf u.core u.ctx + 1 ∧
            (t.coreAt u.core).reserved = (u.coreAt u.core).reserved + 1 ∧ t.me.kicks = u.me.kicks ++ [u.ticketOf u.core u.ctx] ∧
            (∀ x q, t.localMem x q = u.localMem x q) ∧
            ∃ q : Req, q.blk = blk ∧ q.kind = kind ∧ q.tag = tag ∧ q.ticket = u.ticketOf u.core u.ctx ∧ q.core = s.core ∧
              q.ctx = s.ctx ∧
              if t.inReplay = true ∧ (kind = .remPut ∨ kind = .remAddmx ∨ (blkWord blk 1).extractLsb' 48 3 = 0) then
                ∃ h g, t.me.gang? = some h ∧ t.gangAt h = some g ∧ q ∈ g.held
              else ∃ n, (t.spanAt n).queue = (u.spanAt n).queue ++ [q] ∧
                ∀ l, locOf (blkWord blk 0) = some l →
                  (l.space = .sp → n = l.place) ∧ (l.space ≠ .sp → l.space ≠ .gl → n = spanOf l.place) ∧
                  (l.space = .gl → u.tenantOf u.me = none → n = homeSlice l.addr) ∧
                  (∀ tn x, l.space = .gl → u.tenantOf u.me = some tn → u.walk tn l.addr = some x →
                    n = homeSlice (pageAddr x.entry (pageSize x.level) l.addr)))) ∧
        (64 ≤ u.mailUsed u.core → u.pendingStatus u.core u.ctx = none → exec i s = .next (u.stall .mailroom))) ∧
      ∀ c k, let v : State := { s with core := c, ctx := k }
        v.me.stat = .issued → v.me.wait = .stall .mailroom → v.mayIssue v.me = true → v.me.held = some i →
        (∃ t, exec (.mailboxReserve c k) s = .next t) ∧ exec (.mailboxReserve c k) s = exec i v
    kick (.xcopy d a sp tag) .copy 0 ∧ kick (.xconv d a sp tag) .conv 0 ∧ kick (.xscript d a sp tag) .script 0 ∧
    kick (.xsela d a b init sp tag) (.sela init) b ∧ kick (.xremPut d a sp tag) .remPut 0 ∧ kick (.xremAddmx d a sp tag) .remAddmx 0) ∧
  (∀ (s : State) (span : Nat) (q : Req) (rest : List Req) (d : Reg),
    ((s.spanAt span).queue = q :: rest → (s.spanAt span).running.length < 8 → q.kind ≠ .remPut → q.kind ≠ .remAddmx →
      Reaches (.streamerRequestStart span) s (fun t => (t.spanAt span).queue = rest ∧
        (t.spanAt span).running = (s.spanAt span).running ++ [q] ∧ SameData s t)) ∧
    ((s.spanAt span).queue = q :: rest → 8 ≤ (s.spanAt span).running.length → exec (.streamerRequestStart span) s = .next s) ∧
    (s.me.kicks = [] → Gives (.xdrain d) s d 0 false) ∧
    (s.me.kicks ≠ [] → Reaches (.xdrain d) s (fun t => t.me.stat = .issued ∧ t.me.wait = .drain d s.me.kicks.length ∧ SameData s t)))

/-- R211, R214, R217, R219 to R228: what a completion writes (log 6 for the one step). XCOPY between two places that do not
overlap, local ones or, of a supervisor thread, global ones: every byte and the poison of every word copied, poison into local
places only. XCONV between scalar formats, and XSCRIPT of one MOVE: every element converted from the element its place or the
step's stride names, its flags gathered, and words without poison where the source has none. XSELA.init: the area of R226 after
every element has been taken in turn. No other byte changes, and one message is posted with the kick's tag and ticket, status
OK, the flags, and the count of bytes written, or the first word of the area. -/
def Obligations.RequestsComplete : Prop :=
  ∀ (s : State) (span k n : Nat) (q : Req) (src dst : Loc) (ts td : Fmt),
    (s.spanAt span).running[k]? = some q → q.host = none →
    locOf (blkWord q.blk 0) = some src → locOf (blkWord q.blk 1) = some dst →
    let w := blkWord q.blk 3
    let from_ := s.localMem src.space src.place
    let old := s.localMem dst.space dst.place
    let posts (t : State) (kind : Nat) (payload : Nat) (flags : Flags) (short : Bool) : Prop :=
      (t.spanAt span).running = (s.spanAt span).running.take k ++ (s.spanAt span).running.drop (k + 1) ∧
      ∃ m : Msg, (t.coreAt q.core).mail = (s.coreAt q.core).mail ++ [m] ∧ m.payload = BitVec.ofNat 64 payload ∧
        m.header.extractLsb' 0 16 = q.tag ∧ m.header.extractLsb' 16 5 = 0 ∧ m.header.extractLsb' 21 3 = BitVec.ofNat 3 kind ∧
        m.header.extractLsb' 24 6 = mailFlags flags short ∧ m.header.extractLsb' 32 32 = q.ticket
    let keeps (t : State) (len : Nat) : Prop :=
      (∀ j, j < dst.addr ∨ dst.addr + len ≤ j → (t.localMem dst.space dst.place).byte j = old.byte j) ∧
      ∀ sp p, sp ≠ dst.space ∨ (sp ≠ .gl ∧ p ≠ dst.place) → t.localMem sp p = s.localMem sp p
    let apart (a la : Nat) (len : Nat) : Prop :=
      src.space ≠ dst.space ∨ src.place ≠ dst.place ∨ a + la ≤ dst.addr ∨ dst.addr + len ≤ a
    let inside (l : Loc) (len : Nat) : Prop := l.addr + len ≤ spaceSize l.space
    let clean (t : State) (len : Nat) : Prop := ∀ i, dst.addr ≤ 8 * i → 8 * i + 8 ≤ dst.addr + len →
      (t.localMem dst.space dst.place).poison (8 * i) = false
    (let open_ (l : Loc) : Prop := l.space = .gl → q.tenant = none ∧
       ∀ j, j < 8 * n → s.populated (l.addr + j) = true ∧ inCwin (l.addr + j) = false
     q.kind = .copy → (blkWord q.blk 2).extractLsb' 0 32 = BitVec.ofNat 32 (8 * n) → 8 * n < 2 ^ 32 →
     src.addr % 8 = 0 → dst.addr % 8 = 0 → inside src (8 * n) → inside dst (8 * n) → apart src.addr (8 * n) (8 * n) →
     open_ src → open_ dst → (dst.space = .gl → ∀ j, j < n → from_.poison (src.addr + 8 * j) = false) →
     Reaches (.streamerCompletion span k) s (fun t =>
       (∀ j, j < 8 * n → (t.localMem dst.space dst.place).byte (dst.addr + j) = from_.byte (src.addr + j)) ∧
       (∀ j, j < n → (t.localMem dst.space dst.place).poison (dst.addr + 8 * j) = from_.poison (src.addr + 8 * j)) ∧
       keeps t (8 * n) ∧ posts t 1 (8 * n) 0 false)) ∧
    (src.space ≠ .gl → dst.space ≠ .gl →
      let value (a : Nat) : Nat × Flags := fmtRound td (w.getLsbD 11) q.mode (fmtValue ts (from_.read a (fmtBytes ts)))
      let converted (t : State) (count : Nat) (at_ : Nat → Nat) : Prop :=
        (∀ j, j < count → (t.localMem dst.space dst.place).read (dst.addr + fmtBytes td * j) (fmtBytes td) =
          (value (at_ j)).1 % 256 ^ fmtBytes td) ∧
        ((∀ j, j < count → from_.anyPoison (at_ j) (fmtBytes ts) = false) → clean t (fmtBytes td * count)) ∧
        keeps t (fmtBytes td * count) ∧
        posts t 1 (fmtBytes td * count) ((List.range count).foldl (fun f j => f ||| (value (at_ j)).2) 0) false
      SFmt.ofCode (w.extractLsb' 0 4).toNat = .scalar ts → SFmt.ofCode (w.extractLsb' 4 4).toNat = .scalar td →
      (q.kind = .conv → (blkWord q.blk 2).extractLsb' 0 32 = BitVec.ofNat 32 n → n < 2 ^ 32 →
        inside src (fmtBytes ts * n) → inside dst (fmtBytes td * n) → apart src.addr (fmtBytes ts * n) (fmtBytes td * n) →
        Reaches (.streamerCompletion span k) s (fun t => converted t n (fun j => src.addr + fmtBytes ts * j))) ∧
      (∀ l, q.kind = .script → (blkWord q.blk 2).extractLsb' 0 6 = 1 → locOf (blkWord q.blk 4) = some l → l.space ≠ .gl →
        inside l 8 → (s.localMem l.space l.place).anyPoison l.addr 8 = false →
        let step : Word := BitVec.ofNat 64 ((s.localMem l.space l.place).read l.addr 8)
        let stride := (step.extractLsb' 20 24).toInt
        let count := (step.extractLsb' 4 16).toNat
        let at_ (e : Nat) : Nat := (src.addr + e * stride).toNat
        stepOk [step] 0 (decide (blkWord q.blk 5 ≠ 0) && (locOf (blkWord q.blk 5)).isSome) = true → (step.extractLsb' 0 4) = 3 →
        inside dst (fmtBytes td * count) →
        (∀ e, e < count → 0 ≤ src.addr + e * stride ∧ at_ e + fmtBytes ts ≤ spaceSize src.space ∧
          apart (at_ e) (fmtBytes ts) (fmtBytes td * count)) →
        Reaches (.streamerCompletion span k) s (fun t => converted t count at_))) ∧
    (q.kind = .sela true → src.space = .cb → dst.space ≠ .gl → dst.space ≠ .cb → src.addr % 4 = 0 → dst.addr % 8 = 0 →
      let count := ((blkWord q.blk 2).extractLsb' 0 15).toNat
      let base := ((blkWord q.blk 2).extractLsb' 32 32).toNat
      let b := (w.extractLsb' 0 9).toNat
      let start : Sela := ⟨0xFF800000, 0, 0, List.replicate b (0xFF800000, 0xFFFFFFFF), List.replicate (b + 2) false, 0⟩
      let a := (List.range count).foldl (fun a j => selaStep q.sc.toNat base b a j (from_.read (src.addr + 4 * j) 4)) start
      let words : List Nat := (a.m + a.s * 2 ^ 32) :: a.cnt :: a.w.map (fun e => e.1 + e.2 * 2 ^ 32)
      inside src (4 * count) → inside dst (16 + 8 * b) →
      Reaches (.streamerCompletion span k) s (fun t =>
        (∀ i, i < b + 2 → (t.localMem dst.space dst.place).read (dst.addr + 8 * i) 8 = words.getD i 0 % 2 ^ 64 ∧
          (t.localMem dst.space dst.place).poison (dst.addr + 8 * i) =
            (List.range count).any (fun j => from_.poison (src.addr + 4 * j))) ∧
        keeps t (16 + 8 * b) ∧ posts t 2 (a.m + a.s * 2 ^ 32) a.fl (decide (b < (w.extractLsb' 16 16).toNat))))

/-- R230, R231, R232: MSEND, a release, sends its message once nothing holds it back and waits for the answer; at its arrival the message is stored in a mailbox with
room, and the sender's D becomes 0; without room nothing is stored and D becomes 1. MWAIT gives the header of the oldest message
that matches and leaves it; MRECV gives its payload and header and removes it. A notification moves into the supervisor mailbox
while that has room. -/
def Obligations.MessageInstructions : Prop :=
  ∀ (s : State) (d e a b : Reg) (tag : BitVec 16),
    let dst := (s.reg a).v.toNat
    let word := (s.reg a).v
    let filter (m : Msg) : Bool := m.matches (word.extractLsb' 0 16).toNat (word.extractLsb' 16 16).toNat
    let found := (s.mailFor s.core s.ctx).find? filter
    ((s.reg a).p = false → (s.reg b).p = false → dst < 2 ^ 14 → s.inSubmesh (s.tenantOf s.me) dst = true →
      s.inReplay = false ∨ s.outsideGang dst = false → s.me.out = [] → s.posting = false →
      Reaches (.msend d a b tag) s (fun t => SameData s t ∧ t.me.stat = .issued ∧ t.me.wait = .stall .answer ∧
        ∃ m : MsgFlight, t.msgs = s.msgs ++ [m] ∧ m.target = dst ∧ m.core = s.core ∧ m.ctx = s.ctx ∧ m.msg.payload = (s.reg b).v ∧
          m.msg.header.extractLsb' 0 16 = tag)) ∧
    (∀ k m, s.msgs[k]? = some m → m.sup = false → (s.spanAt (spanOf m.target)).tenant = m.tenant →
      (s.thread m.core m.ctx).wait = .stall .answer → (s.thread m.core m.ctx).held = some (.msend d a b tag) →
      let answered (t : State) (v : Word) : Prop := (t.thread m.core m.ctx).goesOn ∧
        (d ≠ 0 → ((t.thread m.core m.ctx).reg d).v = v) ∧ t.msgs = s.msgs.take k ++ s.msgs.drop (k + 1)
      (s.mailUsed m.target < 64 → s.refusesMail m.target = false →
        Reaches (.mailboxArrival k) s (fun t => answered t 0 ∧ (t.coreAt m.target).mail = (s.coreAt m.target).mail ++ [m.msg])) ∧
      (64 ≤ s.mailUsed m.target →
        Reaches (.mailboxArrival k) s (fun t => answered t 1 ∧ (t.coreAt m.target).mail = (s.coreAt m.target).mail))) ∧
    ((s.reg a).p = false → word.toNat < 2 ^ 32 →
      (∀ m, found = some m → Gives (.mwait d a) s d m.header false ∧
        Reaches (.mrecv d e a) s (fun t => t.me.goesOn ∧ t.mailFor s.core s.ctx = (s.mailFor s.core s.ctx).eraseP filter ∧
          (e ≠ 0 → (t.reg e).v = m.header) ∧ (d ≠ 0 → e = 0 ∨ (d ≠ e ∧ d ≠ 1) → (t.reg d).v = m.payload) ∧
          (d ≠ 0 → d ≠ e → d ≠ 1 → (t.reg d).p = (m.header.getLsbD 30 || s.me.tnt)) ∧
          ∀ r, r ≠ d → r ≠ e → r ≠ 1 → t.reg r = s.reg r)) ∧
      (found = none → s.pendingStatus s.core s.ctx = none →
        Reaches (.mwait d a) s (fun t => SameData s t ∧ t.me.stat = .parked ∧
          t.me.wait = .mailbox d (word.extractLsb' 0 16).toNat (word.extractLsb' 16 16).toNat)) ∧
      (found = none → Reaches (.mrecv d e a) s (fun t => t.me.goesOn ∧ (t.reg d).v = 0 ∧ (t.reg e).v = 0 ∧
        ∀ r, r ≠ d → r ≠ e → r ≠ 1 → t.reg r = s.reg r))) ∧
    ∀ m rest, s.notes = m :: rest → s.supMail.length < 64 →
      Reaches .supervisorNotification s (fun t => t.notes = rest ∧ t.supMail = s.supMail ++ [m])

/-- R233, R234, R262, R296: CPOST, a release, sends B plus its immediate to a counter; COUNTER_POST adds what arrives, modulo 2^32,
unless the core belongs to another tenant than the post: then the post is dropped and reported; CWAIT of a counter
that has reached its target gives the counter, and CWAIT.sub takes the target away from it; else it parks; CRDC gives the
counter and replaces it; both wait first while a post of their own thread to the counter is under way, or a load of the counter by
their own thread through the counter window is outstanding, and loads of it that others have outstanding and published come first
(R262). Posts of one launch or one list reach counters in their order (R265, R284, R288). -/
def Obligations.CounterFileInstructions : Prop :=
  ∀ (s : State) (d a b : Reg) (imm : BitVec 16),
    let dst := (s.reg a).v.toNat
    let B := (s.reg b).v.extractLsb' 0 32
    let aloneIn (s : State) (c idx : Nat) : Prop := ∀ x ∈ (s.coreAt c).threads, ∀ d tg sub, x.2.wait ≠ .counter d idx tg sub
    let alone : Nat → Nat → Prop := aloneIn s
    let inTurn (k : Nat) (p : PostFlight) : Prop := p.rec_ = none ∨ ∀ x ∈ s.posts.take k, x.rec_ ≠ p.rec_
    ((s.reg a).p = false → (s.reg b).p = false → dst < 2 ^ 22 → s.inSubmesh (s.tenantOf s.me) (dst % 2 ^ 14) = true →
      s.inReplay = false ∨ s.outsideGang (dst % 2 ^ 14) = false → s.me.out = [] → s.posting = false →
      Reaches (.cpost a b imm) s (fun t => SameData s t ∧ t.me.goesOn ∧
        ∃ p : PostFlight, t.posts = s.posts ++ [p] ∧ p.core = dst % 2 ^ 14 ∧ p.idx = dst / 2 ^ 14 ∧ p.inc = B + imm.setWidth 32 ∧
          p.by_ = some (s.core, s.ctx) ∧ p.tenant = s.tenantOf s.me)) ∧
    (∀ k p, s.posts[k]? = some p → p.tenant = none ∨ (s.spanAt (spanOf p.core)).tenant = p.tenant → alone p.core p.idx → inTurn k p →
      Reaches (.counterPost (.underWay k)) s (fun t => t.counterAt p.core p.idx = s.counterAt p.core p.idx + p.inc ∧
        (∀ c i, c ≠ p.core ∨ i ≠ p.idx → t.counterAt c i = s.counterAt c i) ∧ SameData s t ∧
        t.posts = s.posts.take k ++ s.posts.drop (k + 1))) ∧
    (∀ k p, s.posts[k]? = some p → p.tenant ≠ none → (s.spanAt (spanOf p.core)).tenant ≠ p.tenant → inTurn k p →
      Reaches (.counterPost (.underWay k)) s (fun t => (∀ c i, t.counterAt c i = s.counterAt c i) ∧ SameData s t ∧
        t.reports = s.reports ++ [.dropped p.core] ∧ t.posts = s.posts.take k ++ s.posts.drop (k + 1))) ∧
    (∀ k p, s.posts[k]? = some p → ¬ inTurn k p → exec (.counterPost (.underWay k)) s = .next s) ∧
    (∀ tn c idx inc, c < 16384 → idx < 256 →
      ((s.spanAt (spanOf c)).tenant = some tn → alone c idx →
        Reaches (.counterPost (.outside tn c idx inc)) s (fun t => t.counterAt c idx = s.counterAt c idx + inc ∧ SameData s t)) ∧
      ((s.spanAt (spanOf c)).tenant ≠ some tn →
        Reaches (.counterPost (.outside tn c idx inc)) s (fun t => (∀ c i, t.counterAt c i = s.counterAt c i) ∧ SameData s t ∧
          t.reports = s.reports ++ [.dropped c]))) ∧
    ((s.reg a).p = false → (s.reg b).p = false → dst < 256 →
     (∃ p ∈ s.posts, p.by_ = some (s.core, s.ctx) ∧ p.core = s.core ∧ p.idx = dst) ∨
       s.mustFollow .gl (State.windowAddr s.core dst) 8 = true →
      (∀ sub, exec (.cwait d a b sub) s = .next (s.stall .order)) ∧ exec (.crdc d a b) s = .next (s.stall .order)) ∧
    ((s.reg a).p = false → (s.reg b).p = false → dst < 256 →
     (∀ p ∈ s.posts, p.by_ = some (s.core, s.ctx) → p.core = s.core → p.idx ≠ dst) →
      s.mustFollow .gl (State.windowAddr s.core dst) 8 = false →
      let u := s.meetWindow (.thread s.core s.ctx) s.core dst
      let v := u.counterAt u.core dst
      (0 ≤ (v - B).toInt → ∀ sub, Reaches (.cwait d a b sub) s (fun t => t.me.goesOn ∧ (d ≠ 0 → (t.reg d).v = v.setWidth 64) ∧
        (aloneIn u u.core dst → t.counterAt u.core dst = if sub then v - B else v) ∧ ∀ x q, t.localMem x q = u.localMem x q)) ∧
      ((v - B).toInt < 0 → u.pendingStatus u.core u.ctx = none → ∀ sub,
        Reaches (.cwait d a b sub) s (fun t => SameData u t ∧ t.me.stat = .parked ∧ t.me.wait = .counter d dst B sub)) ∧
      Reaches (.crdc d a b) s (fun t => (d ≠ 0 → (t.reg d).v = v.setWidth 64) ∧ (aloneIn u u.core dst → t.counterAt u.core dst = B) ∧
        ∀ x q, t.localMem x q = u.localMem x q))

/-! ## The event unit, collectives, groups (spec/13, spec/21) -/

/-- R239 to R244, R250 to R254: EVARR gives the phase and arrives, and the last arrival completes the phase; EVWAIT and EVTWAIT
give the phase or the line once it has been reached, and park until then; a deadline that has passed ends the wait with status
4; EVSIG raises a line or configures a barrier; MTXLOCK takes a free mutex or queues, MTXREL frees it or passes it on. EVARR,
EVSIG.sig and MTXREL are releases and wait until nothing holds them back. R249, R302: no phase completes after the abort of the
gang: that the arrival which would complete it then leaves the barrier as it was is the model's choice (log 29). -/
def Obligations.EventUnitInstructions : Prop :=
  ∀ (s : State) (d a b : Reg) (n : BitVec 4),
    let span := spanOf s.core
    let x := s.barAt span n.toNat
    let q := s.lineAt span n.toNat
    let w := (s.reg b).v
    let mx := s.mutexAt span n.toNat
    let until_ := s.clock + ((s.reg a).v.extractLsb' 0 32).toNat
    let parks (i : Instr) (wait : Wait) : Prop := s.pendingStatus s.core s.ctx = none →
      Reaches i s (fun t => SameData s t ∧ t.me.stat = .parked ∧ t.me.wait = wait)
    (s.me.out = [] → s.posting = false → x.count ≠ 0 → x.mask.getLsbD (coreOffset s.core) = true →
      Reaches (.evarr d n) s (fun t => (d ≠ 0 → (t.reg d).v = x.p.setWidth 64) ∧
        t.barAt span n.toNat = (if x.arr + 1 = x.count then (if s.aborting s.core s.ctx then x else { x with p := x.p + 1, arr := 0 }) else { x with arr := x.arr + 1 }) ∧
        ∀ sp p, t.localMem sp p = s.localMem sp p)) ∧
    ((s.reg b).p = false →
      (0 ≤ (q - w.extractLsb' 0 32).toInt → Gives (.evwait d b n true) s d (q.setWidth 64) false) ∧
      ((q - w.extractLsb' 0 32).toInt < 0 → parks (.evwait d b n true) (.line d n.toNat (w.extractLsb' 0 32) none)) ∧
      (x.count ≠ 0 → 1 ≤ (x.p - w.extractLsb' 0 16).toInt → Gives (.evwait d b n false) s d (x.p.setWidth 64) false) ∧
      (x.count ≠ 0 → (x.p - w.extractLsb' 0 16).toInt < 1 →
        parks (.evwait d b n false) (.bar d n.toNat (w.extractLsb' 0 16).toNat none)) ∧
      ((s.reg a).p = false →
        (0 ≤ (q - w.extractLsb' 0 32).toInt → Gives (.evtwait d a b n true) s d (q.setWidth 64) false) ∧
        ((q - w.extractLsb' 0 32).toInt < 0 → parks (.evtwait d a b n true) (.line d n.toNat (w.extractLsb' 0 32) (some until_))) ∧
        (x.count ≠ 0 → 1 ≤ (x.p - w.extractLsb' 0 16).toInt → Gives (.evtwait d a b n false) s d (x.p.setWidth 64) false) ∧
        (x.count ≠ 0 → (x.p - w.extractLsb' 0 16).toInt < 1 →
          parks (.evtwait d a b n false) (.bar d n.toNat (w.extractLsb' 0 16).toNat (some until_))))) ∧
    (∀ c k m dl, s.clock > dl → (s.thread c k).stat = .parked →
      (∀ p, (s.thread c k).wait = .bar d m p (some dl) → Reaches (.evtwaitTimeout c k) s (fun t => (t.thread c k).stat = .ready ∧
        (d ≠ 0 → ((t.thread c k).reg d).v = (s.barAt (spanOf c) m).p.setWidth 64 ||| BitVec.ofNat 64 (4 * 2 ^ 32)))) ∧
      (∀ l, (s.thread c k).wait = .line d m l (some dl) → Reaches (.evtwaitTimeout c k) s (fun t => (t.thread c k).stat = .ready ∧
        (d ≠ 0 → ((t.thread c k).reg d).v = (s.lineAt (spanOf c) m).setWidth 64 ||| BitVec.ofNat 64 (4 * 2 ^ 32))))) ∧
    (s.me.out = [] → s.posting = false → Reaches (.evsigSig d n) s (fun t => t.lineAt span n.toNat = q + 1 ∧
      (d ≠ 0 → (t.reg d).v = (q + 1).setWidth 64) ∧ ∀ sp p, t.localMem sp p = s.localMem sp p)) ∧
    ((s.reg a).p = false → (s.reg b).p = false → 1 ≤ w.toNat → w.toNat ≤ 4096 → x.arr = 0 →
      Reaches (.evsigCfg a b n) s (fun t => t.barAt span n.toNat = { x with mask := (s.reg a).v, count := w.toNat } ∧
        t.me.goesOn ∧ SameData s t)) ∧
    (mx.owner = none → Reaches (.mtxlock d n) s (fun t => (t.mutexAt span n.toNat).owner = some (s.core, s.ctx) ∧
      t.me.goesOn ∧ (d ≠ 0 → (t.reg d).v = if mx.broken then BitVec.ofNat 64 (5 * 2 ^ 32) else 0))) ∧
    (∀ o, mx.owner = some o → o ≠ (s.core, s.ctx) → s.pendingStatus s.core s.ctx = none →
      Reaches (.mtxlock d n) s (fun t => SameData s t ∧ t.me.stat = .parked ∧
        t.mutexAt span n.toNat = { mx with queue := mx.queue ++ [(s.core, s.ctx)] })) ∧
    (mx.owner = some (s.core, s.ctx) → s.me.out = [] → s.posting = false →
      Reaches (.mtxrel n) s (fun t => t.me.goesOn ∧ (t.mutexAt span n.toNat).owner = mx.queue.head? ∧
        (t.mutexAt span n.toNat).queue = mx.queue.tail)) ∧
    (mx.owner ≠ some (s.core, s.ctx) → s.me.out = [] → s.posting = false → trapsPlainly s Cause.access = true →
      Traps (.mtxrel n) s Cause.access (BitVec.ofNat 64 n.toNat))

/-- R245 to R247: GBAR and SSTEP of a thread of a gang, releases that wait until nothing holds them back, arrive at the collective and park; a span reports once every live thread
of the gang on it has arrived and, at the collective that seals a replayable superstep, the matrix sequences of its cores of the gang
are empty, whoever filled them (R191); the collective completes once every span has: the superstep number goes up by one, the next
superstep is replayable as the arrivals ask, and each arrival is READY with the new number and mode. R248: GANG_STALL traps
every thread of the gang that counts as parked, with its park reason. -/
def Obligations.CollectivesAndStall : Prop :=
  ∀ (s : State) (d : Reg) (h : Nat) (g : Gang),
    (s.gangOf s.me = some g → s.me.out = [] → s.posting = false → g.replay = false ∨ s.myCore.mx.seq = [] → s.pendingStatus s.core s.ctx = none →
      Reaches (.gbar d) s (fun t => SameData s t ∧ t.me.stat = .parked ∧ t.me.wait = .collective d none) ∧
      ∀ replay, Reaches (.sstep d replay) s (fun t => SameData s t ∧ t.me.stat = .parked ∧ t.me.wait = .collective d (some replay))) ∧
    (∀ span, (s.spanAt span).gang = some h → s.gangAt h = some g →
      (∀ x ∈ s.threadsOn h (spanCores span), (s.thread x.1 x.2).live = true → (s.thread x.1 x.2).arrived = true) →
      let drained : Prop := ∀ c ∈ spanCores span, c ∈ g.cores → (s.coreAt c).mx.seq = []
      (g.replay = false ∨ drained → Reaches (.spanReport span) s (fun t => (t.spanAt span).reported = true ∧ SameData s t)) ∧
      (g.replay = true → ¬ drained → exec (.spanReport span) s = .next s)) ∧
    (s.gangAt h = some g → g.stat = .running → g.rolling = false →
      let live := (s.threadsOn h g.cores).filter (fun x => (s.thread x.1 x.2).live)
      live ≠ [] → (∀ x ∈ live, (s.thread x.1 x.2).arrived = true) → (∀ n ∈ g.spans, (s.spanAt n).reported = true) →
      ∃ mode : Bool,
        ((∀ x ∈ live, ∀ d want, (s.thread x.1 x.2).wait = .collective d want → want.getD g.replay = true) ↔ mode = true) ∧
        Reaches (.collectiveComplete h) s (fun t =>
          (∃ g', t.gangAt h = some g' ∧ g'.step = g.step + 1 ∧ g'.replay = mode ∧ g'.held = [] ∧ g'.replays = 0) ∧
          (∀ x ∈ live, ∀ d want, (s.thread x.1 x.2).wait = .collective d want → (t.thread x.1 x.2).stat = .ready ∧
            (d ≠ 0 → ((t.thread x.1 x.2).reg d).v = BitVec.ofNat 64 ((g.step + 1) % 2 ^ 32 + if mode then 2 ^ 40 else 0))) ∧
          ∀ sp p, t.localMem sp p = s.localMem sp p)) ∧
    (s.gangAt h = some g → g.stat = .running → g.stallT ≤ g.stall →
      (∀ x ∈ s.threadsOn h g.cores, (s.thread x.1 x.2).owner = .gang h) →
      Reaches (.gangStall h) s (fun t => (∃ g', t.gangAt h = some g' ∧ g'.stall = 0) ∧
        ∀ x ∈ s.threadsOn h g.cores, ∀ r, s.stallReason x.1 x.2 = some r → (t.thread x.1 x.2).stat = .trapped ∧
          (t.thread x.1 x.2).cause = Cause.gangStall ∧ (t.thread x.1 x.2).tval = BitVec.ofNat 64 r))

/-- R326, R329, R191: a requested rollback withdraws what waits in ISSUED with no effect yet, so that those threads stand READY at
their instruction, undoes the BROTs and MMA2s that have not begun, and changes no register and no memory; what must retire first
stays; once the gang has come to a halt, with no pre-emption waiting for
that (R329), its buffers and scratchpads read as they did at the collective that opened the superstep, and so do the words of context records that
write-backs of its registers have changed since (R96), no other byte of global memory changes (R323),
and the count of replays goes up by one. A halted gang has no request, post or access under way, and no engine work of its
threads. -/
def Obligations.RollbackRestoresTheSnapshot : Prop :=
  ∀ (s : State) (h : Nat) (g : Gang), s.gangAt h = some g → g.rolling = true →
    Reaches (.rollback h) s (fun t => SameData s t ∧
      (∀ x ∈ s.threadsOn h g.cores, State.withdraws (s.thread x.1 x.2) = true →
        (t.thread x.1 x.2).stat = .ready ∧ (t.thread x.1 x.2).pcOff = (s.thread x.1 x.2).pcOff) ∧
      (∀ x ∈ s.threadsOn h g.cores, State.mustRetire (s.thread x.1 x.2) = true →
        (∀ j ∈ (s.coreAt x.1).mx.seq, j.ctx ≠ x.2) → (t.thread x.1 x.2).stat = .issued ∧
          (t.thread x.1 x.2).wait = (s.thread x.1 x.2).wait) ∧
      ∀ c ∈ g.cores, ∀ j ∈ (t.coreAt c).mx.seq, j ∈ (s.coreAt c).mx.seq ∧ j.op.isMma2 = false ∧ ∀ l, j.op.isBrot l = false) ∧
    (∀ img, g.snap = some img → g.abortLate = false → s.halted h g = true →
      (∀ k d a b post, (s.thread 0 k).owner = .sup → (s.thread 0 k).held ≠ some (.ctxsaveGang d a b post)) →
      Reaches (.rollbackRestore h) s (fun t =>
        (∃ g', t.gangAt h = some g' ∧ g'.rolling = false ∧ g'.replays = g.replays + 1 ∧ g'.step = g.step) ∧
        (∀ c ∈ g.cores, (t.coreAt c).wbuf = (img.cores.get Core.idle c).wbuf ∧ (t.coreAt c).abuf = (img.cores.get Core.idle c).abuf ∧
          (t.coreAt c).cbuf = (img.cores.get Core.idle c).cbuf) ∧
        (∀ n ∈ g.spans, (t.spanAt n).sp = (img.spans.get Span.idle n).sp) ∧
        (∀ a, (∀ e ∈ img.recs, a < e.1 ∨ e.1 + 8 ≤ a) → t.mem.byte a = s.mem.byte a) ∧
        ((∀ e ∈ img.recs, e.1 + 8 ≤ Config.cwinBase) → img.recs.Pairwise (fun x y => x.1 + 8 ≤ y.1 ∨ y.1 + 8 ≤ x.1) →
          ∀ e ∈ img.recs, t.physWord e.1 = e.2))) ∧
    (s.halted h g = false → exec (.rollbackRestore h) s = .next s) ∧
    (s.halted h g = true →
      (∀ p ∈ s.posts, p.gang ≠ some h) ∧ (∀ x ∈ s.threadsOn h g.cores, (s.thread x.1 x.2).out = []) ∧
      ∀ c ∈ g.cores, (s.coreAt c).mx.seq = [] ∧ ∀ j ∈ (s.coreAt c).vec, (s.thread c j.ctx).owner = .sup)

/-- R349, R351, R353, R356, R362, R363: GBALLOT casts its sibling's vote and gives the state word, or with .wait parks while the
group is open; GCANCEL cancels the named siblings that are neither cancelled nor retired and gives them; GSTAT reads a group; a
cancel that arrives raises its core's flag, or while its gang starts or is restored is recorded until it runs (R357); DRAW gives a value that depends on its key and operands alone, and DRAW_ACCEPT gives
it to a thread that waited. R355, R363: of a cancelled sibling, a DRAW that is accepted at once counts the 7 cycles behind its first
one in ISSUED (log 4). R363: the raw draw is a bijection of the key: two keys give two different draws at the same
operands. -/
def Obligations.GroupAndDrawInstructions : Prop :=
  (∀ (s : State) (d a b : Reg) (var : BitVec 3),
    let w := (s.reg a).v
    let v := drawWord s.me.drawkey w (s.reg b).v
    (∀ g i, s.gangOf s.me = some g → State.groupIndex g = some i → s.me.out = [] → s.posting = false →
      let x := s.groupAt i
      let r := x.vote g.sib w (s.reg a).p
      Reaches (.gballot d a false) s (fun t => t.groupAt i = r.1 ∧ t.me.goesOn ∧
        (d ≠ 0 → (t.reg d).v = r.1.word g.sib r.2 0)) ∧
      (r.1.stat = .opened → r.1.cxl.getLsbD g.sib = false → s.pendingStatus s.core s.ctx = none →
        Reaches (.gballot d a true) s (fun t => t.groupAt i = r.1 ∧ t.me.stat = .parked ∧ t.me.wait = .ballot d r.2)) ∧
      (r.1.stat ≠ .opened →
        Reaches (.gballot d a true) s (fun t => t.groupAt i = r.1 ∧ t.me.goesOn ∧ (d ≠ 0 → (t.reg d).v = r.1.word g.sib r.2 0))) ∧
      ((s.reg a).p = false → w.toNat < 2 ^ x.n →
        Reaches (.gcancel d a) s (fun t => (t.groupAt i).cxl = x.cxl ||| (w.extractLsb' 0 32 &&& ~~~ x.cxl &&& ~~~ x.retired) ∧
          (d ≠ 0 → (t.reg d).v = (w.extractLsb' 0 32 &&& ~~~ x.cxl &&& ~~~ x.retired).setWidth 64)))) ∧
    (∀ n slot sib, s.tenantOf s.me = some n → w = BitVec.ofNat 64 (slot + sib * 2 ^ 16) → (s.reg a).p = false → slot < 64 → sib < 32 →
      let x := s.groupAt (64 * n + slot)
      (x.stat = .free → Gives (.gstat d a var) s d 0 false) ∧
      (x.stat ≠ .free → sib < x.n → Gives (.gstat d a var) s d (State.statWord x sib var) false) ∧
      (x.stat ≠ .free → x.n ≤ sib → trapsPlainly s Cause.range = true → Traps (.gstat d a var) s Cause.range w)) ∧
    (∀ c f, s.cancels.find? (fun x => decide (x.core = c)) = some f → s.holder c = some f.gang →
      ((s.gangAt f.gang).any Gang.onCores = true →
        Reaches (.cancelArrival c) s (fun t => (t.coreAt c).cancel = true ∧ t.cancels = s.cancels.erase f)) ∧
      (∀ g, s.gangAt f.gang = some g → g.onCores = false →
        Reaches (.cancelArrival c) s (fun t => SameData s t ∧ t.cancels = s.cancels.erase f ∧
          ∃ g', t.gangAt f.gang = some g' ∧ g'.cxlLate = true))) ∧
    (w.toNat < 2 ^ 24 → (s.reg b).v.toNat < 2 ^ 32 → s.convoyBefore < 4 →
      let unit : Word := BitVec.ofNat 64 (toF32 .rne (Sys2Proof.Machine.Num.fin false (v.toNat / 2 ^ 40) (-24))).1
      let p := (s.reg a).p || (s.reg b).p
      (s.cancelled s.core s.ctx = false → Gives (.draw d a b true) s d v p ∧ Gives (.draw d a b false) s d unit p) ∧
      (s.cancelled s.core s.ctx = true → ∀ g i, s.gangOf s.me = some g → State.groupIndex g = some i → ∀ raw,
        Reaches (.draw d a b raw) s (fun t => t.me.goesOn ∧ (d ≠ 0 → t.reg d = ⟨if raw then v else unit, p || s.me.tnt⟩) ∧
          (t.groupAt i).cyc.get 0 g.sib = min ((s.groupAt i).cyc.get 0 g.sib + 7) (2 ^ 32 - 1) ∧
          ∀ sp q, t.localMem sp q = s.localMem sp q))) ∧
    (w.toNat < 2 ^ 24 → (s.reg b).v.toNat < 2 ^ 32 → 4 ≤ s.convoyBefore → ∀ raw,
      Reaches (.draw d a b raw) s (fun t => t.me.stat = .parked ∧ t.myCore.drawQ = s.myCore.drawQ ++ [s.ctx] ∧ SameData s t)) ∧
    (∀ c k raw, k ∈ (s.coreAt c).drawQ → (∀ j ∈ (s.coreAt c).drawQ, k ≤ j) → (s.thread c k).wait = .draw →
      (s.thread c k).held = some (.draw d a b raw) →
      Reaches (.drawAccept c k) s (fun t => (t.thread c k).goesOn ∧ k ∉ (t.coreAt c).drawQ ∧
        (d ≠ 0 → ((t.thread c k).reg d).v =
          drawResult raw (drawWord (s.thread c k).drawkey ((s.thread c k).reg a).v ((s.thread c k).reg b).v))))) ∧
  (∀ (k1 k2 a b : Word), drawWord k1 a b = drawWord k2 a b → k1 = k2)

/-! ## Launches and pages (spec/15, spec/20) -/

/-- R286, R290, R291, R302: LAUNCH of a record that passes its checks appends it to the gang's device queue and gives 0; in a
replayable superstep it is held; in an aborting gang it is discarded; a full queue gives 1 to LAUNCH.nb and traps QUEUE_FULL
otherwise. Both are releases and wait until nothing holds them back; a record and its descriptor are read after what other threads
have outstanding and published (R262, R269). LTRIG marks its thread as triggered, in a replayable superstep until the sealing collective. -/
def Obligations.LaunchAndTrigger : Prop :=
  ∀ (s : State) (d a : Reg) (nb : Bool), s.me.out = [] → s.posting = false →
    let ad := (s.reg a).v
    (∀ pa u h g words, (s.reg a).p = false → ad.toNat % 64 = 0 →
      (s.meetAs .device (fun _ => true)).checkGlobal .load ad.toNat = .ok (pa, u) →
      u.me.gang? = some h → u.gangOf u.me = some g →
      u.checkRecord g.tenant ((List.range 8).map (fun i => u.physWord (pa + 8 * i)))
        ((List.range 8).any (fun i => u.physPoison (pa + 8 * i))) true = .ok words →
      let answers (v : Word) (P : State → Prop) : Prop := Reaches (.launch d a nb) s (fun t => (d ≠ 0 → (t.reg d).v = v) ∧
        t.me.goesOn ∧ (∀ sp p, t.localMem sp p = u.localMem sp p) ∧ P t)
      (g.stat = .aborting → answers 0 (fun t => t.pool = u.pool)) ∧
      (g.stat ≠ .aborting → g.devq.length + g.heldRec.length < 16 →
        (g.replay = true → answers 0 (fun t => t.pool = u.pool ∧ ∃ g', t.gangAt h = some g' ∧ g'.heldRec = g.heldRec ++ [words])) ∧
        (g.replay = false → answers 0 (fun t => (∃ r : FRec, t.pool = u.pool ++ [r] ∧ r.words = words ∧ r.dev = some h ∧
          r.tenant = g.tenant ∧ r.seq = u.seq) ∧ t.seq = u.seq + 1 ∧ ∃ g', t.gangAt h = some g' ∧ g'.devq = g.devq ++ [u.seq]))) ∧
      (g.stat ≠ .aborting → 16 ≤ g.devq.length + g.heldRec.length →
        (nb = true → answers 1 (fun t => t.pool = u.pool)) ∧
        (nb = false → trapsPlainly u Cause.queueFull = true →
          ∃ t, exec (.launch d a nb) s = .next t ∧ Trapped u t Cause.queueFull 16))) ∧
    ((∀ g, s.gangOf s.me = some g → g.replay = false) → Reaches .ltrig s (fun t => t.me.trig = true ∧ t.me.goesOn ∧ SameData s t)) ∧
    (∀ g, s.gangOf s.me = some g → g.replay = true →
      Reaches .ltrig s (fun t => t.me.trigHeld = true ∧ t.me.trig = s.me.trig ∧ t.me.goesOn ∧ SameData s t))

/-- R339, R341, R343 to R346: PGREF takes one reference to a SHARED page, PGREL gives it back in the entry that the page has now and
releases the page with the last one; a poisoned operand traps with its value; PGMAP replaces an entry and gives the old one; TLBINV
starts an invalidation and retires; PGREL, PGMAP and TLBINV are releases, and what other threads have outstanding and published comes
before PGMAP and TLBINV (R265, R341). When one of the 16 invalidations in flight completes, no
cached translation that it covers is left, nor, for one of code, a fetched copy of a word of its pages, and its counter is posted to
or firmware is told of the released page. -/
def Obligations.PageInstructions : Prop :=
  ∀ (s : State) (d a b : Reg),
    let w := (s.reg a).v
    let count (e : Word) : Nat := (e.extractLsb' 48 16).toNat
    let plain (pa : Nat) : Prop := pa + 8 ≤ Config.cwinBase
    ((s.reg a).p = true → trapsPlainly s Cause.poisonConsumed = true →
      Traps (.pgref d a) s Cause.poisonConsumed w ∧ Traps (.pgrel d a) s Cause.poisonConsumed w) ∧
    (∀ u h g p e, (s.reg a).p = false → s.pageRead w.toNat = .ok u → u.inReplay = false → u.me.gang? = some h →
      u.gangOf u.me = some g → u.pageOf g.tenant w.toNat = some (p, e) → (e.extractLsb' 4 2).toNat ≠ 3 →
      ((e.extractLsb' 4 2).toNat = 1 → count e < 65535 → g.refs.length < 256 →
        ((∀ r ∈ g.refs, r.va ≠ p.va) → plain p.entry →
          Reaches (.pgref d a) s (fun t => (d ≠ 0 → (t.reg d).v = BitVec.ofNat 64 (count e + 1)) ∧
            count (t.physWord p.entry) = count e + 1 ∧ (t.physWord p.entry).extractLsb' 0 48 = e.extractLsb' 0 48 ∧
            ∃ g', t.gangAt h = some g' ∧ g'.refs = g.refs ++ [p])) ∧
        ((∃ r ∈ g.refs, r.va = p.va) →
          Reaches (.pgref d a) s (fun t => (d ≠ 0 → (t.reg d).v = BitVec.ofNat 64 (count e)) ∧ t.mem = s.mem))) ∧
      (∀ r, g.refs.find? (fun r => decide (r.va = p.va)) = some r → plain p.entry → u.me.out = [] → u.posting = false →
        let n := count (u.physWord p.entry)
        (2 ≤ n → Reaches (.pgrel d a) s (fun t => (d ≠ 0 → (t.reg d).v = BitVec.ofNat 64 (n - 1)) ∧
          count (t.physWord p.entry) = n - 1 ∧ t.invals = s.invals ∧ ∃ g', t.gangAt h = some g' ∧ g'.refs = g.refs.erase r)) ∧
        (n = 1 → Reaches (.pgrel d a) s (fun t => (d ≠ 0 → (t.reg d).v = 0) ∧ count (t.physWord p.entry) = 0 ∧
          ((t.physWord p.entry).extractLsb' 4 2).toNat = 3 ∧ t.invals = s.invals ++ [⟨g.tenant, some r.va, false, none, true⟩])))) ∧
    (∀ post, (s.reg a).p = false → (s.reg b).p = false → w.toNat < 2 ^ 52 → s.me.out = [] → s.posting = false → s.invals.length < 16 →
      (post = true → (s.reg b).v.toNat < 2 ^ 22 ∧
        s.inSubmesh (some (w.extractLsb' 48 4).toNat) ((s.reg b).v.toNat % 2 ^ 14) = true) →
      let u := s.meetAs .device (fun _ => true)
      let starts (i : Instr) (page : Option Nat) (code : Bool) : Prop := Reaches i s (fun t => SameData u t ∧ t.me.goesOn ∧
        t.invals = s.invals ++ [⟨(w.extractLsb' 48 4).toNat, page, code, if post then some (s.reg b).v.toNat else none, false⟩])
      starts (.tlbinvPage a b post) (some (w.extractLsb' 0 48).toNat) false ∧ starts (.tlbinvAll a b post) none true ∧
      starts (.tlbinvCode a b post) (some (w.extractLsb' 0 48).toNat) true) ∧
    (∀ lvl : BitVec 3, ∀ t pa, (s.reg a).p = false → (s.reg b).p = false → w.toNat < 2 ^ 52 →
      s.malformed (s.reg b).v lvl.toNat = false ∨ (s.reg b).v.extractLsb' 0 2 = 0 →
      s.tenantAt (w.extractLsb' 48 4).toNat = some t →
      s.entryAddr (w.extractLsb' 0 48).toNat [1, 2, 3, 4] lvl.toNat t.root = some pa → plain pa → s.me.out = [] →
      s.posting = false →
      let u := s.meetAs .device (fun _ => true)
      Reaches (.pgmap d a b lvl false) s (fun t => (d ≠ 0 → (t.reg d).v = u.physWord pa) ∧ t.physWord pa = (s.reg b).v) ∧
      Reaches (.pgmap d a b lvl true) s (fun t => (d ≠ 0 → (t.reg d).v = u.physWord pa) ∧
        ∀ x ∈ t.pend, x.tenant = (w.extractLsb' 48 4).toNat →
          let size := State.levelSize lvl.toNat
          let va := (w.extractLsb' 0 48).toNat / size * size
          x.va < va ∨ va + size ≤ x.va)) ∧
    ∀ k i, k < 16 → s.invals[k]? = some i → s.quiet i = true →
      let covered (x : Tlb) : Prop := x.tenant = i.tenant ∧ ∀ va, i.page = some va → x.va ≤ va ∧ va < x.va + x.size
      let done (e : Instr) (P : State → Prop) : Prop := Reaches e s (fun t => P t ∧
        t.invals = s.invals.take k ++ s.invals.drop (k + 1) ∧ SameData s t ∧
        (∀ c x, x ∈ (t.coreAt c).tlb ↔ x ∈ (s.coreAt c).tlb ∧ ¬ covered x) ∧
        (∀ c x, x ∈ (t.coreAt c).icache ↔ x ∈ (s.coreAt c).icache ∧ ¬ (i.code = true ∧ x.tenant = some i.tenant ∧
          ∀ va, i.page = some va → x.page ≤ va ∧ va < x.page + x.size)) ∧
        ∀ n x, x ∈ (t.spanAt n).tlb ↔ x ∈ (s.spanAt n).tlb ∧ ¬ covered x)
      (i.release = false → (∀ ct, i.post = some ct → done (.tlbinvComplete k) (fun t => ∃ p : PostFlight, t.posts = s.posts ++ [p] ∧
          p.core = ct % 2 ^ 14 ∧ p.idx = ct / 2 ^ 14 % 256 ∧ p.inc = 1)) ∧
        (i.post = none → done (.tlbinvComplete k) (fun t => t.posts = s.posts))) ∧
      (i.release = true → done (.pageReleaseComplete k) (fun t => ∃ m : Msg, t.notes = s.notes ++ [m] ∧
        m.payload = BitVec.ofNat 64 (i.page.getD 0) ∧ m.header.extractLsb' 0 16 = 0x0100))

/-! ## Supervisor instructions (spec/16, spec/18, spec/24) -/

/-- R309, R310: CTXSAVE.thr of a HALTED thread writes the 128 words of its record; CTXLOAD.thr takes them back; of a thread that
is not HALTED both give 1; what other threads have outstanding at the record, and what of the thread's registers stands in it after
a write-back, comes first; CTXSAVE.gang of a running gang with swap space starts its pre-emption, which waits while the gang
is rolled back (R329), and CTXLOAD.gang of a swapped
gang whose place is free its restore; each gives the state as it was with the acceptance bit. A CTXLOAD.gang of a SWAPPED gang whose
place is not free is accepted too: it gives 260, the gang stays SWAPPED, and its post is kept for the restore that the scheduler starts
later; that reading is the model's choice (log 18). R97, R309: what CTXLOAD.thr takes
from the words of a thread's own record is what the thread held: every register with its poison, predicates, counters, flags,
positions and special registers. -/
def Obligations.ContextSaveAndLoad : Prop :=
  (∀ (s : State) (d a b : Reg), (s.reg a).p = false → (s.reg b).p = false → s.me.out = [] → s.posting = false →
    s.me.stat = .issued →
    let w := (s.reg a).v
    (∀ c k, w.toNat < 2 ^ 31 → s.target w = .found c k →
      ((s.thread c k).stat ≠ .halted → Gives (.ctxsaveThr d a) s d 1 false ∧ Gives (.ctxloadThr d a) s d 1 false) ∧
      (∀ pa, (s.thread c k).stat = .halted → s.recordOf c k = some pa → pa + 1024 ≤ Config.cwinBase →
        let u := s.meetGlobal .device pa 1024
        let full := (s.coreAt c).evicted.foldl (fun (x : State) e => if e / 64 = k then x.fillRegister c e else x) u
        Reaches (.ctxsaveThr d a) s (fun t => (d ≠ 0 → (t.reg d).v = 0) ∧
          ∀ i, i < 128 → t.physWord (pa + 8 * i) = (full.thread c k).recordWord i) ∧
        Reaches (.ctxloadThr d a) s (fun t => (d ≠ 0 → (t.reg d).v = 0) ∧
          let x := (u.thread c k).loadRecord (fun i => u.physWord (pa + 8 * i))
          (∀ r, (t.thread c k).reg r = x.reg r) ∧ (t.thread c k).preds = x.preds ∧ (t.thread c k).pcBlk = x.pcBlk ∧
          (t.thread c k).pcOff = x.pcOff ∧ (t.thread c k).tpc = x.tpc ∧ (t.thread c k).stat = .halted ∧
          (t.thread c k).hashOk = decide (x.pcOff = 0) ∧ (∀ e ∈ (t.coreAt c).evicted, e / 64 ≠ k) ∧
          ∀ sp p, t.localMem sp p = u.localMem sp p))) ∧
    (∀ h g post, w = BitVec.ofNat 64 h → h < 1024 → s.gangAt h = some g → (post = true → (s.reg b).v.toNat < 2 ^ 22) →
      let target := if post then [(s.reg b).v.toNat] else []
      (∀ u, g.stat = .running → g.rolling = false → s.acceptPreempt h g target = some u →
        Reaches (.ctxsaveGang d a b post) s (fun t => (d ≠ 0 → (t.reg d).v = 257) ∧
          ∃ g', t.gangAt h = some g' ∧ g'.stat = .halting ∧ g'.post = target)) ∧
      (g.rolling = true → exec (.ctxsaveGang d a b post) s = .next (s.stall .order)) ∧
      (g.stat ≠ .running → g.rolling = false → Gives (.ctxsaveGang d a b post) s d (BitVec.ofNat 64 (s.gangCode h)) false) ∧
      (g.stat = .swapped → s.canRestore h g = true →
        Reaches (.ctxloadGang d a b post) s (fun t => (d ≠ 0 → (t.reg d).v = 260) ∧
          ∃ g', t.gangAt h = some g' ∧ g'.stat = .restoring ∧ g'.post = g.post ++ target)) ∧
      (g.stat = .swapped → s.canRestore h g = false →
        Reaches (.ctxloadGang d a b post) s (fun t => (d ≠ 0 → (t.reg d).v = 260) ∧
          ∃ g', t.gangAt h = some g' ∧ g'.stat = .swapped ∧ g'.post = g.post ++ target)) ∧
      (g.stat ≠ .swapped → Gives (.ctxloadGang d a b post) s d (BitVec.ofNat 64 (s.gangCode h)) false))) ∧
  (∀ t u : Thread, t.pcOff < 1024 → t.tpc.toNat < 2 ^ 42 → t.rmode &&& 0x3F03 = t.rmode →
    let x := u.loadRecord t.recordWord
    (∀ r, x.reg r = t.reg r) ∧ x.preds = t.preds ∧ x.c0 = t.c0 ∧ x.c1 = t.c1 ∧ x.c2 = t.c2 ∧ x.c3 = t.c3 ∧ x.tp = t.tp ∧
      x.ih = t.ih ∧ x.tnt = t.tnt ∧ x.rmode = t.rmode ∧ x.pcBlk = t.pcBlk ∧ x.pcOff = t.pcOff ∧ x.cause = t.cause ∧
      x.tpc = t.tpc ∧ x.tval = t.tval ∧ x.drawkey = t.drawkey ∧ x.stat = u.stat ∧ x.priv = u.priv)

/-- R330: INJECT writes the poison bit of a word and nothing else of it, forces a signature mismatch, clears the thread poison
flag or requests a halt of its target thread, and gives 0; a guarded or missing target answers 3 or 1 and nothing else happens.
R319, R331: SRET resumes a HALTED thread at its s.tpc, where the running hash starts afresh at
offset 0, goes on at the position of the halt and is broken elsewhere, at the word after it, or in its kernel's trap block, with every register kept;
or aborts its gang; a position past the block's end and a thread without a trap block answer 2, and a thread that is not HALTED
answers 1. -/
def Obligations.InjectAndSret : Prop :=
  (∀ (s : State) (d a : Reg), (s.reg a).p = false → s.me.out = [] → s.posting = false →
    let w := (s.reg a).v
    (∀ l, locOf w = some l → s.injectable l = true → l.space ≠ .gl ∨ inCwin l.addr = false →
      let u := s.meetAs .device (fun x => decide (x.space = l.space) && (decide (l.space = .gl) || decide (x.place = l.place)) &&
        decide (l.addr < x.addr + x.bytes) && decide (x.addr < l.addr + 8))
      let sets (i : Instr) (p : Bool) : Prop := Reaches i s (fun t => (d ≠ 0 → (t.reg d).v = 0) ∧
        (t.localMem l.space l.place).poison l.addr = p ∧
        ∀ j, (t.localMem l.space l.place).byte j = (u.localMem l.space l.place).byte j)
      sets (.injectPsn d a) true ∧ sets (.injectClr d a) false) ∧
    (w.toNat < 2 ^ 31 →
      (s.target w = .guarded → Gives (.injectSig d a) s d 3 false ∧ Gives (.injectTclr d a) s d 3 false ∧ Gives (.injectHalt d a) s d 3 false) ∧
      (s.target w = .missing → Gives (.injectSig d a) s d 1 false ∧ Gives (.injectTclr d a) s d 1 false ∧ Gives (.injectHalt d a) s d 1 false) ∧
      ∀ c k, s.target w = .found c k →
        let does (i : Instr) (P : Thread → Prop) : Prop := Reaches i s (fun t => (d ≠ 0 → (t.reg d).v = 0) ∧ P (t.thread c k) ∧
          ∀ r, c ≠ s.core ∨ k ≠ s.ctx → (t.thread c k).reg r = (s.thread c k).reg r)
        does (.injectSig d a) (fun x => x.forceMis = true) ∧ does (.injectTclr d a) (fun x => x.tp = false) ∧
        ((s.thread c k).stat ≠ .done → (s.thread c k).stat ≠ .halted → does (.injectHalt d a) (fun x => x.haltReq = true)) ∧
        ((s.thread c k).stat = .done → Gives (.injectHalt d a) s d 1 false))) ∧
  (∀ (s : State) (d a : Reg), (s.reg a).p = false → s.me.out = [] → s.posting = false → s.me.stat = .issued →
    let w := (s.reg a).v
    (∀ c k, w.toNat < 2 ^ 31 → s.target w = .found c k →
      let x := s.thread c k
      let answers (i : Instr) (v : Word) (P : State → Prop) : Prop := Reaches i s (fun t => (d ≠ 0 → (t.reg d).v = v) ∧ P t)
      let kept (t : State) : Prop := ∀ r, (t.thread c k).reg r = x.reg r
      (x.stat ≠ .halted → Gives (.sretRes d a) s d 1 false ∧ Gives (.sretSkip d a) s d 1 false ∧ Gives (.sretUser d a) s d 1 false ∧
        Gives (.sretAbort d a) s d 1 false) ∧
      (x.stat = .halted →
        (∀ len u, s.blockLength c (s.tenantOf x) (x.tpc.extractLsb' 0 32) = .ok (len, u) →
          let off := (x.tpc.extractLsb' 32 10).toNat
          let goes (i : Instr) (o : Nat) : Prop :=
            (o < len → answers i 0 (fun t => kept t ∧ (t.thread c k).stat = .ready ∧
              (t.thread c k).pcBlk = x.tpc.extractLsb' 0 32 ∧ (t.thread c k).pcOff = o ∧
              (o = 0 → (t.thread c k).hash = hashStart ∧ (t.thread c k).hashOk = true ∧ (t.thread c k).written = 0) ∧
              (o ≠ 0 → (t.thread c k).hashOk =
                (decide (x.haltAt = some ((x.tpc.extractLsb' 0 32), o)) && x.hashOk)))) ∧
            (len ≤ o → answers i 2 (fun t => kept t ∧ (t.thread c k).stat = .halted))
          goes (.sretRes d a) off ∧ goes (.sretSkip d a) (off + 1)) ∧
        (∀ g, s.gangOf x = some g →
          (g.trap ≠ 0 → x.ih = false → answers (.sretUser d a) 0 (fun t => kept t ∧ (t.thread c k).ih = true ∧
            (t.thread c k).pcBlk = g.trap ∧ (t.thread c k).pcOff = 0)) ∧
          (g.trap = 0 ∨ x.ih = true → Gives (.sretUser d a) s d 2 false)) ∧
        (∀ h g, x.gang? = some h → s.gangAt h = some g → g.stat = .running → g.rolling = false →
          answers (.sretAbort d a) 0 (fun t => ∃ g', t.gangAt h = some g' ∧ g'.stat = .aborting)))) ∧
    (∀ h, w = BitVec.ofNat 64 h → h < 1024 →
      (s.gangAt h = none → Gives (.sretAbortGang d a) s d 1 false) ∧
      ∀ g, s.gangAt h = some g → g.stat = .running → g.rolling = false →
        Reaches (.sretAbortGang d a) s (fun t => (d ≠ 0 → (t.reg d).v = 0) ∧ ∃ g', t.gangAt h = some g' ∧ g'.stat = .aborting)))

/-- R311, R382: TENSET.set installs the tenant that a valid record defines, with the counters of its cores 0 and its group slots
FREE, unless it is busy or overlaps another; TENSET.clr removes one that is not busy. LOCSET writes or clears one entry of the
expert location table and gives its old second word. The record and the entry image are read after what other threads have outstanding
and published (R265). -/
def Obligations.TenantAndLocationTables : Prop :=
  ∀ (s : State) (d a b : Reg), (s.reg a).p = false → (s.reg b).p = false → s.me.out = [] → s.posting = false →
    let w := (s.reg a).v
    let pa := (s.reg b).v.toNat
    (let u := s.meetAs .device (fun _ => true)
     let refused (i : Instr) : Prop := ∃ t, exec i s = .next t ∧ Result u t u.me d ⟨1, false⟩
     ∀ n, w = BitVec.ofNat 64 n → n < 16 →
      (u.tenantBusy n = true → refused (.tensetClr d a)) ∧
      (u.tenantBusy n = false → Reaches (.tensetClr d a) s (fun t => (d ≠ 0 → (t.reg d).v = 0) ∧ t.tenantAt n = none ∧
        (∀ m, m ≠ n → t.tenantAt m = s.tenantAt m) ∧ ∀ x, x < 256 → (t.spanAt x).tenant ≠ some n)) ∧
      (let words := (List.range 8).map (fun i => u.physWord (pa + 8 * i))
       pa % 64 = 0 → s.populatedRange pa 64 = true → (∀ i, i < 8 → u.physPoison (pa + 8 * i) = false) →
       (∀ i, i < 8 → (tenantOk words).getD i true = true) →
       (u.tenantBusy n = true ∨ u.overlapsTenant n (tenantFrom words) = true → refused (.tensetSet d a b)) ∧
       (u.tenantBusy n = false → u.overlapsTenant n (tenantFrom words) = false →
        Reaches (.tensetSet d a b) s (fun t => (d ≠ 0 → (t.reg d).v = 0) ∧ t.tenantAt n = some (tenantFrom words) ∧
          (∀ m, m ≠ n → t.tenantAt m = s.tenantAt m) ∧
          (∀ c i, (tenantFrom words).holdsSpan (spanOf c) = true → t.counterAt c i = 0) ∧
          (∀ k, k < 64 → (t.groupAt (64 * n + k)).stat = .free) ∧
          ∀ x, x < 256 → ((t.spanAt x).tenant = some n ↔ (tenantFrom words).holdsSpan x = true))))) ∧
    (∀ i, w = BitVec.ofNat 64 i → i < 4096 →
      let puts (e : Instr) (u : State) (w0 w1 : Word) : Prop := Reaches e s (fun t => (d ≠ 0 → (t.reg d).v = s.loc1.get 0 i) ∧
        t.loc0.get 0 i = w0 ∧ t.loc1.get 0 i = w1 ∧
        (∀ j, j ≠ i → t.loc0.get 0 j = s.loc0.get 0 j ∧ t.loc1.get 0 j = s.loc1.get 0 j) ∧ ∀ x q, t.localMem x q = u.localMem x q)
      puts (.locsetInv d a) s 0 0 ∧
      (let u := s.meetGlobal .device pa 16
       let w0 := u.physWord pa
       let w1 := u.physWord (pa + 8)
       pa % 16 = 0 → s.populated pa = true → u.physPoison pa = false → u.physPoison (pa + 8) = false → State.badEntry w0 w1 = none →
       ((w1.getLsbD 31 = false ∨ 24 ≤ (w1.extractLsb' 24 5).toNat ∨ (s.portAt (w1.extractLsb' 24 5).toNat).stat = .active) →
         puts (.locsetSet d a b) u w0 w1)))

/-! ## The scheduler (spec/15) -/

/-- R273, R275, R276, R385: a write of the enable register takes TENANT and PCAP, the size of the ring only while the queue is
disabled, and enables it only in READY with a size from 1 to 12; a size outside that range sets ERR with CODE 1. A write of
QPROD past the ring's capacity halts an enabled queue with CODE 5; that EIDX then is QCONS is the model's choice (log 40). Clearing ERR changes ERR alone. No other queue
changes. -/
def Obligations.HostQueueRegisters : Prop :=
  ∀ (s : State) (q : Nat) (v : Word),
    let x := s.queueAt q
    let becomes (i : Instr) (y : HostQueue) : Prop := Reaches i s (fun t =>
      t.queueAt q = y ∧ (∀ j, j ≠ q → t.queueAt j = s.queueAt j) ∧ t.mem = s.mem ∧ SameData s t)
    let y : HostQueue := { x with logsz := if x.en then x.logsz else (v.extractLsb' 0 4).toNat, tenant := (v.extractLsb' 4 4).toNat,
                                  pcap := (v.extractLsb' 8 3).toNat }
    let p : HostQueue := { x with qprod := v.extractLsb' 0 32 }
    (v.getLsbD 16 = false → becomes (.queueEnableWrite q v) { y with en := false }) ∧
    (v.getLsbD 16 = true → x.en = true → becomes (.queueEnableWrite q v) y) ∧
    (v.getLsbD 16 = true → x.en = false → s.mgmt.phase ≠ .ready → becomes (.queueEnableWrite q v) y) ∧
    (v.getLsbD 16 = true → x.en = false → s.mgmt.phase = .ready →
      (1 ≤ y.logsz → y.logsz ≤ 12 → becomes (.queueEnableWrite q v) { y with en := true }) ∧
      (y.logsz = 0 ∨ 12 < y.logsz → becomes (.queueEnableWrite q v) { y with err := true, code := 1, eidx := 0 })) ∧
    (x.en = true → x.err = false → 2 ^ x.logsz < (p.qprod - x.qcons).toNat →
      becomes (.qprodWrite q v) { p with err := true, code := 5, eidx := x.qcons }) ∧
    (x.en = false ∨ x.err = true ∨ (p.qprod - x.qcons).toNat ≤ 2 ^ x.logsz → becomes (.qprodWrite q v) p) ∧
    becomes (.queueErrClear q) { x with err := false }

/-- R274 to R276, R279 to R281: a fetch takes the slot at QCONS whole: a record that fails a check halts the queue with the
check's CODE at its index (that a ring read past its capacity gives CODE 5 at QCONS is the model's choice, log 40), one that passes joins the pool with the lower of its priority and PCAP; when its event is chosen (log
3), the first record of a priority that has waited 2^24 cycles becomes reserving, if none of that priority is; the candidates stand
by falling PRIO, records of one PRIO in the order of their fetches, and a record is one only as the first of its queue, with its
counter's test passed at some moment since it came there; the first candidate that no reserving record
keeps out, nor one that has waited as long and is about to be marked, is admitted: a copy record leaves the pool to run, a list starts to be walked at its address; a kernel's gangs start in
free spans, all together; a copy record that runs goes to the streamer that owns its source. -/
def Obligations.SchedulerSteps : Prop :=
  ∀ (s : State),
    let first (c : Cand) : Prop := (s.candidates.filter (fun c => !s.keptOut s.heads c)).head? = some c
    (s.candidates.Pairwise (fun x y => y.prio < x.prio ∨ (x.prio = y.prio ∧
      ∀ r, x = .record r → ∃ r', y = .record r' ∧ r.seq ≤ r'.seq))) ∧
    (∀ r, .record r ∈ s.candidates ↔ r ∈ s.heads) ∧
    (∀ r, r ∈ s.heads → r ∈ s.pool ∧
      (∀ q, r.dev = none → r.list = none → r.q.map (·.1) = some q → s.pool.find? (fun y => decide (y.q.map (·.1) = some q)) = some r) ∧
      (∀ h, r.q = none → r.dev = some h → s.pool.find? (fun y => decide (y.dev = some h)) = some r) ∧
      (r.passed = false → (r.words.getD 5 0).getLsbD 22 = true →
        0 ≤ (s.counterAt ((r.words.getD 5 0).extractLsb' 0 14).toNat ((r.words.getD 5 0).extractLsb' 14 8).toNat -
          (r.words.getD 5 0).extractLsb' 32 32).toInt)) ∧
    (∀ q, let x := s.queueAt q
      let at_ := x.qbase + 64 * (x.qcons.toNat % 2 ^ x.logsz)
      let slot := (List.range 8).map (fun i => s.physWord (at_ + 8 * i))
      let check := s.checkRecord x.tenant slot ((List.range 8).any (fun i => s.physPoison (at_ + 8 * i))) false
      s.mgmt.phase = .ready → x.en = true → x.err = false → x.qcons ≠ x.qprod → s.unadmitted q < 16 →
        (2 ^ x.logsz < (x.qprod - x.qcons).toNat → Reaches (.recordFetch q) s (fun t =>
          t.queueAt q = { x with err := true, code := 5, eidx := x.qcons } ∧ t.pool = s.pool)) ∧
        ((x.qprod - x.qcons).toNat ≤ 2 ^ x.logsz →
          (∀ e, check = .error e → Reaches (.recordFetch q) s (fun t =>
            t.queueAt q = { x with qcons := x.qcons + 1, err := true, code := e.1, eidx := x.qcons } ∧ t.pool = s.pool)) ∧
          ∀ w, check = .ok w → Reaches (.recordFetch q) s (fun t => t.queueAt q = { x with qcons := x.qcons + 1 } ∧
            ∃ r : FRec, t.pool = s.pool ++ [r] ∧ r.words = w ∧ r.q = some (q, x.qcons.toNat) ∧ r.seq = s.seq ∧ r.tenant = x.tenant ∧
              r.prio = min ((blkWord w 4).extractLsb' 30 3).toNat x.pcap ∧ r.since = none ∧ r.reserving = false))) ∧
    (∀ r since, r ∈ s.heads → s.heads.find? (fun y => y.seq = r.seq) = some r → r.since = some since → since + 2 ^ 24 ≤ s.clock →
      (∀ y ∈ s.pool, y.prio = r.prio → y.reserving = false) →
      (∀ y ∈ s.heads, y.prio = r.prio →
        ∀ n, y.since = some n → n + 2 ^ 24 ≤ s.clock → r.seq ≤ y.seq) →
      Reaches (.recordReserving r.seq) s (fun t =>
        t.pool = s.pool.map (fun y => if y.seq = r.seq then { y with reserving := true } else y))) ∧
    (∀ r, first (.record r) → r.dev = none →
      (recKind r.words = 1 ∨ recKind r.words = 2 ∨ recKind r.words = 3 → Reaches .admission s (fun t =>
        t.copies = s.copies ++ [r] ∧ t.pool = s.pool.filter (fun y => decide (y.seq ≠ r.seq)))) ∧
      (∀ q, recKind r.words = 4 → r.q = some q → Reaches .admission s (fun t =>
        t.pool = s.pool.filter (fun y => decide (y.seq ≠ r.seq)) ∧
        ∃ w : Walker, t.walkers = s.walkers ++ [w] ∧ w.q = q.1 ∧ w.idx = q.2 ∧ w.pc = ((blkWord r.words 0).extractLsb' 0 48).toNat ∧
          w.tenant = r.tenant ∧ w.stack = [] ∧ w.images = [] ∧ w.subs = [])) ∧
      (recKind r.words = 0 → (s.admitKernel r).isSome = true → Reaches .admission s (fun t =>
        ∃ l : Launch, t.launches = s.launches ++ [l] ∧ l.words = r.words ∧ l.handles.length = recN r.words ∧ l.handles.Nodup ∧
          ∀ i h, l.handles[i]? = some h → s.gangAt h = none ∧ ∃ g, t.gangAt h = some g ∧ g.stat = .starting ∧ g.index = i ∧
            g.tenant = r.tenant ∧ g.gw = recGw r.words ∧ g.gh = recGh r.words ∧
            ∀ n ∈ g.spans, (s.spanAt n).gang = none ∧ (t.spanAt n).gang = some h))) ∧
    (∀ out, s.preemptChoice = some out → Reaches .schedulerPreempt s (fun t =>
      (∀ e ∈ out, ∃ g, t.gangAt e.1 = some g ∧ g.stat = .halting) ∧ ∀ h, (∀ e ∈ out, e.1 ≠ h) → t.gangAt h = s.gangAt h)) ∧
    ∀ c seq, s.copies.find? (fun c => c.seq = seq && !c.sent) = some c → Reaches (.copyRecordRun seq) s (fun t =>
      t.copies = s.copies.map (fun y => if y.seq = seq then { y with sent := true } else y) ∧
      let n := s.ownerSpan (some c.tenant) (blkWord c.words 8)
      ∃ r : Req, (t.spanAt n).queue = (s.spanAt n).queue ++ [r] ∧ r.blk = c.words.drop 8 ∧ r.host = some seq ∧
        r.tenant = some c.tenant ∧ r.rm = 0)

/-- R287 to R289, R276: each entry of a list does what its OP says and, but for a jump, a call, a return and a skip, goes on at the
next entry: a wait stays until its counter has reached its value; a fence stays until the launches that the list submitted are complete
(R282, R288). That a wait and a skip also hold while a post of the list itself to what they read is under way, and that a fence also
stays until every post of its tenant's other records has been performed, are the model's choices (log 5): R282 and R288 ask for the
list's launches alone. A call deeper than eight, a bad target, an unreadable word of
SKIPIF and an image action with a reserved bit fail the list with CODE 6 (R289); a poisoned image fails it with CODE 2 and an
untranslated one with CODE 4, by the rows of R276 that name images, since R289 names neither: that reading is the model's (log 16).
The last return ends the list and posts its DCT; LAUNCH submits a record that its check passes, with the images attached before. -/
def Obligations.ListEntries : Prop :=
  ∀ (s : State) (w : Walker) (e : List Word), s.walker? = some w → s.listEntry w = some e →
    let target := ((blkWord e 0).extractLsb' 4 22).toNat
    let core := target % 2 ^ 14
    let addr := ((blkWord e 1).extractLsb' 0 48).toNat
    let inside := s.inSubmesh (some w.tenant) core
    let moves (t : State) (f : Walker → Walker) : Prop := t.walkers = s.walkers.map (fun y => if y.id = s.walker then f y else y)
    let onward (t : State) : Prop := moves t (fun y => { y with pc := w.pc + 32 })
    let fails (t : State) (code : Nat) : Prop := t.walkers = s.walkers.filter (fun y => decide (y.id ≠ s.walker)) ∧
      t.queueAt w.q = { s.queueAt w.q with err := true, code := code, eidx := BitVec.ofNat 32 w.idx }
    let op (n : Nat) : Prop := (blkWord e 0).extractLsb' 0 4 = BitVec.ofNat 4 n
    -- a post of the list to a counter is under way
    let posting (c i : Nat) : Prop := ∃ x ∈ s.posts, x.rec_ = some w.id ∧ x.core = c ∧ x.idx = i
    -- the word of SKIPIF is such a counter
    let held : Prop := ∃ pa, s.tenantAddr w.tenant addr = some pa ∧ inCwin pa = true ∧
      posting ((pa - Config.cwinBase) / 2048) ((pa - Config.cwinBase) / 8 % 256)
    let finished : Prop := w.subs = [] ∧ ∀ x ∈ s.posts, x.rec_ = none ∨ x.rec_ = some w.id ∨ x.tenant ≠ some w.tenant
    (op 1 → ∀ r, s.tenantWords w.tenant addr 8 = some (r, false) → recKind r ≤ 3 → (w.images ≠ [] → recKind r = 0) →
      (∀ x ∈ w.images, x.1 < recTbls r) →
      (∀ words, s.checkRecord w.tenant r false false = .ok words → Reaches .listLaunch s (fun t =>
        moves t (fun y => { y with pc := y.pc + 32, images := [], subs := y.subs ++ [s.seq] }) ∧
        ∃ x : FRec, t.pool = s.pool ++ [x] ∧ x.words = words ∧ x.q = some (w.q, w.idx) ∧ x.list = some w.id ∧ x.images = w.images ∧
          x.seq = s.seq ∧ x.prio = min (recPrio words) (s.queueAt w.q).pcap)) ∧
      (∀ c, s.checkRecord w.tenant r false false = .error c → Reaches .listLaunch s (fun t => fails t 6))) ∧
    (op 2 →
      (inside = true → posting core (target / 2 ^ 14) → exec .listWaitc s = .next s) ∧
      (inside = true → ¬ posting core (target / 2 ^ 14) → 0 ≤ (s.counterAt core (target / 2 ^ 14) - (blkWord e 1).extractLsb' 0 32).toInt →
        Reaches .listWaitc s onward) ∧
      (inside = true → (s.counterAt core (target / 2 ^ 14) - (blkWord e 1).extractLsb' 0 32).toInt < 0 →
        exec .listWaitc s = .next s) ∧
      (inside = false → Reaches .listWaitc s (fun t => fails t 6))) ∧
    (op 3 → held → exec .listSkipif s = .next s) ∧
    (op 3 → ¬ held → ∀ v c, s.tenantWords w.tenant addr 1 = some ([v], false) → ICond.ofBits ((blkWord e 0).extractLsb' 4 3) = some c →
      Reaches .listSkipif s (fun t => moves t (fun y =>
        { y with pc := w.pc + 32 + if icond c v (blkWord e 2) then 32 * ((blkWord e 0).extractLsb' 8 8).toNat else 0 }))) ∧
    (op 3 → ¬ held → ∀ v, s.tenantWords w.tenant addr 1 = some (v, true) → Reaches .listSkipif s (fun t => fails t 6)) ∧
    (op 3 → ¬ held → s.tenantWords w.tenant addr 1 = none → Reaches .listSkipif s (fun t => fails t 6)) ∧
    (op 4 → Reaches .listJump s (fun t => moves t (fun y => { y with pc := addr }))) ∧
    (op 5 →
      (w.stack.length < 8 → Reaches .listCall s (fun t => moves t (fun y => { y with pc := addr, stack := (y.pc + 32) :: y.stack }))) ∧
      (8 ≤ w.stack.length → Reaches .listCall s (fun t => fails t 6))) ∧
    (op 6 →
      (∀ a r, w.stack = a :: r → Reaches .listRet s (fun t => moves t (fun y => { y with pc := a, stack := r }))) ∧
      (w.stack = [] → Reaches .listRet s (fun t => t.walkers = s.walkers.filter (fun y => decide (y.id ≠ s.walker)) ∧
        t.queueAt w.q = s.queueAt w.q ∧
        t.posts = s.posts ++ if (blkWord w.words 6).getLsbD 22 then
          [⟨some w.tenant, none, none, some w.id, ((blkWord w.words 6).extractLsb' 0 14).toNat, ((blkWord w.words 6).extractLsb' 14 8).toNat, 1⟩]
          else []))) ∧
    (op 7 →
      (inside = true → Reaches .listPost s (fun t => onward t ∧
        t.posts = s.posts ++ [⟨some w.tenant, none, none, some w.id, core, target / 2 ^ 14, (blkWord e 1).extractLsb' 0 32⟩])) ∧
      (inside = false → Reaches .listPost s (fun t => fails t 6))) ∧
    (op 8 → (finished → Reaches .listFence s onward) ∧ (¬ finished → exec .listFence s = .next s)) ∧
    (op 9 →
      (8 ≤ w.images.length → Reaches .listTable s (fun t => fails t 6)) ∧
      (w.images.length < 8 →
        (s.tenantWords w.tenant addr 192 = none → Reaches .listTable s (fun t => fails t 4)) ∧
        (∀ img, s.tenantWords w.tenant addr 192 = some (img, true) → Reaches .listTable s (fun t => fails t 2)) ∧
        (∀ img, s.tenantWords w.tenant addr 192 = some (img, false) →
          (∃ i, i < 64 ∧ (blkWord img (3 * i + 2)).extractLsb' 55 9 ≠ 0) → Reaches .listTable s (fun t => fails t 6)) ∧
        ∀ img, s.tenantWords w.tenant addr 192 = some (img, false) →
          (∀ i, i < 64 → (blkWord img (3 * i + 2)).extractLsb' 55 9 = 0) →
          Reaches .listTable s (fun t => moves t (fun y =>
            { y with pc := y.pc + 32, images := y.images ++ [(((blkWord e 0).extractLsb' 4 3).toNat, img)] }))))

/-! ## The life of a gang (spec/16) -/

/-- R299 to R301, R304, R305, R307: a start clears the gang's buffers, scratchpads and context records and starts its first
threads at the entry block with its argument; a retirement frees its contexts, spans and handle; once a halting gang stands
still it starts swapping, rolled back first to the collective that opened a replayable superstep, unless a rollback has just ended
(R304, R329); a swap keeps its buffers and scratchpads in its image and frees its place; a restore takes them back,
with the stall timer at 0. What a supervisor thread has in the vector engine or waiting for the draw unit of a core stays through all
of these (R92), and a gang retires only once its posts have been performed (R282). -/
def Obligations.GangLifecycle : Prop :=
  ∀ (s : State) (h : Nat) (g : Gang), s.gangAt h = some g →
    let gone (t : State) : Prop := (∀ n ∈ g.spans, (t.spanAt n).gang = none) ∧
      ∀ c ∈ g.cores, ∀ k, (t.thread c k).owner ≠ .gang h
    let supStays (t : State) : Prop := ∀ c, (∀ j ∈ (s.coreAt c).vec, (s.thread c j.ctx).owner = .sup → j ∈ (t.coreAt c).vec) ∧
      ∀ k ∈ (s.coreAt c).drawQ, (s.thread c k).owner = .sup → k ∈ (t.coreAt c).drawQ
    (g.stat = .starting → g.abortLate = false → g.replay = false → Reaches (.gangStart h) s (fun t =>
      (∃ g', t.gangAt h = some g' ∧ g'.stat = .running) ∧
      (∀ c ∈ g.cores, (t.coreAt c).wbuf = .empty ∧ (t.coreAt c).abuf = .empty ∧ (t.coreAt c).cbuf = .empty ∧ (t.coreAt c).mail = [] ∧
        (t.coreAt c).rings = []) ∧
      (∀ n ∈ g.spans, (t.spanAt n).sp = .empty) ∧
      (∀ j, t.mem.byte j = if g.recs.1 ≤ j ∧ j < g.recs.1 + g.recs.2 then 0 else s.mem.byte j) ∧
      ∀ c ∈ g.cores, ∀ k ∈ (State.ctxsOf (s.coreAt c) h).take g.start,
        ((t.thread c k).stat = .ready ∨ (t.thread c k).stat = .trapped) ∧ (t.thread c k).owner = .gang h ∧
        (t.thread c k).priv = false ∧ (t.thread c k).pcBlk = g.entry ∧ (t.thread c k).pcOff = 0 ∧
        (t.thread c k).reg (Reg.o 0) = ⟨g.arg, false⟩)) ∧
    (g.stat = .starting → g.abortLate = false → Reaches (.gangStart h) s supStays) ∧
    (g.stat = .draining ∨ g.stat = .aborting → s.gangRequests h = false →
      (∀ p ∈ s.posts, p.gang ≠ some h) →
      (∀ x ∈ s.threadsOn h g.cores, (s.thread x.1 x.2).stat = .free) →
      Reaches (.gangRetire h) s (fun t => t.gangAt h = none ∧ gone t ∧ supStays t)) ∧
    (g.stat = .halting → g.rolling = false → s.halted h g = true → Reaches (.preemptHalt h) s (fun t =>
      (∃ g', t.gangAt h = some g' ∧ g'.stat = .swapping) ∧
      (g.replay = false ∨ g.rolled = true → t.mem = s.mem ∧ SameData s t) ∧
      ∀ img, g.replay = true → g.rolled = false → g.snap = some img →
        (∀ c ∈ g.cores, (t.coreAt c).wbuf = (img.cores.get Core.idle c).wbuf ∧ (t.coreAt c).abuf = (img.cores.get Core.idle c).abuf ∧
          (t.coreAt c).cbuf = (img.cores.get Core.idle c).cbuf) ∧
        (∀ n ∈ g.spans, (t.spanAt n).sp = (img.spans.get Span.idle n).sp) ∧
        ∀ a, (∀ e ∈ img.recs, a < e.1 ∨ e.1 + 8 ≤ a) → t.mem.byte a = s.mem.byte a)) ∧
    (g.stat = .swapping → g.abortLate = false → Reaches (.swapOut h) s (fun t => gone t ∧ supStays t ∧
      t.posts = s.posts ++ g.post.map (fun ct => ⟨none, none, none, none, ct % 2 ^ 14, ct / 2 ^ 14 % 256, 1⟩) ∧
      ∃ g' img, t.gangAt h = some g' ∧ g'.stat = .swapped ∧ g'.post = [] ∧ g'.image = some img ∧
        (∀ c ∈ g.cores, (img.cores.get Core.idle c).wbuf = (s.coreAt c).wbuf ∧ (img.cores.get Core.idle c).abuf = (s.coreAt c).abuf ∧
          (img.cores.get Core.idle c).cbuf = (s.coreAt c).cbuf ∧ (img.cores.get Core.idle c).mail = (s.coreAt c).mail) ∧
        ∀ n ∈ g.spans, (img.spans.get Span.idle n).sp = (s.spanAt n).sp)) ∧
    (∀ img, g.stat = .restoring → g.image = some img → g.abortLate = false → g.cxlLate = false → Reaches (.swapIn h) s (fun t =>
      (∃ g', t.gangAt h = some g' ∧ (g'.stat = .running ∨ g'.stat = .draining) ∧ g'.stall = 0 ∧ g'.image = none ∧ g'.slots = []) ∧
      (∀ c ∈ g.cores, (t.coreAt c).wbuf = (img.cores.get Core.idle c).wbuf ∧ (t.coreAt c).abuf = (img.cores.get Core.idle c).abuf ∧
        (t.coreAt c).cbuf = (img.cores.get Core.idle c).cbuf ∧ (t.coreAt c).mail = (img.cores.get Core.idle c).mail) ∧
      (∀ n ∈ g.spans, (t.spanAt n).sp = (img.spans.get Span.idle n).sp ∧ (t.spanAt n).gang = some h) ∧ t.mem = s.mem))

/-! ## Viaduct ports and the host (spec/24, spec/25) -/

/-- R369 to R372, R385: from LINKUP on, an enabled port that detects a signal trains from DESKEW over EQUALISE to EXCHANGE, where it
sends its capability record; 940,000 cycles in DESKEW or EQUALISE take it to DOWN; a record of version 1 from another device is
accepted, with compression when both have offered it and CMPEN is 1, and the port is ACTIVE once its own record is accepted too; any other record, a loss
of signal, a disable and a retrain take it to DOWN, and leaving ACTIVE sets DOWNEV; a good flit in sequence is accepted, any other is
refused and counted, and after sixteen failed retries in a row the port is DOWN. That the first SEQ of both
directions is 0 (log 21), and that a flit is accepted by a credit flit, which may ask for the others again from the first, how failed
retries are counted, that the reserved bits of a record are ignored and that a port becomes ACTIVE only once its own record has been
accepted (log 34), are the model's choices. -/
def Obligations.PortTraining : Prop :=
  ∀ (s : State) (p : Nat),
    let x := s.portAt p
    let enters (i : Instr) (st : PStat) : Prop := Reaches i s (fun t => (t.portAt p).stat = st ∧ (t.portAt p).since = s.clock ∧
      t.mem = s.mem ∧ SameData s t)
    let falls (i : Instr) : Prop := Reaches i s (fun t => (t.portAt p).stat = .down ∧ (t.portAt p).reqs = [] ∧ (t.portAt p).fwd = [] ∧
      (t.portAt p).downev = (x.downev || decide (x.stat = .active)) ∧ t.mem = s.mem)
    let caps (l : List (List Byte)) : Prop := ∃ f ∈ l, flitType f = 5
    (p < 24 → x.stat = .down → x.en = true →
      (s.mgmt.phase = .linkup ∨ s.mgmt.phase = .ready → enters (.portSignalDetect p) .deskew ∧ Reaches (.portSignalDetect p) s (fun t =>
        (t.portAt p).txSeq = 0 ∧ (t.portAt p).rxSeq = 0)) ∧
      (s.mgmt.phase ≠ .linkup → s.mgmt.phase ≠ .ready → exec (.portSignalDetect p) s = .next s)) ∧
    (x.stat = .deskew →
      (s.clock < x.since + 940000 → enters (.laneAligned p) .equalise ∧ exec (.deskewTimeout p) s = .next s) ∧
      (x.since + 940000 ≤ s.clock → falls (.laneAligned p) ∧ falls (.deskewTimeout p))) ∧
    (x.stat = .equalise →
      (s.clock < x.since + 940000 → enters (.equaliseSettled p) .exchange ∧ exec (.equaliseTimeout p) s = .next s ∧
        Reaches (.equaliseSettled p) s (fun t => (t.portAt p).offered = x.cmpen ∧ ∃ w : Word,
          (t.portAt p).sent = x.sent ++ [mkFlit 5 x.txSeq (wordBytes [w, 0, 0, 0, 0, 0, 0])] ∧ w.extractLsb' 0 16 = 1 ∧
          (p < 24 → w.extractLsb' 16 16 = s.devnum ∧ w.extractLsb' 32 5 = BitVec.ofNat 5 p ∧ w.getLsbD 37 = x.cmpen ∧
            w.getLsbD 38 = true ∧ w.extractLsb' 39 25 = 0))) ∧
      (x.since + 940000 ≤ s.clock → falls (.equaliseSettled p) ∧ falls (.equaliseTimeout p))) ∧
    (∀ w, x.stat = .exchange → x.inCaps.head? = some w →
      (w.extractLsb' 0 16 = 1 → w.extractLsb' 16 16 ≠ s.devnum →
        (¬ caps x.unacked → enters (.capabilityRecord p w) .active) ∧
        (caps x.unacked → Reaches (.capabilityRecord p w) s (fun t => (t.portAt p).stat = .exchange)) ∧
        Reaches (.capabilityRecord p w) s (fun t => (t.portAt p).pdev = w.extractLsb' 16 16 ∧ (t.portAt p).pport = w.extractLsb' 32 5 ∧
          (t.portAt p).cmp = (w.getLsbD 37 && x.offered && x.cmpen) ∧ (t.portAt p).mx = w.getLsbD 38 ∧ (t.portAt p).capOk = true)) ∧
      (w.extractLsb' 0 16 ≠ 1 ∨ w.extractLsb' 16 16 = s.devnum → falls (.capabilityRecord p w))) ∧
    (x.stat = .active → falls (.signalLoss p)) ∧
    (p < 24 → Reaches (.portEnWrite p true) s (fun t => t.portAt p = { x with en := true }) ∧
      (x.stat ≠ .down → falls (.portEnWrite p false)) ∧ Reaches (.portEnWrite p false) s (fun t => (t.portAt p).en = false)) ∧
    (s.mgmt.phase = .ready → x.stat ≠ .down → falls (.portRetrain p)) ∧
    (∀ f, x.stat = .active ∨ x.stat = .exchange →
      (flitGood f = true → flitSeq f = x.rxSeq →
        Reaches (.flitReceive p f) s (fun t => (t.portAt p).rxSeq = (x.rxSeq + 1) % 4096 ∧ (t.portAt p).fails = 0 ∧
          (t.portAt p).retries = x.retries ∧ (flitType f ≠ 4 → (t.portAt p).stat = x.stat) ∧
          (flitType f = 3 → (t.portAt p).inAcks = x.inAcks ++ [(BitVec.ofNat 64 (ofBytes ((padTo 16 (flitPayload f)).take 8)),
            BitVec.ofNat 64 (ofBytes (((padTo 16 (flitPayload f)).drop 8).take 8)))])) ∧
        (flitType f = 4 →
          let m := Config.creditMeaning (flitPayload f)
          let rest := x.unacked.drop m.1
          Reaches (.flitReceive p f) s (fun t => (t.portAt p).unacked = rest ∧
            (t.portAt p).sent = (if m.2 then x.sent ++ rest else x.sent) ∧
            (x.stat = .exchange → ((t.portAt p).stat = .active ↔ x.capOk = true ∧ ¬ caps rest))))) ∧
      (flitGood f = false ∨ flitSeq f ≠ x.rxSeq →
        (x.fails < 16 → Reaches (.flitReceive p f) s (fun t => (t.portAt p).retries = min (x.retries + 1) 65535 ∧
          (t.portAt p).fails = x.fails + 1 ∧ (t.portAt p).stat = x.stat ∧ (t.portAt p).rxSeq = x.rxSeq ∧
          ∃ l, (t.portAt p).sent = x.sent ++ [mkFlit 4 x.txSeq l])) ∧
        (16 ≤ x.fails → falls (.flitReceive p f))))

/-- R376: a remote write of one word that comes in whole at an ACTIVE port writes the bytes at the address that its tenant's
translation gives, no other byte, and is acknowledged with status OK and the number of bytes; an acknowledgement completes the
request that has its number: a message with its payload, tag, status and ticket reaches the mailbox of the core that kicked it. -/
def Obligations.RemoteRequests : Prop :=
  ∀ (s : State) (p : Nat), (s.portAt p).stat = .active →
    (∀ hdr data pa s1, (s.portAt p).inReqs.head? = some (hdr, data) →
      let h := Header.ofWords hdr
      h.cmp = false → h.exp = false → h.addmx = false → h.len = 8 → h.addr % 8 = 0 → 8 ≤ data.length →
      s.spanTranslate (State.portSpan p) (some h.tenant) h.addr .write = .ok (pa, s1) → inCwin pa = false →
      Reaches (.remoteRequest p hdr data) s (fun t =>
        (∀ j, t.mem.byte j = if pa ≤ j ∧ j < pa + 8 then data.getD (j - pa) 0 else s.mem.byte j) ∧
        (t.portAt p).inReqs = (s.portAt p).inReqs.tail ∧ SameData { s with mem := t.mem } t ∧
        (t.portAt p).sent = (s.portAt p).sent ++ [mkFlit 3 (s.portAt p).txSeq (wordBytes [h.num.setWidth 64, 8, 0, 0, 0, 0, 0])])) ∧
    (∀ w0 w1 r, (s.portAt p).inAcks.head? = some (w0, w1) →
      (s.portAt p).fwd.find? (fun f => decide (f.num = w0.extractLsb' 0 32)) = none →
      (s.portAt p).reqs.find? (fun r => decide (r.num = w0.extractLsb' 0 32)) = some r →
      r.req.kind = .remPut → r.req.host = none → r.late = none →
      Reaches (.remoteAck p w0 w1) s (fun t => t.mem = s.mem ∧ (t.portAt p).inAcks = (s.portAt p).inAcks.tail ∧
        (t.portAt p).reqs = (s.portAt p).reqs.filter (fun y => decide (y.num ≠ r.num)) ∧
        (t.spanAt r.span).running = (s.spanAt r.span).running.erase r.req ∧
        ∃ m : Msg, (t.coreAt r.req.core).mail = (s.coreAt r.req.core).mail ++ [m] ∧ m.payload = w1 ∧
          m.header.extractLsb' 0 16 = r.req.tag ∧ m.header.extractLsb' 16 5 = w0.extractLsb' 32 5 ∧ m.header.extractLsb' 21 3 = 3 ∧
          m.header.extractLsb' 32 32 = r.req.ticket))

/-- R268, R318, R383: the host reads and writes its own memory, which the device reaches over CXL.cache; it reads and writes HBM by physical address while the link is up: a read gives the bytes and whether
a word of them is poisoned; a write changes its bytes alone, and a word it covers whole is clean after; past the end of HBM a
read gives poisoned zeros, a write is dropped, and both are reported. That the host's own memory stands from hostBase to hostEnd and is
read and written by these events, also while the link is down, is the model's choice (log 25). -/
def Obligations.HostAccesses : Prop :=
  ∀ (s : State) (pa n : Nat) (data : List Byte),
    (s.cxlUp = true →
      (0 < n → pa + n ≤ Config.hbmEnd → Reaches (.hostMemRead pa n) s (fun t => t.mem = s.mem ∧ t.reply.1.length = n ∧
        (∀ i, i < n → t.reply.1.getD i 0 = s.mem.byte (pa + i)) ∧
        (t.reply.2 = true ↔ ∃ j, pa ≤ j ∧ j < pa + n ∧ s.mem.poison j = true))) ∧
      (Config.hbmEnd < pa + n → pa < Config.hostBase ∨ Config.hostEnd < pa + n → Reaches (.hostMemRead pa n) s (fun t => t.mem = s.mem ∧ t.reply = (List.replicate n 0, true) ∧
        t.reports = s.reports ++ [.cxlRead pa])) ∧
      (data ≠ [] → pa + data.length ≤ Config.hbmEnd → Reaches (.hostMemWrite pa data) s (fun t =>
        (∀ j, t.mem.byte j = if pa ≤ j ∧ j < pa + data.length then data.getD (j - pa) 0 else s.mem.byte j) ∧
        (∀ j, t.mem.poison j = (s.mem.poison j && !(decide (pa ≤ j / 8 * 8) && decide (j / 8 * 8 + 8 ≤ pa + data.length)))) ∧
        SameData { s with mem := t.mem } t)) ∧
      (data ≠ [] → Config.hbmEnd < pa + data.length → pa < Config.hostBase ∨ Config.hostEnd < pa + data.length → Reaches (.hostMemWrite pa data) s (fun t => t.mem = s.mem ∧
        t.reports = s.reports ++ [.cxlWrite pa]))) ∧
    (Config.hostBase ≤ pa → pa + n ≤ Config.hostEnd → Reaches (.hostMemRead pa n) s (fun t => t.mem = s.mem ∧ t.reply.1.length = n ∧
      ∀ i, i < n → t.reply.1.getD i 0 = s.mem.byte (pa + i))) ∧
    (Config.hostBase ≤ pa → pa + data.length ≤ Config.hostEnd → Reaches (.hostMemWrite pa data) s (fun t =>
      (∀ j, t.mem.byte j = if pa ≤ j ∧ j < pa + data.length then data.getD (j - pa) 0 else s.mem.byte j) ∧
      SameData { s with mem := t.mem } t)) ∧
    Reaches .cxlLinkDown s (fun t => t.cxlUp = false ∧ t.mem = s.mem ∧ SameData s t)

/-- R92, R385 to R387, R390: each phase of bring-up follows the one before it when its check passes, and leaves the device in FAIL
with its code when it fails: an image is accepted only with the right magic, kind, length, key digest, body digest, signature and
version (SM3 and SM2 as their standards give them, log 7); READY places the firmware and starts the first supervisor thread at its first block with its length; a
reset starts over and keeps memory (the model's choice, log 41), and power loss loses the module's memory, which then reads 0 and clean
(the model's choice, log 1), and keeps the host's own, which is not the module's (the model's choice, log 25). That READY leaves the poison of the words that the firmware is placed over is the model's choice too (log 41), and so
is the table of the core that the first supervisor thread gets (log 42). -/
def Obligations.BringUp : Prop :=
  ∀ (s : State),
    let b := s.board
    let part (img : List Byte) (lo n : Nat) : List Byte := (img.drop lo).take n
    let num (img : List Byte) (lo : Nat) : Nat := ofBytes (part img lo 4)
    let body (img : List Byte) : List Byte := part img 192 (num img 4)
    let accepted (img : List Byte) (kind : Nat) (key : List Byte) (least : Nat) : Prop :=
      num img 0 = 0x4D425657 ∧ num img 12 = kind ∧ num img 4 % 64 = 0 ∧ 192 + num img 4 ≤ img.length ∧
      sm3 (part img 64 64) = key ∧ sm3 (body img) = part img 32 32 ∧
      sm2Verify (part img 64 64) (part img 0 128) (part img 128 64) = true ∧ least ≤ num img 8
    let failed (t : State) (code unit : Nat) : Prop := t.mgmt.phase = .fail ∧ t.mgmt.berr = code ∧ t.mgmt.bunit = unit
    (Reaches .resetRelease s (fun t => t.mgmt = Mgmt.reset ∧ t.mem = s.mem ∧ t.cores = [] ∧ t.gangs = [] ∧ t.queues = [] ∧ t.clock = 0)) ∧
    (Reaches .powerLoss s (fun t => t.mgmt.phase = .off ∧
      (∀ j, t.mem.byte j = if Config.hostBase ≤ j ∧ j < Config.hostEnd then s.mem.byte j else 0) ∧
      (∀ j, t.mem.poison j = (s.mem.poison j && (decide (Config.hostBase ≤ j) && decide (j < Config.hostEnd)))) ∧ t.cores = [] ∧ t.spans = [] ∧ t.gangs = [] ∧ t.tenants = [])) ∧
    (s.mgmt.phase = .power → Reaches .fwverify s (fun t =>
      (accepted b.firmware 1 b.keyDigest b.minFw ∧ t.mgmt.phase = .fwverify ∧ t.mgmt.meas0 = sm3 (part b.firmware 0 128)) ∨
      (¬ accepted b.firmware 1 b.keyDigest b.minFw ∧ failed t 1 0))) ∧
    (s.mgmt.phase = .fwverify → Reaches .memtrain s (fun t =>
      (b.badUnit = none → t.mgmt.phase = .memtrain) ∧ ∀ u, b.badUnit = some u → failed t 2 u)) ∧
    (s.mgmt.phase = .memtrain → Reaches .sraminit s (fun t =>
      (accepted b.microcode 2 (part (body b.firmware) 0 32) b.minUc ∧ t.mgmt.phase = .sraminit ∧
        t.mgmt.meas1 = sm3 (part b.microcode 0 128) ∧ (∀ c, t.coreAt c = Core.idle) ∧ ∀ n, t.spanAt n = Span.idle) ∨
      (¬ accepted b.microcode 2 (part (body b.firmware) 0 32) b.minUc ∧ failed t 3 0))) ∧
    (s.mgmt.phase = .sraminit → Reaches .linkup s (fun t => t.devnum = b.devnum ∧
      (b.host = true → t.mgmt.phase = .linkup ∧ t.cxlUp = true) ∧ (b.host = false → failed t 4 0))) ∧
    (s.mgmt.phase = .linkup → Reaches .ready s (fun t =>
      (sm3 (body b.firmware) = part b.firmware 32 32 ∧ t.mgmt.phase = .ready ∧
        (∀ j, t.mem.byte j = if Config.fwBase ≤ j ∧ j < Config.fwBase + (body b.firmware).length then
          (body b.firmware).getD (j - Config.fwBase) 0 else s.mem.byte j) ∧
        (∀ j, t.mem.poison j = s.mem.poison j) ∧ ((t.coreAt 0).tables.get Table.free 7).owner = .sup ∧
        (t.thread 0 63).owner = .sup ∧ (t.thread 0 63).priv = true ∧ (t.thread 0 63).pcBlk = BitVec.ofNat 32 (Config.fwBase / 8) ∧
        (t.thread 0 63).pcOff = 0 ∧ (t.thread 0 63).reg (Reg.o 0) = ⟨BitVec.ofNat 64 (body b.firmware).length, false⟩ ∧
        ((s.coreAt 0).icache = [] → t.physWord Config.fwBase >>> 54 ≠ 0 → (t.thread 0 63).stat = .ready)) ∨
      (sm3 (body b.firmware) ≠ part b.firmware 32 32 ∧ failed t 1 0)))

/-- R6, R19, R21, R384, R387 to R389: a scrub read that cannot be corrected poisons its line and is logged, a corrected one is
counted, and neither changes a byte; a recalibration pause changes no data; the power controller takes the largest duty within
the cap when it lies within 4 of the last and no die is at 105 degrees, and never more than 8 at 105, a limit that stands above
the step of 4 (the model's choice, log 19); writes of the caps and
shares are clamped; a die at 115 degrees raises the alarm; a quote, of 160 bytes with its signature (log 7), stands at the address plus 64, and the nonce stays; reading ELOG removes its oldest address. -/
def Obligations.Management : Prop :=
  ∀ (s : State) (v : Word),
    let m := s.mgmt
    let on : Prop := m.phase ≠ .fail ∧ m.phase ≠ .off
    let sets (i : Instr) (f : Mgmt → Mgmt) : Prop := exec i s = .next { s with mgmt := f m }
    (∀ pa, m.phase = .ready → m.scr ≠ 0 → pa < Config.hbmEnd ∨ (Config.tier2Base ≤ pa ∧ pa < Config.tier2End) →
      exec (.patrolScrubRead pa .clean) s = .next s ∧
      sets (.patrolScrubRead pa .correctable) (fun m => { m with cecnt := if m.cecnt = 0xFFFFFFFF then m.cecnt else m.cecnt + 1 }) ∧
      Reaches (.patrolScrubRead pa .uncorrectable) s (fun t => t.mem.bytes = s.mem.bytes ∧
        (∀ j, t.mem.poison j = (s.mem.poison j || decide (j / 64 = pa / 64))) ∧
        t.mgmt.elog = (if m.elog.length < 64 then m.elog ++ [pa / 64 * 64] else m.elog) ∧
        t.reports = s.reports ++ [.uncorrectable (pa / 64 * 64)])) ∧
    (∀ unit, m.phase = .ready → unit < 304 →
      (∀ n, m.recalAt.find? unit = some n → n + 376000 ≤ s.clock) →
      sets (.recalibration unit) (fun m => { m with recalAt := m.recalAt.put unit s.clock })) ∧
    (∀ unit n, m.recalAt.find? unit = some n → s.clock < n + 376000 → exec (.recalibration unit) s = .next s) ∧
    (∀ pred temps watts, m.phase = .ready → m.powerAt + 94000 ≤ s.clock → 1 ≤ m.duty → m.duty ≤ 16 →
      Reaches (.powerInterval pred temps watts) s (fun t => 1 ≤ t.mgmt.duty ∧ t.mgmt.duty ≤ 16 ∧ t.mgmt.duty ≤ m.duty + 4 ∧
        t.mgmt.powerAt = s.clock ∧ ((∃ x ∈ temps, 105 ≤ x) → t.mgmt.duty ≤ 8) ∧
        (t.mgmt.alarm = true ↔ m.alarm = true ∨ ∃ d, d < 4 ∧ 115 ≤ temps.getD d 0 % 256) ∧
        ((∀ x ∈ temps, x < 105) → m.duty ≤ t.mgmt.duty + 4 ∧
          ∀ n, 1 ≤ n → n ≤ 16 → pred.getD (n - 1) 0 ≤ m.pcap → (∀ k, n < k → k ≤ 16 → m.pcap < pred.getD (k - 1) 0) →
            n ≤ m.duty + 4 → m.duty ≤ n + 4 → t.mgmt.duty = n))) ∧
    (∀ die, 115 ≤ m.temps.getD die 0 → Reaches (.thermalLimitReached die) s (fun t => t.mgmt.alarm = true ∧
      t.reports = s.reports ++ [.thermal die] ∧ t.mem = s.mem)) ∧
    (on →
      sets (.pcapWrite v) (fun m => { m with pcap := max 1500 (min 4200 (v.extractLsb' 0 16).toNat) }) ∧
      (∀ n : BitVec 4, m.rcl ≤ 10 → sets (.scrWrite n) (fun m => { m with scr := min n.toNat 10 })) ∧
      (∀ n : BitVec 4, m.scr ≤ 10 → sets (.rclWrite n) (fun m => { m with rcl := min n.toNat 10 })) ∧
      (let a := (v.extractLsb' 0 48).toNat
       (m.busy = false → a % 64 = 0 → a + 224 ≤ Config.hbmEnd →
         sets (.attcmdWrite v) (fun m => { m with attcmd := a, busy := true, done := false })) ∧
       (m.busy = true → exec (.attcmdWrite v) s = .next s)) ∧
      (∀ q, q < 64 →
        exec (.registerWrite (0x100008 + 64 * q) v) s = exec (.queueEnableWrite q v) s ∧
        exec (.registerWrite (0x100010 + 64 * q) v) s = exec (.qprodWrite q v) s ∧
        ((s.queueAt q).en = false → Reaches (.registerWrite (0x100000 + 64 * q) v) s (fun t =>
          t.queueAt q = { s.queueAt q with qbase := (v.extractLsb' 12 36).toNat * 4096 }))) ∧
      exec (.registerWrite 0x300010 v) s = exec (.pcapWrite v) s ∧
      sets (.registerWrite 0x300038 v) (fun m => { m with cecnt := v.extractLsb' 0 32 })) ∧
    (m.phase = .fail → ∀ off, exec (.registerWrite off v) s = .next s) ∧
    (m.busy = true → Reaches .quoteComplete s (fun t => t.mgmt = { m with busy := false, done := true } ∧
      let q := m.meas0 ++ m.meas1 ++ s.mem.readBytes m.attcmd 32
      let quote := q ++ bytesBE 32 (Config.sm2Sign (sm3 q)).1.toNat ++ bytesBE 32 (Config.sm2Sign (sm3 q)).2.toNat
      (m.meas0.length = 32 → m.meas1.length = 32 → quote.length = 160) ∧
      ∀ j, t.mem.byte j = if m.attcmd + 64 ≤ j ∧ j < m.attcmd + 64 + quote.length then quote.getD (j - (m.attcmd + 64)) 0
        else s.mem.byte j)) ∧
    (∀ l, (sm3 l).length = 32) ∧
    (∀ pa rest, m.phase ≠ .fail → m.elog = pa :: rest → Reaches .elogRead s (fun t =>
      t.mgmt = { m with elog := rest, elost := 0 } ∧ t.reply = (bytesOf 8 (pa + m.elost * 2 ^ 48 + 2 ^ 63), false)))

/-! ## Decoding and stepping (spec/03, spec/05) -/

/-- R59, R60: a word that no opcode, or a reserved field, or its place in the block forbids ends in ILLEGAL_OP, and a privileged
word of a user thread in PRIVILEGED, each with the word as s.tval; an unassigned opcode is reported first, then the place, then
the privilege. A thread whose instruction has retired and whose next word is not yet fetched has no word to check (R87). -/
def Obligations.DecodeFailures : Prop :=
  (∀ (s : State), s.me.wait ≠ .none → exec .decodeFailure s = .next s) ∧
  ∀ (s : State), s.me.stat = .issued → s.me.held = none → s.me.wait = .none →
    let w := s.me.word
    let op := w.extractLsb' 56 8
    let ender : Prop := op = 0x01 ∨ op = 0x02 ∨ op = 0x05
    let placed : Prop := s.me.pcOff + 1 = s.me.blockLen ↔ ender
    (trapsPlainly s Cause.illegalOp = true →
      (decode w = .error .unassigned → Traps .decodeFailure s Cause.illegalOp w) ∧
      (¬ placed → Traps .decodeFailure s Cause.illegalOp w) ∧
      (placed → op.extractLsb' 4 4 ≠ 0xE → (∀ i, decode w ≠ .ok i) → Traps .decodeFailure s Cause.illegalOp w) ∧
      (placed → s.me.priv = true → (∀ i, decode w ≠ .ok i) → Traps .decodeFailure s Cause.illegalOp w)) ∧
    (trapsPlainly s Cause.privileged = true → decode w ≠ .error .unassigned → placed → op.extractLsb' 4 4 = 0xE → s.me.priv = false →
      Traps .decodeFailure s Cause.privileged w) ∧
    ∀ i, decode w = .ok i → placed → (op.extractLsb' 4 4 = 0xE → s.me.priv = true) → exec .decodeFailure s = .next s

/-- R59, R61, R87, R88, R95, R98, R259: where the next choice (log 3) is to issue in a context that stands READY with
nothing due before, no other context of its core coming first, and its fetched word, or the word at its position where none has been
fetched yet (log 4), decodes to an instruction that its place and the mode allow, that nothing holds
back and whose registers the register cache holds, step runs exactly that instruction, on the state with the cycle passed, the
context in its convoy, its cycles counted (R355) and the thread in ISSUED; registers that it writes get their
entries first; what holds it back makes it wait, and so do others that wait for the table that it works on (R112). Where another context of
the core comes first, only the cycle passes. A thread whose instruction has retired stands in ISSUED until its next word is fetched: then it
is READY with that word and its age starts, or it traps with the cause of the fetch and the address of the word (R87, R88, R336). An event
that is due is carried out the same way, on the state in which what its
agents meet of guarded accesses has been performed (log 5), and where time passes only the clock and the
monitors move, by as many cycles as come before the next deadline or stall threshold (log 3). -/
def Obligations.StepRunsDecoded : Prop :=
  ∀ (s : State),
    let s0 := (choose s).2.advance 1
    (∀ c k w u i, (choose s).1 = .issue c k → s0.stopped = false →
      let sc : State := { s0 with core := c, ctx := k }
      let s1 := sc.joinConvoy c k
      let s2 := (((u.countCycles c k (issueCycles (w.extractLsb' 56 8))).modMe (fun t =>
        { t with stat := .issued, code := none, word := w, held := none, wait := .none })).touchCore c [unitOfThread k] (some (c, k))).modMe
          (fun t => { t with held := some i })
      let writes := entriesOf k (dests w)
      s1.mayIssue s1.me = true → s1.me.stat = .ready → s1.me.haltReq = false →
      s1.me.async = none ∨ s1.me.ih = true →
      (s1.me.code = some w ∧ u = s1) ∨ (s1.me.code = none ∧ s1.me.loaded = true ∧ s1.me.pcOff < s1.me.blockLen ∧
        s1.fetchCode c (s1.tenantOf s1.me) (8 * (s1.me.pcBlk.toNat + 2 + s1.me.pcOff)) = .ok (w, u)) →
      decode w = .ok i → (s1.me.pcOff + 1 = s1.me.blockLen ↔ isEnder w = true) → (isPrivileged w = true → s1.me.priv = true) →
      sc.issuerOn c = some k →
      (s2.tableBehind i none = true → step s = .next s2.queueTable) ∧
      (∀ why, s2.tableBehind i none = false → holdBack s2.me w = some why → step s = .next (s2.stall why)) ∧
      (s2.tableBehind i none = false → holdBack s2.me w = none →
        (s2.hasResident (entriesOf k (sources w)) = false → step s = .next (s2.stall .miss)) ∧
        (s2.hasResident (entriesOf k (sources w)) = true →
          (s2.hasResident writes = true → step s = exec i s2) ∧
          ((writes.foldl (fun x e => x.cacheRegister c e) s2).hasResident writes = true →
            step s = exec i (writes.foldl (fun x e => x.cacheRegister c e) s2))))) ∧
    (∀ e, (choose s).1 = .event e → s0.admits e = true → step s = exec e (s0.met e)) ∧
    (∀ w e, (choose s).1 = .list w e → s0.admits e = true → step s = exec e { s0.met e with walker := w }) ∧
    (∀ e, (∀ a q, s0.guardedFrom a q = none) → s0.met e = s0) ∧
    (∀ n, (choose s).1 = .tick n → step s = .next (s0.advance (s0.quietFor n))) ∧
    (∀ c k, (choose s).1 = .issue c k → s0.stopped = false →
      let sc : State := { s0 with core := c, ctx := k }
      let va := 8 * (sc.me.pcBlk.toNat + 2 + sc.me.pcOff)
      sc.mayIssue sc.me = true → sc.me.stat = .issued → sc.me.held = none → sc.me.wait = .stall .fetch → sc.me.loaded = true →
      sc.me.pcOff < sc.me.blockLen →
      (∀ w u, sc.fetchCode c (sc.tenantOf sc.me) va = .ok (w, u) → ∃ t, step s = .next t ∧
        t = (u.modMe (fun t => { t with stat := .ready, code := some w, wait := .none, age := u.clock })).touchCore c [unitOfThread k]
          (some (c, k))) ∧
      ∀ e, sc.fetchCode c (sc.tenantOf sc.me) va = .error e → step s = .next (sc.raiseTrap e (BitVec.ofNat 64 va))) ∧
    (∀ c k, (choose s).1 = .issue c k → s0.stopped = false →
      let sc : State := { s0 with core := c, ctx := k }
      sc.mayIssue sc.me = true → sc.me.stat = .ready → sc.me.haltReq = false → sc.me.async = none ∨ sc.me.ih = true →
      sc.issuerOn c ≠ some k → step s = .next sc) ∧
    (∀ a rest, s.agenda = a :: rest → choose s = (a, { s with agenda := rest })) ∧
    ∀ c k, (choose s).1 = .issue c k → s0.stopped = true → step s = .fault .nothingRuns

/-- R57, R58 and the worked encodings of spec/03 to spec/24: words that the spec writes out stand for the instructions it writes
beside them, and words that it calls ILLEGAL_OP stand for none. -/
def Obligations.DecodeWords : Prop :=
  let g (n : Nat) : Reg := Reg.g n
  decode 0x202CA28000000000#64 = .ok (.add (g 1) (g 0) (g 0)) ∧
  decode 0x603CC01100FFFFE8#64 = .ok (.ld (g 5) (g 2) .sp .b32 0xFFFFE8 false) ∧
  decode 0x6300E4D805000008#64 = .ok (.stl (g 4) (g 9) .gl .b64 8 .sys) ∧
  decode 0x0100F00200000000#64 = .ok (.next 2 (g 5)) ∧
  decode 0x1000D00100000080#64 = .ok (.tbw 1 (.imm 0) .act (g 3)) ∧
  decode 0x4A00C013FFFFFFFB#64 = .ok (.cmpi .lt 3 (g 2) 0xFFFFFFFB) ∧
  decode 0x6744C4D004000008#64 = .ok (.amo .add (g 7) (g 2) (g 9) .gl .b32 8 .dev) ∧
  decode 0x7400000000400102#64 = .ok (.vadd 2 0 1 64 0 .mode) ∧
  decode 0x9300000000490005#64 = .ok (.mma 1 false 9 5) ∧
  decode 0xA349364900000004#64 = .ok (.xsela (g 8) (g 9) (g 15) true 1 4) ∧
  decode 0xB234E30000000003#64 = .ok (.evtwait (g 3) (g 4) (g 2) 3 false) ∧
  decode 0xC440C00300000000#64 = .ok (.gstat (g 6) (g 2) 3) ∧
  decode 0xE130E3CC00000000#64 = .ok (.pgmap (g 2) (g 4) (g 5) 4 true) ∧
  (∀ i, decode 0x603CC01700FFFFE8#64 ≠ .ok i) ∧ (∀ i, decode 0x6D00000000000000#64 ≠ .ok i) ∧
  ∀ i, decode 0x202CA28000000001#64 ≠ .ok i

/-- R58, R59: for every well-formed instruction that has a word, decoding the word gives the instruction back, with every
operand at every value its encoding admits; so no two instructions share a word. -/
def Obligations.EncodingRoundTrip : Prop :=
  (∀ i, i.wellFormed = true → ∀ w, encode i = some w → decode w = .ok i) ∧
  ∀ i j w, i.wellFormed = true → j.wellFormed = true → encode i = some w → encode j = some w → i = j

/-- R59: a word that decodes has one instruction, well-formed, whose word it is: no bit of it is ignored. -/
def Obligations.DecodingIsCanonical : Prop :=
  ∀ w i, decode w = .ok i → i.wellFormed = true ∧ encode i = some w

/-! ## The machine at reset, and what every step keeps -/

/-- R385, R388, R371, R273 and the fields of spec/25: reset leaves the device in POWER with the caps, duty and shares of the
table, every port DOWN with EN and CMPEN set, every queue disabled, every context FREE, no gang and no tenant, and memory in its
canonical form (log 1). -/
def Obligations.ResetState : Prop :=
  Inv State.reset ∧ State.reset.clock = 0 ∧ State.reset.mgmt.phase = .power ∧ State.reset.mgmt.berr = 0 ∧ State.reset.mgmt.bunit = 0 ∧
  State.reset.mgmt.pcap = 4200 ∧ State.reset.mgmt.duty = 16 ∧ State.reset.mgmt.scr = 10 ∧ State.reset.mgmt.rcl = 10 ∧
  State.reset.mgmt.cecnt = 0 ∧ State.reset.mgmt.elog = [] ∧ State.reset.mgmt.busy = false ∧ State.reset.mgmt.done = false ∧
  (∀ p, (State.reset.portAt p).stat = .down ∧ (State.reset.portAt p).en = true ∧ (State.reset.portAt p).cmpen = true ∧
    (State.reset.portAt p).tmapv = 0 ∧ (State.reset.portAt p).tmap = 0) ∧
  (∀ q, (State.reset.queueAt q).en = false ∧ (State.reset.queueAt q).err = false ∧ (State.reset.queueAt q).qprod = 0 ∧
    (State.reset.queueAt q).qcons = 0) ∧
  (∀ c k, (State.reset.thread c k).stat = .free) ∧ (∀ h, State.reset.gangAt h = none) ∧ ∀ n, State.reset.tenantAt n = none

/-- The model's memory invariant (log 1): whatever a step does, physical memory stays in its canonical form, so that equal
memories are equal data. -/
def Obligations.InvariantKept : Prop :=
  ∀ (s t : State), Inv s → step s = .next t → Inv t
end

