-- ==== Sys2Proof/Laws/Decode.lean ====
section
/-! SUPPORT. Lemmas about fields of words, for the round trip of the encoder and the decoder. -/

set_option linter.constructorNameAsVariable false
set_option Elab.async false

namespace Sys2Proof.Laws

open Sys2Proof.Machine

/-- A field above a cut is a field of the upper part. -/
theorem bits_append_hi {n m : Nat} (lo k : Nat) (x : BitVec n) (y : BitVec m) (h : m ≤ lo) :
    bits lo k (x ++ y) = bits (lo - m) k x := by
  apply BitVec.eq_of_getLsbD_eq
  intro i hi
  simp only [bits, BitVec.getLsbD_extractLsb', BitVec.getLsbD_append, hi, decide_true, Bool.true_and]
  have : ¬ lo + i < m := by omega
  have e : lo + i - m = lo - m + i := by omega
  simp [this, e]

/-- A field below a cut is a field of the lower part. -/
theorem bits_append_lo {n m : Nat} (lo k : Nat) (x : BitVec n) (y : BitVec m) (h : lo + k ≤ m) :
    bits lo k (x ++ y) = bits lo k y := by
  apply BitVec.eq_of_getLsbD_eq
  intro i hi
  simp only [bits, BitVec.getLsbD_extractLsb', BitVec.getLsbD_append, hi, decide_true, Bool.true_and]
  have : lo + i < m := by omega
  simp [this]

/-- A field across a cut is zero when both parts of it are. -/
theorem bits_straddle {n m : Nat} (lo k : Nat) (x : BitVec n) (y : BitVec m) (h : lo < m) (h' : m < lo + k) :
    (bits lo k (x ++ y) = 0) = (bits 0 (lo + k - m) x = 0 ∧ bits lo (m - lo) y = 0) := by
  apply propext
  constructor
  · intro e
    have g (i : Nat) : (bits lo k (x ++ y)).getLsbD i = false := by rw [e]; simp
    constructor
    · apply BitVec.eq_of_getLsbD_eq
      intro i hi
      have := g (m - lo + i)
      simp only [bits, BitVec.getLsbD_extractLsb', BitVec.getLsbD_append] at this ⊢
      have a : m - lo + i < k := by omega
      have b : ¬ lo + (m - lo + i) < m := by omega
      have c : lo + (m - lo + i) - m = 0 + i := by omega
      simpa [a, b, c, hi] using this
    · apply BitVec.eq_of_getLsbD_eq
      intro i hi
      have := g i
      simp only [bits, BitVec.getLsbD_extractLsb', BitVec.getLsbD_append] at this ⊢
      have a : i < k := by omega
      have b : lo + i < m := by omega
      simpa [a, b, hi] using this
  · rintro ⟨e, f⟩
    apply BitVec.eq_of_getLsbD_eq
    intro i hi
    have ge (i : Nat) : (bits 0 (lo + k - m) x).getLsbD i = false := by rw [e]; simp
    have gf (i : Nat) : (bits lo (m - lo) y).getLsbD i = false := by rw [f]; simp
    simp only [bits, BitVec.getLsbD_extractLsb', BitVec.getLsbD_append] at ge gf ⊢
    by_cases b : lo + i < m
    · have := gf i
      have a : i < m - lo := by omega
      simpa [a, b, hi] using this
    · have := ge (lo + i - m)
      have a : lo + i - m < lo + k - m := by omega
      simpa [a, b, hi] using this

/-- The field of all bits. -/
theorem bits_all {n : Nat} (x : BitVec n) : bits 0 n x = x := by
  apply BitVec.eq_of_getLsbD_eq
  intro i hi
  simp [bits, hi]

/-- A bit above a cut. -/
theorem bit_append_hi {n m : Nat} (lo : Nat) (x : BitVec n) (y : BitVec m) (h : m ≤ lo) :
    bit lo (x ++ y) = bit (lo - m) x := by
  have : ¬ lo < m := by omega
  simp [bit, BitVec.getLsbD_append, this]

/-- A bit below a cut. -/
theorem bit_append_lo {n m : Nat} (lo : Nat) (x : BitVec n) (y : BitVec m) (h : lo < m) :
    bit lo (x ++ y) = bit lo y := by
  simp [bit, BitVec.getLsbD_append, h]

/-- The bit of a flag. -/
theorem bit_ofBool (b : Bool) : bit 0 (BitVec.ofBool b) = b := by cases b <;> rfl

/-- The fields of a word put together from fields are those fields. -/
theorem fields_word (op : BitVec 8) (d a b : Reg) (f : BitVec 6) (imm : BitVec 32) :
    fields (word op d a b f imm) = ⟨op, d, a, b, f, imm⟩ := by
  simp (disch := decide) only [fields, word, bits_append_hi, bits_append_lo, bits_all]
  simp [bits_all]

/-- Decoding a word put together from fields reads those fields. -/
theorem decode_word (op : BitVec 8) (d a b : Reg) (f : BitVec 6) (imm : BitVec 32) :
    decode (word op d a b f imm) = decodeFields ⟨op, d, a, b, f, imm⟩ := by
  rw [decode, fields_word]


/-! A coded sub-field is read back. -/

@[simp] theorem space_code (x : Space) : Space.ofBits x.toBits = some x := by cases x <;> rfl
@[simp] theorem scope_code (x : Scope) : Scope.ofBits x.toBits = some x := by cases x <;> rfl
@[simp] theorem amoOp_code (x : AmoOp) : AmoOp.ofBits x.toBits = some x := by cases x <;> rfl
@[simp] theorem rnd_code (x : Rnd) : Rnd.ofBits x.toBits = some x := by cases x <;> rfl
@[simp] theorem icond_code (x : ICond) : ICond.ofBits x.toBits = some x := by cases x <;> rfl
@[simp] theorem fcond_code (x : FCond) : FCond.ofBits x.toBits = some x := by cases x <;> rfl
@[simp] theorem fmt_code (x : Fmt) : Fmt.ofBits x.toBits = some x := by cases x <;> rfl
@[simp] theorem part_code (x : Part) : Part.ofBits x.toBits = some x := by cases x <;> rfl
@[simp] theorem hint_code (x : Hint) : Hint.ofBits x.toBits = some x := by cases x <;> rfl
@[simp] theorem bitOp_code (x : BitOp) : BitOp.ofBits x.toBits = some x := by cases x <;> rfl
@[simp] theorem sreg_code (x : SReg) : SReg.ofBits x.toBits = some x := by cases x <;> rfl
@[simp] theorem size_code (x : Size) : Size.ofBits x.toBits = x := by cases x <;> rfl
/-! Each group of sixteen opcodes goes to its own table. -/

theorem fields_0 (x : Fields) (lo : Nat) (h : x.op.toNat / 16 = 0x0) (l : x.op.toNat % 16 = lo) :
    decodeFields x = decode0 lo x := by subst l; simp [decodeFields, h]
theorem fields_1 (x : Fields) (lo : Nat) (h : x.op.toNat / 16 = 0x1) (l : x.op.toNat % 16 = lo) :
    decodeFields x = decode1 lo x := by subst l; simp [decodeFields, h]
theorem fields_2 (x : Fields) (lo : Nat) (h : x.op.toNat / 16 = 0x2) (l : x.op.toNat % 16 = lo) :
    decodeFields x = decode2 lo x := by subst l; simp [decodeFields, h]
theorem fields_3 (x : Fields) (lo : Nat) (h : x.op.toNat / 16 = 0x3) (l : x.op.toNat % 16 = lo) :
    decodeFields x = decode3 lo x := by subst l; simp [decodeFields, h]
theorem fields_4 (x : Fields) (lo : Nat) (h : x.op.toNat / 16 = 0x4) (l : x.op.toNat % 16 = lo) :
    decodeFields x = decode4 lo x := by subst l; simp [decodeFields, h]
theorem fields_5 (x : Fields) (lo : Nat) (h : x.op.toNat / 16 = 0x5) (l : x.op.toNat % 16 = lo) :
    decodeFields x = decode5 lo x := by subst l; simp [decodeFields, h]
theorem fields_6 (x : Fields) (lo : Nat) (h : x.op.toNat / 16 = 0x6) (l : x.op.toNat % 16 = lo) :
    decodeFields x = decode6 lo x := by subst l; simp [decodeFields, h]
theorem fields_7 (x : Fields) (lo : Nat) (h : x.op.toNat / 16 = 0x7) (l : x.op.toNat % 16 = lo) :
    decodeFields x = decode7 lo x := by subst l; simp [decodeFields, h]
theorem fields_8 (x : Fields) (lo : Nat) (h : x.op.toNat / 16 = 0x8) (l : x.op.toNat % 16 = lo) :
    decodeFields x = decode8 lo x := by subst l; simp [decodeFields, h]
theorem fields_9 (x : Fields) (lo : Nat) (h : x.op.toNat / 16 = 0x9) (l : x.op.toNat % 16 = lo) :
    decodeFields x = decode9 lo x := by subst l; simp [decodeFields, h]
theorem fields_A (x : Fields) (lo : Nat) (h : x.op.toNat / 16 = 0xA) (l : x.op.toNat % 16 = lo) :
    decodeFields x = decodeA lo x := by subst l; simp [decodeFields, h]
theorem fields_B (x : Fields) (lo : Nat) (h : x.op.toNat / 16 = 0xB) (l : x.op.toNat % 16 = lo) :
    decodeFields x = decodeB lo x := by subst l; simp [decodeFields, h]
theorem fields_C (x : Fields) (lo : Nat) (h : x.op.toNat / 16 = 0xC) (l : x.op.toNat % 16 = lo) :
    decodeFields x = decodeC lo x := by subst l; simp [decodeFields, h]
theorem fields_E (x : Fields) (lo : Nat) (h : x.op.toNat / 16 = 0xE) (l : x.op.toNat % 16 = lo) :
    decodeFields x = decodeE lo x := by subst l; simp [decodeFields, h]

/-- A mask below 2^22 has zero bits above. -/
theorem high_zero (m : BitVec 32) (h : m.toNat < 2 ^ 22) : bits 22 10 m = 0 := by
  apply BitVec.eq_of_toNat_eq
  simp [bits, Nat.shiftRight_eq_div_pow]
  omega

@[simp] theorem bool_code (b : Bool) : boolCode (0#2 ++ BitVec.ofBool b) = some b := by cases b <;> rfl
@[simp] theorem fmt_code3 (x : Fmt) : Fmt.ofBits (0#1 ++ bits 0 3 x.toBits) = some x := by cases x <;> rfl
@[simp] theorem blk_code (s : BitVec 2) : blkSpace (bits 0 3 (0#4 ++ s)) = some s := by revert s; decide
@[simp] theorem blk_code_var (v : Bool) (s : BitVec 2) :
    blkSpace (bits 0 3 (0#2 ++ BitVec.ofBool v ++ 0#1 ++ s)) = some s := by revert v s; decide
@[simp] theorem blk_code_two (s : BitVec 2) : blkSpace (bits 0 3 (2#4 ++ s)) = some s := by revert s; decide

/-- The entry index of the K format is read back (R50). -/
theorem kIdx_read (op : BitVec 8) (d a : Reg) (i : KIdx) (tb : BitVec 3) (p : BitVec 2) (k : KIdx → Except Reject Instr) :
    kIdx ⟨op, d, a, i.b, 0#2 ++ i.sel ++ tb, 0#24 ++ p ++ i.idx⟩ k = k i := by
  cases i <;> simp (disch := decide) only [kIdx, KIdx.b, KIdx.sel, KIdx.idx, bit_append_lo, bit_append_hi, bits_append_lo] <;>
    simp [need, bit, bits_all]

end Sys2Proof.Laws
end

