-- ==== Sys2Proof/Laws/SMap.lean ====
section
/-! SUPPORT. Laws of the finite maps: reading after a change, the canonical form kept by every change, and two maps in
canonical form that read alike are equal. -/

namespace Sys2Proof.Machine.SMap

variable {α : Type}

/-! ## Reading after a change -/

theorem get_erase (d : α) (m : SMap α) (i j : Nat) : (m.erase i).get d j = if j = i then d else m.get d j := by
  induction m with
  | nil => simp [erase, get]
  | cons e r ih =>
    obtain ⟨k, v⟩ := e
    by_cases h : k = i <;> simp only [erase, h, if_true, if_false, get, ih] <;> grind

theorem get_insert (d : α) (m : SMap α) (i j : Nat) (a : α) (h : ∀ e ∈ m, e.1 ≠ i) :
    (m.insert i a).get d j = if j = i then a else m.get d j := by
  induction m with
  | nil => simp [insert, get]; grind
  | cons e r ih =>
    obtain ⟨k, v⟩ := e
    have hk : k ≠ i := h (k, v) (by simp)
    have := ih (fun e he => h e (by simp [he]))
    by_cases l : i < k <;> simp only [insert, l, if_true, if_false, get, this] <;> grind

theorem erase_keys (m : SMap α) (i : Nat) : ∀ e ∈ m.erase i, e.1 ≠ i := by
  induction m with
  | nil => simp [erase]
  | cons e r ih =>
    obtain ⟨k, v⟩ := e
    by_cases h : k = i
    · simp only [erase, h, if_true]; exact ih
    · simp only [erase, h, if_false]
      exact fun e he => (List.mem_cons.mp he).elim (fun q => by rw [q]; exact h) (ih e)

/-- A map reads what was put into it, and what it read before elsewhere. -/
theorem get_put (d : α) (m : SMap α) (i j : Nat) (a : α) : (m.put i a).get d j = if j = i then a else m.get d j := by
  rw [put, get_insert d _ i j a (erase_keys m i), get_erase]; grind

@[simp] theorem get_put_self (d : α) (m : SMap α) (i : Nat) (a : α) : (m.put i a).get d i = a := by simp [get_put]

theorem get_put_ne (d : α) (m : SMap α) {i j : Nat} (a : α) (h : j ≠ i) : (m.put i a).get d j = m.get d j := by
  simp [get_put, h]

/-- The same of a map that lists no defaults. -/
theorem get_set [DecidableEq α] (d : α) (m : SMap α) (i j : Nat) (a : α) :
    (m.set d i a).get d j = if j = i then a else m.get d j := by
  unfold set; split
  · next h => subst h; exact get_erase a m i j
  · exact get_put d m i j a

@[simp] theorem get_set_self [DecidableEq α] (d : α) (m : SMap α) (i : Nat) (a : α) : (m.set d i a).get d i = a := by
  simp [get_set]

theorem get_set_ne [DecidableEq α] (d : α) (m : SMap α) {i j : Nat} (a : α) (h : j ≠ i) :
    (m.set d i a).get d j = m.get d j := by simp [get_set, h]

theorem find?_erase (m : SMap α) (i j : Nat) : find? (m.erase i) j = if j = i then none else find? m j := by
  induction m with
  | nil => simp [erase, find?]
  | cons e r ih =>
    obtain ⟨k, v⟩ := e
    by_cases h : k = i <;> simp only [erase, h, if_true, if_false, find?, ih] <;> grind

theorem find?_insert (m : SMap α) (i j : Nat) (a : α) (h : ∀ e ∈ m, e.1 ≠ i) :
    find? (m.insert i a) j = if j = i then some a else find? m j := by
  induction m with
  | nil => simp [insert, find?]; grind
  | cons e r ih =>
    obtain ⟨k, v⟩ := e
    have hk : k ≠ i := h (k, v) (by simp)
    have := ih (fun e he => h e (by simp [he]))
    by_cases l : i < k <;> simp only [insert, l, if_true, if_false, find?, this] <;> grind

theorem find?_put (m : SMap α) (i j : Nat) (a : α) : find? (m.put i a) j = if j = i then some a else find? m j := by
  rw [put, find?_insert _ i j a (erase_keys m i), find?_erase]; grind

@[simp] theorem find?_put_self (m : SMap α) (i : Nat) (a : α) : find? (m.put i a) i = some a := by simp [find?_put]

/-! ## The canonical form -/

variable [DecidableEq α]

@[simp] theorem wf_nil (d : α) : wf d ([] : SMap α) = true := rfl

theorem wfAbove_mono (d : α) {lo hi : Nat} (h : lo ≤ hi) (m : SMap α) : wfAbove d hi m = true → wfAbove d lo m = true := by
  cases m with
  | nil => exact fun _ => rfl
  | cons e r => obtain ⟨k, v⟩ := e; simp only [wfAbove, Bool.and_eq_true, decide_eq_true_eq]; grind

theorem wfAbove_erase (d : α) (m : SMap α) (i lo : Nat) : wfAbove d lo m = true → wfAbove d lo (m.erase i) = true := by
  induction m generalizing lo with
  | nil => exact fun _ => rfl
  | cons e r ih =>
    obtain ⟨k, v⟩ := e
    intro h
    simp only [wfAbove, Bool.and_eq_true, decide_eq_true_eq] at h
    by_cases c : k = i
    · simp only [erase, c, if_true]; exact ih lo (wfAbove_mono d (by omega) r h.2)
    · simp only [erase, c, if_false, wfAbove, Bool.and_eq_true, decide_eq_true_eq]; exact ⟨h.1, ih _ h.2⟩

theorem wfAbove_insert (d : α) (m : SMap α) (i lo : Nat) (a : α) (ha : a ≠ d) (hi : lo ≤ i) (hk : ∀ e ∈ m, e.1 ≠ i) :
    wfAbove d lo m = true → wfAbove d lo (m.insert i a) = true := by
  induction m generalizing lo with
  | nil => simp [insert, wfAbove, ha, hi]
  | cons e r ih =>
    obtain ⟨k, v⟩ := e
    intro h
    simp only [wfAbove, Bool.and_eq_true, decide_eq_true_eq] at h
    have n : k ≠ i := hk (k, v) (by simp)
    by_cases c : i < k
    · simp only [insert, c, if_true, wfAbove, Bool.and_eq_true, decide_eq_true_eq]
      exact ⟨⟨hi, ha⟩, ⟨by omega, h.1.2⟩, h.2⟩
    · simp only [insert, c, if_false, wfAbove, Bool.and_eq_true, decide_eq_true_eq]
      exact ⟨h.1, ih (k + 1) (by omega) (fun e he => hk e (by simp [he])) h.2⟩

theorem wf_erase (d : α) (m : SMap α) (i : Nat) (h : wf d m = true) : wf d (m.erase i) = true := wfAbove_erase d m i 0 h

/-- A change keeps the canonical form. -/
theorem wf_set (d : α) (m : SMap α) (i : Nat) (a : α) (h : wf d m = true) : wf d (m.set d i a) = true := by
  unfold set; split
  · exact wf_erase d m i h
  · next ha => exact wfAbove_insert d _ i 0 a ha (Nat.zero_le _) (erase_keys m i) (wf_erase d m i h)

theorem get_above (d : α) (m : SMap α) {lo i : Nat} (h : wfAbove d lo m = true) (hi : i < lo) : m.get d i = d := by
  induction m generalizing lo with
  | nil => rfl
  | cons e r ih =>
    obtain ⟨k, v⟩ := e
    simp only [wfAbove, Bool.and_eq_true, decide_eq_true_eq] at h
    have : k ≠ i := by omega
    simp only [get, this, if_false]; exact ih h.2 (by omega)

theorem ext_above (d : α) (m n : SMap α) {lo : Nat} (hm : wfAbove d lo m = true) (hn : wfAbove d lo n = true)
    (h : ∀ i, m.get d i = n.get d i) : m = n := by
  induction m generalizing n lo with
  | nil =>
    cases n with
    | nil => rfl
    | cons e r =>
      obtain ⟨k, v⟩ := e
      simp only [wfAbove, Bool.and_eq_true, decide_eq_true_eq] at hn
      have := h k; simp [get] at this; exact absurd this.symm hn.1.2
  | cons e r ih =>
    obtain ⟨k, v⟩ := e
    have hm' := hm
    simp only [wfAbove, Bool.and_eq_true, decide_eq_true_eq] at hm'
    cases n with
    | nil => have := h k; simp [get] at this; exact absurd this hm'.1.2
    | cons f q =>
      obtain ⟨l, w⟩ := f
      have hn' := hn
      simp only [wfAbove, Bool.and_eq_true, decide_eq_true_eq] at hn'
      have kl : k = l := by
        rcases Nat.lt_trichotomy k l with c | c | c
        · have a := h k
          rw [get_above d ((l, w) :: q) (lo := l) (by simp [wfAbove, hn'.1.2, hn'.2]) c] at a
          simp [get] at a; exact absurd a hm'.1.2
        · exact c
        · have a := h l
          rw [get_above d ((k, v) :: r) (lo := k) (by simp [wfAbove, hm'.1.2, hm'.2]) c] at a
          simp [get] at a; exact absurd a.symm hn'.1.2
      subst kl
      have vw : v = w := by simpa [get] using h k
      subst vw
      have : r = q := ih q hm'.2 hn'.2 (fun i => by
        by_cases c : i = k
        · subst c; rw [get_above d r hm'.2 (by omega), get_above d q hn'.2 (by omega)]
        · have := h i; simpa [get, Ne.symm c] using this)
      rw [this]

/-- Leaving entries out keeps the canonical form. -/
theorem wf_filter (d : α) (p : Nat × α → Bool) {m : SMap α} (h : wf d m = true) : wf d (List.filter p m) = true := by
  have down : ∀ (m : SMap α) {lo hi}, lo ≤ hi → wfAbove d hi m = true → wfAbove d lo m = true := by
    intro m lo hi l h
    cases m with
    | nil => rfl
    | cons e r => simp only [wfAbove, Bool.and_eq_true, decide_eq_true_eq] at h ⊢; exact ⟨⟨by omega, h.1.2⟩, h.2⟩
  suffices k : ∀ (m : SMap α) lo, wfAbove d lo m = true → wfAbove d lo (List.filter p m) = true from k m 0 h
  intro m
  induction m with
  | nil => intro lo _; rfl
  | cons e r ih =>
    intro lo h
    simp only [wfAbove, Bool.and_eq_true, decide_eq_true_eq] at h
    rw [List.filter_cons]; split
    · simp only [wfAbove, Bool.and_eq_true, decide_eq_true_eq]; exact ⟨h.1, ih _ h.2⟩
    · exact down _ (by omega) (ih _ h.2)

/-- Two maps in canonical form that read alike everywhere are equal. -/
theorem ext (d : α) {m n : SMap α} (hm : wf d m = true) (hn : wf d n = true) (h : ∀ i, m.get d i = n.get d i) : m = n :=
  ext_above d m n hm hn h

end Sys2Proof.Machine.SMap
end

