-- ==== Sys2Proof/Laws/Memory.lean ====
section
/-! SUPPORT. Laws of a memory: reading after a write, a write leaves every other byte and every poison bit alone, and every
operation keeps the canonical form. -/

namespace Sys2Proof.Machine.Memory

@[simp] theorem wf_empty : Memory.empty.wf = true := rfl

/-! ## One byte -/

theorem byte_setByte (m : Memory) (a b : Nat) (x : Byte) : (m.setByte a x).byte b = if b = a then x else m.byte b :=
  SMap.get_set 0 m.bytes a b x

@[simp] theorem poison_setByte (m : Memory) (a b : Nat) (x : Byte) : (m.setByte a x).poison b = m.poison b := rfl

@[simp] theorem byte_setPoison (m : Memory) (a b : Nat) (p : Bool) : (m.setPoison a p).byte b = m.byte b := rfl

theorem poison_setPoison (m : Memory) (a b : Nat) (p : Bool) :
    (m.setPoison a p).poison b = if b / 8 = a / 8 then p else m.poison b := SMap.get_set false m.psn (a / 8) (b / 8) p

theorem wf_setByte (m : Memory) (a : Nat) (x : Byte) (h : m.wf = true) : (m.setByte a x).wf = true := by
  simp only [wf, Bool.and_eq_true] at h ⊢; exact ⟨SMap.wf_set 0 _ _ _ h.1, h.2⟩

theorem wf_setPoison (m : Memory) (a : Nat) (p : Bool) (h : m.wf = true) : (m.setPoison a p).wf = true := by
  simp only [wf, Bool.and_eq_true] at h ⊢; exact ⟨h.1, SMap.wf_set false _ _ _ h.2⟩

/-! ## Several bytes -/

/-- A write changes the bytes written and no other. -/
theorem byte_write (m : Memory) (a n v b : Nat) :
    (m.write a n v).byte b = if a ≤ b ∧ b < a + n then BitVec.ofNat 8 (v / 256 ^ (b - a)) else m.byte b := by
  induction n generalizing m a v with
  | zero => grind [write]
  | succ n ih =>
    rw [write, ih]
    by_cases c : b = a
    · subst c; grind [byte_setByte]
    · by_cases l : a + 1 ≤ b ∧ b < a + 1 + n
      · have e : b - a = (b - (a + 1)) + 1 := by omega
        rw [if_pos l, if_pos (by omega), e, Nat.pow_succ', Nat.div_div_eq_div_mul]
      · rw [if_neg l, if_neg (by omega), byte_setByte, if_neg c]

theorem byte_write_ne (m : Memory) (a n v b : Nat) (h : b < a ∨ a + n ≤ b) : (m.write a n v).byte b = m.byte b := by
  rw [byte_write, if_neg (by omega)]

@[simp] theorem poison_write (m : Memory) (a n v b : Nat) : (m.write a n v).poison b = m.poison b := by
  induction n generalizing m a v with
  | zero => rfl
  | succ n ih => rw [write, ih, poison_setByte]

theorem wf_write (m : Memory) (a n v : Nat) (h : m.wf = true) : (m.write a n v).wf = true := by
  induction n generalizing m a v with
  | zero => exact h
  | succ n ih => exact ih _ _ _ (wf_setByte m a _ h)

/-- A read after a write to the same place gives the value written, in the bytes there are. -/
theorem read_write (m : Memory) (a n v : Nat) : (m.write a n v).read a n = v % 256 ^ n := by
  have key : ∀ k c (w : Nat) (x : Memory), (∀ b, c ≤ b → b < c + k → x.byte b = BitVec.ofNat 8 (w / 256 ^ (b - c))) →
      x.read c k = w % 256 ^ k := by
    intro k
    induction k with
    | zero => intro c w x _; simp [read, Nat.mod_one]
    | succ k ih =>
      intro c w x hx
      have h0 := hx c (Nat.le_refl _) (by omega)
      have := ih (c + 1) (w / 256) x (fun b l u => by
        rw [hx b (by omega) (by omega), Nat.div_div_eq_div_mul, ← Nat.pow_succ']
        have : b - c = b - (c + 1) + 1 := by omega
        rw [this])
      rw [read, this, h0, Nat.pow_succ', Nat.mod_mul]
      simp
  exact key n a v _ (fun b l u => by rw [byte_write, if_pos ⟨l, u⟩])

/-- A store writes n bytes (R158). -/
theorem byte_store (m : Memory) (a n v b : Nat) (p : Bool) : (m.store a n v p).byte b = (m.write a n v).byte b := by
  simp only [store]; repeat' split
  all_goals simp

/-- The poison of a word after a store to it: set with poisoned data, cleared by a clean store of 8 bytes, else kept (R158). -/
theorem poison_store (m : Memory) (a n v b : Nat) (p : Bool) :
    (m.store a n v p).poison b = if b / 8 = a / 8 then (p || (m.poison b && decide (n ≠ 8))) else m.poison b := by
  simp only [store]; by_cases c : p <;> by_cases e : n = 8 <;> simp [c, e, poison_setPoison]

theorem wf_store (m : Memory) (a n v : Nat) (p : Bool) (h : m.wf = true) : (m.store a n v p).wf = true := by
  simp only [store]; have := wf_write m a n v h
  repeat' split
  all_goals first | exact this | exact wf_setPoison _ _ _ this

theorem wf_writeBytes (m : Memory) (a : Nat) (l : List Byte) (h : m.wf = true) : (m.writeBytes a l).wf = true := by
  induction l generalizing m a with
  | nil => exact h
  | cons b r ih => exact ih _ _ (wf_setByte m a b h)

@[simp] theorem poison_writeBytes (m : Memory) (a b : Nat) (l : List Byte) : (m.writeBytes a l).poison b = m.poison b := by
  induction l generalizing m a with
  | nil => rfl
  | cons x r ih => rw [writeBytes, ih, poison_setByte]

/-- Writing a list of bytes changes those bytes and no other. -/
theorem byte_writeBytes (m : Memory) (a b : Nat) (l : List Byte) :
    (m.writeBytes a l).byte b = if a ≤ b ∧ b < a + l.length then l.getD (b - a) 0 else m.byte b := by
  induction l generalizing m a with
  | nil => grind [writeBytes]
  | cons x r ih =>
    rw [writeBytes, ih]
    by_cases c : b = a
    · subst c; grind [byte_setByte]
    · by_cases i : a + 1 ≤ b ∧ b < a + 1 + r.length
      · have e : b - a = (b - (a + 1)) + 1 := by omega
        rw [if_pos i, if_pos (by simp only [List.length_cons]; omega), e, List.getD_cons_succ]
      · rw [if_neg i, if_neg (by simp only [List.length_cons]; omega), byte_setByte, if_neg c]

/-- Two memories in canonical form that read alike, bytes and poison, are equal. -/
theorem ext {m n : Memory} (hm : m.wf = true) (hn : n.wf = true) (hb : ∀ a, m.byte a = n.byte a)
    (hp : ∀ w, m.poison (8 * w) = n.poison (8 * w)) : m = n := by
  obtain ⟨mb, mp⟩ := m; obtain ⟨nb, np⟩ := n
  simp only [wf, Bool.and_eq_true] at hm hn
  have b : mb = nb := SMap.ext 0 hm.1 hn.1 hb
  have p : mp = np := SMap.ext false hm.2 hn.2 (fun i => by have := hp i; simpa [poison] using this)
  rw [b, p]

end Sys2Proof.Machine.Memory
end

