-- ==== Sys2Proof/Laws/Num.lean ====
section
/-! SUPPORT. The tables of R80 against their formulas: each entry lies within half a unit in the last place of the exact value. -/

set_option Elab.async false

namespace Sys2Proof.Machine

/-- The value of an FP32 encoding from 0.5 up to 2 in units of 2^-24. -/
def units24 (x : Nat) : Nat := if x < 0x3F800000 then 2 ^ 23 + x % 2 ^ 23 else 2 * (2 ^ 23 + x % 2 ^ 23)

/-- Half a unit in the last place of such an encoding, in units of 2^-25. -/
def halfUlp (x : Nat) : Nat := if x < 0x3F800000 then 1 else 2

/-- ExpT[i] rounds 2^(i/64): the 64th powers of the bounds enclose 2^i. -/
theorem expT_brackets : ∀ i, i < 64 → let u := 2 * units24 (expT i); let h := halfUlp (expT i)
    (u - h) ^ 64 ≤ 2 ^ (i + 25 * 64) ∧ 2 ^ (i + 25 * 64) ≤ (u + h) ^ 64 := by decide +kernel

/-- RcpT[i] rounds 64 / (64 + i). -/
theorem rcpT_brackets : ∀ i, i < 64 → let u := 2 * units24 (rcpT i); let h := halfUlp (rcpT i)
    (u - h) * (64 + i) ≤ 64 * 2 ^ 25 ∧ 64 * 2 ^ 25 ≤ (u + h) * (64 + i) := by decide +kernel

/-- RsqT[j] rounds the root of 64 / (64 + j) for j below 64. -/
theorem rsqT_brackets_low : ∀ j, j < 64 → let u := 2 * units24 (rsqT j); let h := halfUlp (rsqT j)
    (u - h) ^ 2 * (64 + j) ≤ 64 * 2 ^ 50 ∧ 64 * 2 ^ 50 ≤ (u + h) ^ 2 * (64 + j) := by decide +kernel

/-- RsqT[64 + j] rounds the root of 32 / (64 + j), which is 1 / (2 + j / 32). -/
theorem rsqT_brackets_high : ∀ j, j < 64 → let u := 2 * units24 (rsqT (64 + j)); let h := halfUlp (rsqT (64 + j))
    (u - h) ^ 2 * (64 + j) ≤ 32 * 2 ^ 50 ∧ 32 * 2 ^ 50 ≤ (u + h) ^ 2 * (64 + j) := by decide +kernel

end Sys2Proof.Machine
end

