-- ==== Sys2Proof/Laws/State.lean ====
section
/-! SUPPORT. What each named update of the state leaves alone, field by field, and what it changes. -/

set_option Elab.async false

namespace Sys2Proof.Machine.State

/-! ## Fields that an update leaves alone -/

/-! ### setCore -/

@[simp] theorem setCore_clock (s : State) (c : Nat) (x : Core) : (s.setCore c x).clock = s.clock := rfl
@[simp] theorem setCore_agenda (s : State) (c : Nat) (x : Core) : (s.setCore c x).agenda = s.agenda := rfl
@[simp] theorem setCore_core (s : State) (c : Nat) (x : Core) : (s.setCore c x).core = s.core := rfl
@[simp] theorem setCore_ctx (s : State) (c : Nat) (x : Core) : (s.setCore c x).ctx = s.ctx := rfl
@[simp] theorem setCore_walker (s : State) (c : Nat) (x : Core) : (s.setCore c x).walker = s.walker := rfl
@[simp] theorem setCore_fresh (s : State) (c : Nat) (x : Core) : (s.setCore c x).fresh = s.fresh := rfl
@[simp] theorem setCore_board (s : State) (c : Nat) (x : Core) : (s.setCore c x).board = s.board := rfl
@[simp] theorem setCore_mgmt (s : State) (c : Nat) (x : Core) : (s.setCore c x).mgmt = s.mgmt := rfl
@[simp] theorem setCore_devnum (s : State) (c : Nat) (x : Core) : (s.setCore c x).devnum = s.devnum := rfl
@[simp] theorem setCore_cxlUp (s : State) (c : Nat) (x : Core) : (s.setCore c x).cxlUp = s.cxlUp := rfl
@[simp] theorem setCore_mem (s : State) (c : Nat) (x : Core) : (s.setCore c x).mem = s.mem := rfl
@[simp] theorem setCore_spans (s : State) (c : Nat) (x : Core) : (s.setCore c x).spans = s.spans := rfl
@[simp] theorem setCore_tenants (s : State) (c : Nat) (x : Core) : (s.setCore c x).tenants = s.tenants := rfl
@[simp] theorem setCore_gangs (s : State) (c : Nat) (x : Core) : (s.setCore c x).gangs = s.gangs := rfl
@[simp] theorem setCore_launches (s : State) (c : Nat) (x : Core) : (s.setCore c x).launches = s.launches := rfl
@[simp] theorem setCore_queues (s : State) (c : Nat) (x : Core) : (s.setCore c x).queues = s.queues := rfl
@[simp] theorem setCore_pool (s : State) (c : Nat) (x : Core) : (s.setCore c x).pool = s.pool := rfl
@[simp] theorem setCore_copies (s : State) (c : Nat) (x : Core) : (s.setCore c x).copies = s.copies := rfl
@[simp] theorem setCore_walkers (s : State) (c : Nat) (x : Core) : (s.setCore c x).walkers = s.walkers := rfl
@[simp] theorem setCore_seq (s : State) (c : Nat) (x : Core) : (s.setCore c x).seq = s.seq := rfl
@[simp] theorem setCore_groups (s : State) (c : Nat) (x : Core) : (s.setCore c x).groups = s.groups := rfl
@[simp] theorem setCore_ports (s : State) (c : Nat) (x : Core) : (s.setCore c x).ports = s.ports := rfl
@[simp] theorem setCore_loc0 (s : State) (c : Nat) (x : Core) : (s.setCore c x).loc0 = s.loc0 := rfl
@[simp] theorem setCore_loc1 (s : State) (c : Nat) (x : Core) : (s.setCore c x).loc1 = s.loc1 := rfl
@[simp] theorem setCore_msgs (s : State) (c : Nat) (x : Core) : (s.setCore c x).msgs = s.msgs := rfl
@[simp] theorem setCore_posts (s : State) (c : Nat) (x : Core) : (s.setCore c x).posts = s.posts := rfl
@[simp] theorem setCore_cancels (s : State) (c : Nat) (x : Core) : (s.setCore c x).cancels = s.cancels := rfl
@[simp] theorem setCore_supMail (s : State) (c : Nat) (x : Core) : (s.setCore c x).supMail = s.supMail := rfl
@[simp] theorem setCore_notes (s : State) (c : Nat) (x : Core) : (s.setCore c x).notes = s.notes := rfl
@[simp] theorem setCore_pend (s : State) (c : Nat) (x : Core) : (s.setCore c x).pend = s.pend := rfl
@[simp] theorem setCore_invals (s : State) (c : Nat) (x : Core) : (s.setCore c x).invals = s.invals := rfl
@[simp] theorem setCore_reports (s : State) (c : Nat) (x : Core) : (s.setCore c x).reports = s.reports := rfl
@[simp] theorem setCore_reply (s : State) (c : Nat) (x : Core) : (s.setCore c x).reply = s.reply := rfl

/-! ### modCore -/

@[simp] theorem modCore_clock (s : State) (c : Nat) (f : Core → Core) : (s.modCore c f).clock = s.clock := rfl
@[simp] theorem modCore_agenda (s : State) (c : Nat) (f : Core → Core) : (s.modCore c f).agenda = s.agenda := rfl
@[simp] theorem modCore_core (s : State) (c : Nat) (f : Core → Core) : (s.modCore c f).core = s.core := rfl
@[simp] theorem modCore_ctx (s : State) (c : Nat) (f : Core → Core) : (s.modCore c f).ctx = s.ctx := rfl
@[simp] theorem modCore_walker (s : State) (c : Nat) (f : Core → Core) : (s.modCore c f).walker = s.walker := rfl
@[simp] theorem modCore_fresh (s : State) (c : Nat) (f : Core → Core) : (s.modCore c f).fresh = s.fresh := rfl
@[simp] theorem modCore_board (s : State) (c : Nat) (f : Core → Core) : (s.modCore c f).board = s.board := rfl
@[simp] theorem modCore_mgmt (s : State) (c : Nat) (f : Core → Core) : (s.modCore c f).mgmt = s.mgmt := rfl
@[simp] theorem modCore_devnum (s : State) (c : Nat) (f : Core → Core) : (s.modCore c f).devnum = s.devnum := rfl
@[simp] theorem modCore_cxlUp (s : State) (c : Nat) (f : Core → Core) : (s.modCore c f).cxlUp = s.cxlUp := rfl
@[simp] theorem modCore_mem (s : State) (c : Nat) (f : Core → Core) : (s.modCore c f).mem = s.mem := rfl
@[simp] theorem modCore_spans (s : State) (c : Nat) (f : Core → Core) : (s.modCore c f).spans = s.spans := rfl
@[simp] theorem modCore_tenants (s : State) (c : Nat) (f : Core → Core) : (s.modCore c f).tenants = s.tenants := rfl
@[simp] theorem modCore_gangs (s : State) (c : Nat) (f : Core → Core) : (s.modCore c f).gangs = s.gangs := rfl
@[simp] theorem modCore_launches (s : State) (c : Nat) (f : Core → Core) : (s.modCore c f).launches = s.launches := rfl
@[simp] theorem modCore_queues (s : State) (c : Nat) (f : Core → Core) : (s.modCore c f).queues = s.queues := rfl
@[simp] theorem modCore_pool (s : State) (c : Nat) (f : Core → Core) : (s.modCore c f).pool = s.pool := rfl
@[simp] theorem modCore_copies (s : State) (c : Nat) (f : Core → Core) : (s.modCore c f).copies = s.copies := rfl
@[simp] theorem modCore_walkers (s : State) (c : Nat) (f : Core → Core) : (s.modCore c f).walkers = s.walkers := rfl
@[simp] theorem modCore_seq (s : State) (c : Nat) (f : Core → Core) : (s.modCore c f).seq = s.seq := rfl
@[simp] theorem modCore_groups (s : State) (c : Nat) (f : Core → Core) : (s.modCore c f).groups = s.groups := rfl
@[simp] theorem modCore_ports (s : State) (c : Nat) (f : Core → Core) : (s.modCore c f).ports = s.ports := rfl
@[simp] theorem modCore_loc0 (s : State) (c : Nat) (f : Core → Core) : (s.modCore c f).loc0 = s.loc0 := rfl
@[simp] theorem modCore_loc1 (s : State) (c : Nat) (f : Core → Core) : (s.modCore c f).loc1 = s.loc1 := rfl
@[simp] theorem modCore_msgs (s : State) (c : Nat) (f : Core → Core) : (s.modCore c f).msgs = s.msgs := rfl
@[simp] theorem modCore_posts (s : State) (c : Nat) (f : Core → Core) : (s.modCore c f).posts = s.posts := rfl
@[simp] theorem modCore_cancels (s : State) (c : Nat) (f : Core → Core) : (s.modCore c f).cancels = s.cancels := rfl
@[simp] theorem modCore_supMail (s : State) (c : Nat) (f : Core → Core) : (s.modCore c f).supMail = s.supMail := rfl
@[simp] theorem modCore_notes (s : State) (c : Nat) (f : Core → Core) : (s.modCore c f).notes = s.notes := rfl
@[simp] theorem modCore_pend (s : State) (c : Nat) (f : Core → Core) : (s.modCore c f).pend = s.pend := rfl
@[simp] theorem modCore_invals (s : State) (c : Nat) (f : Core → Core) : (s.modCore c f).invals = s.invals := rfl
@[simp] theorem modCore_reports (s : State) (c : Nat) (f : Core → Core) : (s.modCore c f).reports = s.reports := rfl
@[simp] theorem modCore_reply (s : State) (c : Nat) (f : Core → Core) : (s.modCore c f).reply = s.reply := rfl

/-! ### setThread -/

@[simp] theorem setThread_clock (s : State) (c k : Nat) (t : Thread) : (s.setThread c k t).clock = s.clock := rfl
@[simp] theorem setThread_agenda (s : State) (c k : Nat) (t : Thread) : (s.setThread c k t).agenda = s.agenda := rfl
@[simp] theorem setThread_core (s : State) (c k : Nat) (t : Thread) : (s.setThread c k t).core = s.core := rfl
@[simp] theorem setThread_ctx (s : State) (c k : Nat) (t : Thread) : (s.setThread c k t).ctx = s.ctx := rfl
@[simp] theorem setThread_walker (s : State) (c k : Nat) (t : Thread) : (s.setThread c k t).walker = s.walker := rfl
@[simp] theorem setThread_fresh (s : State) (c k : Nat) (t : Thread) : (s.setThread c k t).fresh = s.fresh := rfl
@[simp] theorem setThread_board (s : State) (c k : Nat) (t : Thread) : (s.setThread c k t).board = s.board := rfl
@[simp] theorem setThread_mgmt (s : State) (c k : Nat) (t : Thread) : (s.setThread c k t).mgmt = s.mgmt := rfl
@[simp] theorem setThread_devnum (s : State) (c k : Nat) (t : Thread) : (s.setThread c k t).devnum = s.devnum := rfl
@[simp] theorem setThread_cxlUp (s : State) (c k : Nat) (t : Thread) : (s.setThread c k t).cxlUp = s.cxlUp := rfl
@[simp] theorem setThread_mem (s : State) (c k : Nat) (t : Thread) : (s.setThread c k t).mem = s.mem := rfl
@[simp] theorem setThread_spans (s : State) (c k : Nat) (t : Thread) : (s.setThread c k t).spans = s.spans := rfl
@[simp] theorem setThread_tenants (s : State) (c k : Nat) (t : Thread) : (s.setThread c k t).tenants = s.tenants := rfl
@[simp] theorem setThread_gangs (s : State) (c k : Nat) (t : Thread) : (s.setThread c k t).gangs = s.gangs := rfl
@[simp] theorem setThread_launches (s : State) (c k : Nat) (t : Thread) : (s.setThread c k t).launches = s.launches := rfl
@[simp] theorem setThread_queues (s : State) (c k : Nat) (t : Thread) : (s.setThread c k t).queues = s.queues := rfl
@[simp] theorem setThread_pool (s : State) (c k : Nat) (t : Thread) : (s.setThread c k t).pool = s.pool := rfl
@[simp] theorem setThread_copies (s : State) (c k : Nat) (t : Thread) : (s.setThread c k t).copies = s.copies := rfl
@[simp] theorem setThread_walkers (s : State) (c k : Nat) (t : Thread) : (s.setThread c k t).walkers = s.walkers := rfl
@[simp] theorem setThread_seq (s : State) (c k : Nat) (t : Thread) : (s.setThread c k t).seq = s.seq := rfl
@[simp] theorem setThread_groups (s : State) (c k : Nat) (t : Thread) : (s.setThread c k t).groups = s.groups := rfl
@[simp] theorem setThread_ports (s : State) (c k : Nat) (t : Thread) : (s.setThread c k t).ports = s.ports := rfl
@[simp] theorem setThread_loc0 (s : State) (c k : Nat) (t : Thread) : (s.setThread c k t).loc0 = s.loc0 := rfl
@[simp] theorem setThread_loc1 (s : State) (c k : Nat) (t : Thread) : (s.setThread c k t).loc1 = s.loc1 := rfl
@[simp] theorem setThread_msgs (s : State) (c k : Nat) (t : Thread) : (s.setThread c k t).msgs = s.msgs := rfl
@[simp] theorem setThread_posts (s : State) (c k : Nat) (t : Thread) : (s.setThread c k t).posts = s.posts := rfl
@[simp] theorem setThread_cancels (s : State) (c k : Nat) (t : Thread) : (s.setThread c k t).cancels = s.cancels := rfl
@[simp] theorem setThread_supMail (s : State) (c k : Nat) (t : Thread) : (s.setThread c k t).supMail = s.supMail := rfl
@[simp] theorem setThread_notes (s : State) (c k : Nat) (t : Thread) : (s.setThread c k t).notes = s.notes := rfl
@[simp] theorem setThread_pend (s : State) (c k : Nat) (t : Thread) : (s.setThread c k t).pend = s.pend := rfl
@[simp] theorem setThread_invals (s : State) (c k : Nat) (t : Thread) : (s.setThread c k t).invals = s.invals := rfl
@[simp] theorem setThread_reports (s : State) (c k : Nat) (t : Thread) : (s.setThread c k t).reports = s.reports := rfl
@[simp] theorem setThread_reply (s : State) (c k : Nat) (t : Thread) : (s.setThread c k t).reply = s.reply := rfl

/-! ### modThread -/

@[simp] theorem modThread_clock (s : State) (c k : Nat) (f : Thread → Thread) : (s.modThread c k f).clock = s.clock := rfl
@[simp] theorem modThread_agenda (s : State) (c k : Nat) (f : Thread → Thread) : (s.modThread c k f).agenda = s.agenda := rfl
@[simp] theorem modThread_core (s : State) (c k : Nat) (f : Thread → Thread) : (s.modThread c k f).core = s.core := rfl
@[simp] theorem modThread_ctx (s : State) (c k : Nat) (f : Thread → Thread) : (s.modThread c k f).ctx = s.ctx := rfl
@[simp] theorem modThread_walker (s : State) (c k : Nat) (f : Thread → Thread) : (s.modThread c k f).walker = s.walker := rfl
@[simp] theorem modThread_fresh (s : State) (c k : Nat) (f : Thread → Thread) : (s.modThread c k f).fresh = s.fresh := rfl
@[simp] theorem modThread_board (s : State) (c k : Nat) (f : Thread → Thread) : (s.modThread c k f).board = s.board := rfl
@[simp] theorem modThread_mgmt (s : State) (c k : Nat) (f : Thread → Thread) : (s.modThread c k f).mgmt = s.mgmt := rfl
@[simp] theorem modThread_devnum (s : State) (c k : Nat) (f : Thread → Thread) : (s.modThread c k f).devnum = s.devnum := rfl
@[simp] theorem modThread_cxlUp (s : State) (c k : Nat) (f : Thread → Thread) : (s.modThread c k f).cxlUp = s.cxlUp := rfl
@[simp] theorem modThread_mem (s : State) (c k : Nat) (f : Thread → Thread) : (s.modThread c k f).mem = s.mem := rfl
@[simp] theorem modThread_spans (s : State) (c k : Nat) (f : Thread → Thread) : (s.modThread c k f).spans = s.spans := rfl
@[simp] theorem modThread_tenants (s : State) (c k : Nat) (f : Thread → Thread) : (s.modThread c k f).tenants = s.tenants := rfl
@[simp] theorem modThread_gangs (s : State) (c k : Nat) (f : Thread → Thread) : (s.modThread c k f).gangs = s.gangs := rfl
@[simp] theorem modThread_launches (s : State) (c k : Nat) (f : Thread → Thread) : (s.modThread c k f).launches = s.launches := rfl
@[simp] theorem modThread_queues (s : State) (c k : Nat) (f : Thread → Thread) : (s.modThread c k f).queues = s.queues := rfl
@[simp] theorem modThread_pool (s : State) (c k : Nat) (f : Thread → Thread) : (s.modThread c k f).pool = s.pool := rfl
@[simp] theorem modThread_copies (s : State) (c k : Nat) (f : Thread → Thread) : (s.modThread c k f).copies = s.copies := rfl
@[simp] theorem modThread_walkers (s : State) (c k : Nat) (f : Thread → Thread) : (s.modThread c k f).walkers = s.walkers := rfl
@[simp] theorem modThread_seq (s : State) (c k : Nat) (f : Thread → Thread) : (s.modThread c k f).seq = s.seq := rfl
@[simp] theorem modThread_groups (s : State) (c k : Nat) (f : Thread → Thread) : (s.modThread c k f).groups = s.groups := rfl
@[simp] theorem modThread_ports (s : State) (c k : Nat) (f : Thread → Thread) : (s.modThread c k f).ports = s.ports := rfl
@[simp] theorem modThread_loc0 (s : State) (c k : Nat) (f : Thread → Thread) : (s.modThread c k f).loc0 = s.loc0 := rfl
@[simp] theorem modThread_loc1 (s : State) (c k : Nat) (f : Thread → Thread) : (s.modThread c k f).loc1 = s.loc1 := rfl
@[simp] theorem modThread_msgs (s : State) (c k : Nat) (f : Thread → Thread) : (s.modThread c k f).msgs = s.msgs := rfl
@[simp] theorem modThread_posts (s : State) (c k : Nat) (f : Thread → Thread) : (s.modThread c k f).posts = s.posts := rfl
@[simp] theorem modThread_cancels (s : State) (c k : Nat) (f : Thread → Thread) : (s.modThread c k f).cancels = s.cancels := rfl
@[simp] theorem modThread_supMail (s : State) (c k : Nat) (f : Thread → Thread) : (s.modThread c k f).supMail = s.supMail := rfl
@[simp] theorem modThread_notes (s : State) (c k : Nat) (f : Thread → Thread) : (s.modThread c k f).notes = s.notes := rfl
@[simp] theorem modThread_pend (s : State) (c k : Nat) (f : Thread → Thread) : (s.modThread c k f).pend = s.pend := rfl
@[simp] theorem modThread_invals (s : State) (c k : Nat) (f : Thread → Thread) : (s.modThread c k f).invals = s.invals := rfl
@[simp] theorem modThread_reports (s : State) (c k : Nat) (f : Thread → Thread) : (s.modThread c k f).reports = s.reports := rfl
@[simp] theorem modThread_reply (s : State) (c k : Nat) (f : Thread → Thread) : (s.modThread c k f).reply = s.reply := rfl

/-! ### modMe -/

@[simp] theorem modMe_clock (s : State) (f : Thread → Thread) : (s.modMe f).clock = s.clock := rfl
@[simp] theorem modMe_agenda (s : State) (f : Thread → Thread) : (s.modMe f).agenda = s.agenda := rfl
@[simp] theorem modMe_core (s : State) (f : Thread → Thread) : (s.modMe f).core = s.core := rfl
@[simp] theorem modMe_ctx (s : State) (f : Thread → Thread) : (s.modMe f).ctx = s.ctx := rfl
@[simp] theorem modMe_walker (s : State) (f : Thread → Thread) : (s.modMe f).walker = s.walker := rfl
@[simp] theorem modMe_fresh (s : State) (f : Thread → Thread) : (s.modMe f).fresh = s.fresh := rfl
@[simp] theorem modMe_board (s : State) (f : Thread → Thread) : (s.modMe f).board = s.board := rfl
@[simp] theorem modMe_mgmt (s : State) (f : Thread → Thread) : (s.modMe f).mgmt = s.mgmt := rfl
@[simp] theorem modMe_devnum (s : State) (f : Thread → Thread) : (s.modMe f).devnum = s.devnum := rfl
@[simp] theorem modMe_cxlUp (s : State) (f : Thread → Thread) : (s.modMe f).cxlUp = s.cxlUp := rfl
@[simp] theorem modMe_mem (s : State) (f : Thread → Thread) : (s.modMe f).mem = s.mem := rfl
@[simp] theorem modMe_spans (s : State) (f : Thread → Thread) : (s.modMe f).spans = s.spans := rfl
@[simp] theorem modMe_tenants (s : State) (f : Thread → Thread) : (s.modMe f).tenants = s.tenants := rfl
@[simp] theorem modMe_gangs (s : State) (f : Thread → Thread) : (s.modMe f).gangs = s.gangs := rfl
@[simp] theorem modMe_launches (s : State) (f : Thread → Thread) : (s.modMe f).launches = s.launches := rfl
@[simp] theorem modMe_queues (s : State) (f : Thread → Thread) : (s.modMe f).queues = s.queues := rfl
@[simp] theorem modMe_pool (s : State) (f : Thread → Thread) : (s.modMe f).pool = s.pool := rfl
@[simp] theorem modMe_copies (s : State) (f : Thread → Thread) : (s.modMe f).copies = s.copies := rfl
@[simp] theorem modMe_walkers (s : State) (f : Thread → Thread) : (s.modMe f).walkers = s.walkers := rfl
@[simp] theorem modMe_seq (s : State) (f : Thread → Thread) : (s.modMe f).seq = s.seq := rfl
@[simp] theorem modMe_groups (s : State) (f : Thread → Thread) : (s.modMe f).groups = s.groups := rfl
@[simp] theorem modMe_ports (s : State) (f : Thread → Thread) : (s.modMe f).ports = s.ports := rfl
@[simp] theorem modMe_loc0 (s : State) (f : Thread → Thread) : (s.modMe f).loc0 = s.loc0 := rfl
@[simp] theorem modMe_loc1 (s : State) (f : Thread → Thread) : (s.modMe f).loc1 = s.loc1 := rfl
@[simp] theorem modMe_msgs (s : State) (f : Thread → Thread) : (s.modMe f).msgs = s.msgs := rfl
@[simp] theorem modMe_posts (s : State) (f : Thread → Thread) : (s.modMe f).posts = s.posts := rfl
@[simp] theorem modMe_cancels (s : State) (f : Thread → Thread) : (s.modMe f).cancels = s.cancels := rfl
@[simp] theorem modMe_supMail (s : State) (f : Thread → Thread) : (s.modMe f).supMail = s.supMail := rfl
@[simp] theorem modMe_notes (s : State) (f : Thread → Thread) : (s.modMe f).notes = s.notes := rfl
@[simp] theorem modMe_pend (s : State) (f : Thread → Thread) : (s.modMe f).pend = s.pend := rfl
@[simp] theorem modMe_invals (s : State) (f : Thread → Thread) : (s.modMe f).invals = s.invals := rfl
@[simp] theorem modMe_reports (s : State) (f : Thread → Thread) : (s.modMe f).reports = s.reports := rfl
@[simp] theorem modMe_reply (s : State) (f : Thread → Thread) : (s.modMe f).reply = s.reply := rfl

/-! ### modMyCore -/

@[simp] theorem modMyCore_clock (s : State) (f : Core → Core) : (s.modMyCore f).clock = s.clock := rfl
@[simp] theorem modMyCore_agenda (s : State) (f : Core → Core) : (s.modMyCore f).agenda = s.agenda := rfl
@[simp] theorem modMyCore_core (s : State) (f : Core → Core) : (s.modMyCore f).core = s.core := rfl
@[simp] theorem modMyCore_ctx (s : State) (f : Core → Core) : (s.modMyCore f).ctx = s.ctx := rfl
@[simp] theorem modMyCore_walker (s : State) (f : Core → Core) : (s.modMyCore f).walker = s.walker := rfl
@[simp] theorem modMyCore_fresh (s : State) (f : Core → Core) : (s.modMyCore f).fresh = s.fresh := rfl
@[simp] theorem modMyCore_board (s : State) (f : Core → Core) : (s.modMyCore f).board = s.board := rfl
@[simp] theorem modMyCore_mgmt (s : State) (f : Core → Core) : (s.modMyCore f).mgmt = s.mgmt := rfl
@[simp] theorem modMyCore_devnum (s : State) (f : Core → Core) : (s.modMyCore f).devnum = s.devnum := rfl
@[simp] theorem modMyCore_cxlUp (s : State) (f : Core → Core) : (s.modMyCore f).cxlUp = s.cxlUp := rfl
@[simp] theorem modMyCore_mem (s : State) (f : Core → Core) : (s.modMyCore f).mem = s.mem := rfl
@[simp] theorem modMyCore_spans (s : State) (f : Core → Core) : (s.modMyCore f).spans = s.spans := rfl
@[simp] theorem modMyCore_tenants (s : State) (f : Core → Core) : (s.modMyCore f).tenants = s.tenants := rfl
@[simp] theorem modMyCore_gangs (s : State) (f : Core → Core) : (s.modMyCore f).gangs = s.gangs := rfl
@[simp] theorem modMyCore_launches (s : State) (f : Core → Core) : (s.modMyCore f).launches = s.launches := rfl
@[simp] theorem modMyCore_queues (s : State) (f : Core → Core) : (s.modMyCore f).queues = s.queues := rfl
@[simp] theorem modMyCore_pool (s : State) (f : Core → Core) : (s.modMyCore f).pool = s.pool := rfl
@[simp] theorem modMyCore_copies (s : State) (f : Core → Core) : (s.modMyCore f).copies = s.copies := rfl
@[simp] theorem modMyCore_walkers (s : State) (f : Core → Core) : (s.modMyCore f).walkers = s.walkers := rfl
@[simp] theorem modMyCore_seq (s : State) (f : Core → Core) : (s.modMyCore f).seq = s.seq := rfl
@[simp] theorem modMyCore_groups (s : State) (f : Core → Core) : (s.modMyCore f).groups = s.groups := rfl
@[simp] theorem modMyCore_ports (s : State) (f : Core → Core) : (s.modMyCore f).ports = s.ports := rfl
@[simp] theorem modMyCore_loc0 (s : State) (f : Core → Core) : (s.modMyCore f).loc0 = s.loc0 := rfl
@[simp] theorem modMyCore_loc1 (s : State) (f : Core → Core) : (s.modMyCore f).loc1 = s.loc1 := rfl
@[simp] theorem modMyCore_msgs (s : State) (f : Core → Core) : (s.modMyCore f).msgs = s.msgs := rfl
@[simp] theorem modMyCore_posts (s : State) (f : Core → Core) : (s.modMyCore f).posts = s.posts := rfl
@[simp] theorem modMyCore_cancels (s : State) (f : Core → Core) : (s.modMyCore f).cancels = s.cancels := rfl
@[simp] theorem modMyCore_supMail (s : State) (f : Core → Core) : (s.modMyCore f).supMail = s.supMail := rfl
@[simp] theorem modMyCore_notes (s : State) (f : Core → Core) : (s.modMyCore f).notes = s.notes := rfl
@[simp] theorem modMyCore_pend (s : State) (f : Core → Core) : (s.modMyCore f).pend = s.pend := rfl
@[simp] theorem modMyCore_invals (s : State) (f : Core → Core) : (s.modMyCore f).invals = s.invals := rfl
@[simp] theorem modMyCore_reports (s : State) (f : Core → Core) : (s.modMyCore f).reports = s.reports := rfl
@[simp] theorem modMyCore_reply (s : State) (f : Core → Core) : (s.modMyCore f).reply = s.reply := rfl

/-! ### setSpan -/

@[simp] theorem setSpan_clock (s : State) (n : Nat) (x : Span) : (s.setSpan n x).clock = s.clock := rfl
@[simp] theorem setSpan_agenda (s : State) (n : Nat) (x : Span) : (s.setSpan n x).agenda = s.agenda := rfl
@[simp] theorem setSpan_core (s : State) (n : Nat) (x : Span) : (s.setSpan n x).core = s.core := rfl
@[simp] theorem setSpan_ctx (s : State) (n : Nat) (x : Span) : (s.setSpan n x).ctx = s.ctx := rfl
@[simp] theorem setSpan_walker (s : State) (n : Nat) (x : Span) : (s.setSpan n x).walker = s.walker := rfl
@[simp] theorem setSpan_fresh (s : State) (n : Nat) (x : Span) : (s.setSpan n x).fresh = s.fresh := rfl
@[simp] theorem setSpan_board (s : State) (n : Nat) (x : Span) : (s.setSpan n x).board = s.board := rfl
@[simp] theorem setSpan_mgmt (s : State) (n : Nat) (x : Span) : (s.setSpan n x).mgmt = s.mgmt := rfl
@[simp] theorem setSpan_devnum (s : State) (n : Nat) (x : Span) : (s.setSpan n x).devnum = s.devnum := rfl
@[simp] theorem setSpan_cxlUp (s : State) (n : Nat) (x : Span) : (s.setSpan n x).cxlUp = s.cxlUp := rfl
@[simp] theorem setSpan_mem (s : State) (n : Nat) (x : Span) : (s.setSpan n x).mem = s.mem := rfl
@[simp] theorem setSpan_cores (s : State) (n : Nat) (x : Span) : (s.setSpan n x).cores = s.cores := rfl
@[simp] theorem setSpan_tenants (s : State) (n : Nat) (x : Span) : (s.setSpan n x).tenants = s.tenants := rfl
@[simp] theorem setSpan_gangs (s : State) (n : Nat) (x : Span) : (s.setSpan n x).gangs = s.gangs := rfl
@[simp] theorem setSpan_launches (s : State) (n : Nat) (x : Span) : (s.setSpan n x).launches = s.launches := rfl
@[simp] theorem setSpan_queues (s : State) (n : Nat) (x : Span) : (s.setSpan n x).queues = s.queues := rfl
@[simp] theorem setSpan_pool (s : State) (n : Nat) (x : Span) : (s.setSpan n x).pool = s.pool := rfl
@[simp] theorem setSpan_copies (s : State) (n : Nat) (x : Span) : (s.setSpan n x).copies = s.copies := rfl
@[simp] theorem setSpan_walkers (s : State) (n : Nat) (x : Span) : (s.setSpan n x).walkers = s.walkers := rfl
@[simp] theorem setSpan_seq (s : State) (n : Nat) (x : Span) : (s.setSpan n x).seq = s.seq := rfl
@[simp] theorem setSpan_groups (s : State) (n : Nat) (x : Span) : (s.setSpan n x).groups = s.groups := rfl
@[simp] theorem setSpan_ports (s : State) (n : Nat) (x : Span) : (s.setSpan n x).ports = s.ports := rfl
@[simp] theorem setSpan_loc0 (s : State) (n : Nat) (x : Span) : (s.setSpan n x).loc0 = s.loc0 := rfl
@[simp] theorem setSpan_loc1 (s : State) (n : Nat) (x : Span) : (s.setSpan n x).loc1 = s.loc1 := rfl
@[simp] theorem setSpan_msgs (s : State) (n : Nat) (x : Span) : (s.setSpan n x).msgs = s.msgs := rfl
@[simp] theorem setSpan_posts (s : State) (n : Nat) (x : Span) : (s.setSpan n x).posts = s.posts := rfl
@[simp] theorem setSpan_cancels (s : State) (n : Nat) (x : Span) : (s.setSpan n x).cancels = s.cancels := rfl
@[simp] theorem setSpan_supMail (s : State) (n : Nat) (x : Span) : (s.setSpan n x).supMail = s.supMail := rfl
@[simp] theorem setSpan_notes (s : State) (n : Nat) (x : Span) : (s.setSpan n x).notes = s.notes := rfl
@[simp] theorem setSpan_pend (s : State) (n : Nat) (x : Span) : (s.setSpan n x).pend = s.pend := rfl
@[simp] theorem setSpan_invals (s : State) (n : Nat) (x : Span) : (s.setSpan n x).invals = s.invals := rfl
@[simp] theorem setSpan_reports (s : State) (n : Nat) (x : Span) : (s.setSpan n x).reports = s.reports := rfl
@[simp] theorem setSpan_reply (s : State) (n : Nat) (x : Span) : (s.setSpan n x).reply = s.reply := rfl

/-! ### modSpan -/

@[simp] theorem modSpan_clock (s : State) (n : Nat) (f : Span → Span) : (s.modSpan n f).clock = s.clock := rfl
@[simp] theorem modSpan_agenda (s : State) (n : Nat) (f : Span → Span) : (s.modSpan n f).agenda = s.agenda := rfl
@[simp] theorem modSpan_core (s : State) (n : Nat) (f : Span → Span) : (s.modSpan n f).core = s.core := rfl
@[simp] theorem modSpan_ctx (s : State) (n : Nat) (f : Span → Span) : (s.modSpan n f).ctx = s.ctx := rfl
@[simp] theorem modSpan_walker (s : State) (n : Nat) (f : Span → Span) : (s.modSpan n f).walker = s.walker := rfl
@[simp] theorem modSpan_fresh (s : State) (n : Nat) (f : Span → Span) : (s.modSpan n f).fresh = s.fresh := rfl
@[simp] theorem modSpan_board (s : State) (n : Nat) (f : Span → Span) : (s.modSpan n f).board = s.board := rfl
@[simp] theorem modSpan_mgmt (s : State) (n : Nat) (f : Span → Span) : (s.modSpan n f).mgmt = s.mgmt := rfl
@[simp] theorem modSpan_devnum (s : State) (n : Nat) (f : Span → Span) : (s.modSpan n f).devnum = s.devnum := rfl
@[simp] theorem modSpan_cxlUp (s : State) (n : Nat) (f : Span → Span) : (s.modSpan n f).cxlUp = s.cxlUp := rfl
@[simp] theorem modSpan_mem (s : State) (n : Nat) (f : Span → Span) : (s.modSpan n f).mem = s.mem := rfl
@[simp] theorem modSpan_cores (s : State) (n : Nat) (f : Span → Span) : (s.modSpan n f).cores = s.cores := rfl
@[simp] theorem modSpan_tenants (s : State) (n : Nat) (f : Span → Span) : (s.modSpan n f).tenants = s.tenants := rfl
@[simp] theorem modSpan_gangs (s : State) (n : Nat) (f : Span → Span) : (s.modSpan n f).gangs = s.gangs := rfl
@[simp] theorem modSpan_launches (s : State) (n : Nat) (f : Span → Span) : (s.modSpan n f).launches = s.launches := rfl
@[simp] theorem modSpan_queues (s : State) (n : Nat) (f : Span → Span) : (s.modSpan n f).queues = s.queues := rfl
@[simp] theorem modSpan_pool (s : State) (n : Nat) (f : Span → Span) : (s.modSpan n f).pool = s.pool := rfl
@[simp] theorem modSpan_copies (s : State) (n : Nat) (f : Span → Span) : (s.modSpan n f).copies = s.copies := rfl
@[simp] theorem modSpan_walkers (s : State) (n : Nat) (f : Span → Span) : (s.modSpan n f).walkers = s.walkers := rfl
@[simp] theorem modSpan_seq (s : State) (n : Nat) (f : Span → Span) : (s.modSpan n f).seq = s.seq := rfl
@[simp] theorem modSpan_groups (s : State) (n : Nat) (f : Span → Span) : (s.modSpan n f).groups = s.groups := rfl
@[simp] theorem modSpan_ports (s : State) (n : Nat) (f : Span → Span) : (s.modSpan n f).ports = s.ports := rfl
@[simp] theorem modSpan_loc0 (s : State) (n : Nat) (f : Span → Span) : (s.modSpan n f).loc0 = s.loc0 := rfl
@[simp] theorem modSpan_loc1 (s : State) (n : Nat) (f : Span → Span) : (s.modSpan n f).loc1 = s.loc1 := rfl
@[simp] theorem modSpan_msgs (s : State) (n : Nat) (f : Span → Span) : (s.modSpan n f).msgs = s.msgs := rfl
@[simp] theorem modSpan_posts (s : State) (n : Nat) (f : Span → Span) : (s.modSpan n f).posts = s.posts := rfl
@[simp] theorem modSpan_cancels (s : State) (n : Nat) (f : Span → Span) : (s.modSpan n f).cancels = s.cancels := rfl
@[simp] theorem modSpan_supMail (s : State) (n : Nat) (f : Span → Span) : (s.modSpan n f).supMail = s.supMail := rfl
@[simp] theorem modSpan_notes (s : State) (n : Nat) (f : Span → Span) : (s.modSpan n f).notes = s.notes := rfl
@[simp] theorem modSpan_pend (s : State) (n : Nat) (f : Span → Span) : (s.modSpan n f).pend = s.pend := rfl
@[simp] theorem modSpan_invals (s : State) (n : Nat) (f : Span → Span) : (s.modSpan n f).invals = s.invals := rfl
@[simp] theorem modSpan_reports (s : State) (n : Nat) (f : Span → Span) : (s.modSpan n f).reports = s.reports := rfl
@[simp] theorem modSpan_reply (s : State) (n : Nat) (f : Span → Span) : (s.modSpan n f).reply = s.reply := rfl

/-! ### modGang -/

@[simp] theorem modGang_clock (s : State) (h : Nat) (f : Gang → Gang) : (s.modGang h f).clock = s.clock := by
  unfold modGang; split <;> rfl
@[simp] theorem modGang_agenda (s : State) (h : Nat) (f : Gang → Gang) : (s.modGang h f).agenda = s.agenda := by
  unfold modGang; split <;> rfl
@[simp] theorem modGang_core (s : State) (h : Nat) (f : Gang → Gang) : (s.modGang h f).core = s.core := by
  unfold modGang; split <;> rfl
@[simp] theorem modGang_ctx (s : State) (h : Nat) (f : Gang → Gang) : (s.modGang h f).ctx = s.ctx := by
  unfold modGang; split <;> rfl
@[simp] theorem modGang_walker (s : State) (h : Nat) (f : Gang → Gang) : (s.modGang h f).walker = s.walker := by
  unfold modGang; split <;> rfl
@[simp] theorem modGang_fresh (s : State) (h : Nat) (f : Gang → Gang) : (s.modGang h f).fresh = s.fresh := by
  unfold modGang; split <;> rfl
@[simp] theorem modGang_board (s : State) (h : Nat) (f : Gang → Gang) : (s.modGang h f).board = s.board := by
  unfold modGang; split <;> rfl
@[simp] theorem modGang_mgmt (s : State) (h : Nat) (f : Gang → Gang) : (s.modGang h f).mgmt = s.mgmt := by
  unfold modGang; split <;> rfl
@[simp] theorem modGang_devnum (s : State) (h : Nat) (f : Gang → Gang) : (s.modGang h f).devnum = s.devnum := by
  unfold modGang; split <;> rfl
@[simp] theorem modGang_cxlUp (s : State) (h : Nat) (f : Gang → Gang) : (s.modGang h f).cxlUp = s.cxlUp := by
  unfold modGang; split <;> rfl
@[simp] theorem modGang_mem (s : State) (h : Nat) (f : Gang → Gang) : (s.modGang h f).mem = s.mem := by
  unfold modGang; split <;> rfl
@[simp] theorem modGang_cores (s : State) (h : Nat) (f : Gang → Gang) : (s.modGang h f).cores = s.cores := by
  unfold modGang; split <;> rfl
@[simp] theorem modGang_spans (s : State) (h : Nat) (f : Gang → Gang) : (s.modGang h f).spans = s.spans := by
  unfold modGang; split <;> rfl
@[simp] theorem modGang_tenants (s : State) (h : Nat) (f : Gang → Gang) : (s.modGang h f).tenants = s.tenants := by
  unfold modGang; split <;> rfl
@[simp] theorem modGang_launches (s : State) (h : Nat) (f : Gang → Gang) : (s.modGang h f).launches = s.launches := by
  unfold modGang; split <;> rfl
@[simp] theorem modGang_queues (s : State) (h : Nat) (f : Gang → Gang) : (s.modGang h f).queues = s.queues := by
  unfold modGang; split <;> rfl
@[simp] theorem modGang_pool (s : State) (h : Nat) (f : Gang → Gang) : (s.modGang h f).pool = s.pool := by
  unfold modGang; split <;> rfl
@[simp] theorem modGang_copies (s : State) (h : Nat) (f : Gang → Gang) : (s.modGang h f).copies = s.copies := by
  unfold modGang; split <;> rfl
@[simp] theorem modGang_walkers (s : State) (h : Nat) (f : Gang → Gang) : (s.modGang h f).walkers = s.walkers := by
  unfold modGang; split <;> rfl
@[simp] theorem modGang_seq (s : State) (h : Nat) (f : Gang → Gang) : (s.modGang h f).seq = s.seq := by
  unfold modGang; split <;> rfl
@[simp] theorem modGang_groups (s : State) (h : Nat) (f : Gang → Gang) : (s.modGang h f).groups = s.groups := by
  unfold modGang; split <;> rfl
@[simp] theorem modGang_ports (s : State) (h : Nat) (f : Gang → Gang) : (s.modGang h f).ports = s.ports := by
  unfold modGang; split <;> rfl
@[simp] theorem modGang_loc0 (s : State) (h : Nat) (f : Gang → Gang) : (s.modGang h f).loc0 = s.loc0 := by
  unfold modGang; split <;> rfl
@[simp] theorem modGang_loc1 (s : State) (h : Nat) (f : Gang → Gang) : (s.modGang h f).loc1 = s.loc1 := by
  unfold modGang; split <;> rfl
@[simp] theorem modGang_msgs (s : State) (h : Nat) (f : Gang → Gang) : (s.modGang h f).msgs = s.msgs := by
  unfold modGang; split <;> rfl
@[simp] theorem modGang_posts (s : State) (h : Nat) (f : Gang → Gang) : (s.modGang h f).posts = s.posts := by
  unfold modGang; split <;> rfl
@[simp] theorem modGang_cancels (s : State) (h : Nat) (f : Gang → Gang) : (s.modGang h f).cancels = s.cancels := by
  unfold modGang; split <;> rfl
@[simp] theorem modGang_supMail (s : State) (h : Nat) (f : Gang → Gang) : (s.modGang h f).supMail = s.supMail := by
  unfold modGang; split <;> rfl
@[simp] theorem modGang_notes (s : State) (h : Nat) (f : Gang → Gang) : (s.modGang h f).notes = s.notes := by
  unfold modGang; split <;> rfl
@[simp] theorem modGang_pend (s : State) (h : Nat) (f : Gang → Gang) : (s.modGang h f).pend = s.pend := by
  unfold modGang; split <;> rfl
@[simp] theorem modGang_invals (s : State) (h : Nat) (f : Gang → Gang) : (s.modGang h f).invals = s.invals := by
  unfold modGang; split <;> rfl
@[simp] theorem modGang_reports (s : State) (h : Nat) (f : Gang → Gang) : (s.modGang h f).reports = s.reports := by
  unfold modGang; split <;> rfl
@[simp] theorem modGang_reply (s : State) (h : Nat) (f : Gang → Gang) : (s.modGang h f).reply = s.reply := by
  unfold modGang; split <;> rfl

/-! ## Cores -/

theorem coreAt_setCore (s : State) (c j : Nat) (x : Core) : (s.setCore c x).coreAt j = if j = c then x else s.coreAt j :=
  SMap.get_put Core.idle s.cores c j x

theorem coreAt_modCore (s : State) (c j : Nat) (f : Core → Core) :
    (s.modCore c f).coreAt j = if j = c then f (s.coreAt j) else s.coreAt j := by
  simp only [modCore, coreAt_setCore]; split
  · next h => rw [h]
  · rfl

@[simp] theorem coreAt_modCore_self (s : State) (c : Nat) (f : Core → Core) : (s.modCore c f).coreAt c = f (s.coreAt c) := by
  simp [coreAt_modCore]

theorem coreAt_modCore_ne (s : State) {c j : Nat} (f : Core → Core) (h : j ≠ c) : (s.modCore c f).coreAt j = s.coreAt j := by
  simp [coreAt_modCore, h]

@[simp] theorem coreAt_setSpan (s : State) (n j : Nat) (x : Span) : (s.setSpan n x).coreAt j = s.coreAt j := rfl
@[simp] theorem coreAt_modSpan (s : State) (n j : Nat) (f : Span → Span) : (s.modSpan n f).coreAt j = s.coreAt j := rfl
@[simp] theorem coreAt_modGang (s : State) (h j : Nat) (f : Gang → Gang) : (s.modGang h f).coreAt j = s.coreAt j := by
  simp [coreAt]

/-! ## Threads -/

theorem coreAt_modThread (s : State) (c k j : Nat) (f : Thread → Thread) :
    (s.modThread c k f).coreAt j =
      if j = c then { s.coreAt j with threads := (s.coreAt j).threads.put k (f (s.thread c k)) } else s.coreAt j := by
  simp only [modThread, setThread, coreAt_modCore]

theorem thread_modThread (s : State) (c k j l : Nat) (f : Thread → Thread) :
    (s.modThread c k f).thread j l = if j = c ∧ l = k then f (s.thread c k) else s.thread j l := by
  simp only [thread, coreAt_modThread]
  by_cases h : j = c
  · subst h; simp only [if_true, SMap.get_put, true_and]
  · simp [h]

@[simp] theorem thread_modThread_self (s : State) (c k : Nat) (f : Thread → Thread) :
    (s.modThread c k f).thread c k = f (s.thread c k) := by simp [thread_modThread]

theorem thread_modThread_ne (s : State) {c k j l : Nat} (f : Thread → Thread) (h : ¬(j = c ∧ l = k)) :
    (s.modThread c k f).thread j l = s.thread j l := by rw [thread_modThread, if_neg h]

theorem thread_modCore (s : State) (c j l : Nat) (f : Core → Core) (h : ∀ x, (f x).threads = x.threads) :
    (s.modCore c f).thread j l = s.thread j l := by
  simp only [thread, coreAt_modCore]; split
  · rw [h]
  · rfl

@[simp] theorem thread_setSpan (s : State) (n j l : Nat) (x : Span) : (s.setSpan n x).thread j l = s.thread j l := rfl
@[simp] theorem thread_modSpan (s : State) (n j l : Nat) (f : Span → Span) : (s.modSpan n f).thread j l = s.thread j l := rfl
@[simp] theorem thread_modGang (s : State) (h j l : Nat) (f : Gang → Gang) : (s.modGang h f).thread j l = s.thread j l := by
  simp [thread]

@[simp] theorem me_modMe (s : State) (f : Thread → Thread) : (s.modMe f).me = f s.me := by
  simp [me, modMe]

@[simp] theorem me_modGang (s : State) (h : Nat) (f : Gang → Gang) : (s.modGang h f).me = s.me := by simp [me]

@[simp] theorem me_modSpan (s : State) (n : Nat) (f : Span → Span) : (s.modSpan n f).me = s.me := rfl

/-! ## Spans -/

theorem spanAt_setSpan (s : State) (n j : Nat) (x : Span) : (s.setSpan n x).spanAt j = if j = n then x else s.spanAt j :=
  SMap.get_put Span.idle s.spans n j x

theorem spanAt_modSpan (s : State) (n j : Nat) (f : Span → Span) :
    (s.modSpan n f).spanAt j = if j = n then f (s.spanAt j) else s.spanAt j := by
  simp only [modSpan, spanAt_setSpan]; split
  · next h => rw [h]
  · rfl

@[simp] theorem spanAt_modSpan_self (s : State) (n : Nat) (f : Span → Span) : (s.modSpan n f).spanAt n = f (s.spanAt n) := by
  simp [spanAt_modSpan]

@[simp] theorem spanAt_setCore (s : State) (c n : Nat) (x : Core) : (s.setCore c x).spanAt n = s.spanAt n := rfl
@[simp] theorem spanAt_modCore (s : State) (c n : Nat) (f : Core → Core) : (s.modCore c f).spanAt n = s.spanAt n := rfl
@[simp] theorem spanAt_modThread (s : State) (c k n : Nat) (f : Thread → Thread) :
    (s.modThread c k f).spanAt n = s.spanAt n := rfl
@[simp] theorem spanAt_modMe (s : State) (n : Nat) (f : Thread → Thread) : (s.modMe f).spanAt n = s.spanAt n := rfl
@[simp] theorem spanAt_modGang (s : State) (h n : Nat) (f : Gang → Gang) : (s.modGang h f).spanAt n = s.spanAt n := by
  simp [spanAt]

/-! ## Gangs -/

theorem gangAt_modGang (s : State) (h j : Nat) (f : Gang → Gang) :
    (s.modGang h f).gangAt j = if j = h then (s.gangAt j).map f else s.gangAt j := by
  unfold modGang
  split
  · next g hg =>
    simp only [gangAt, SMap.find?_put]
    split
    · next e => subst e; rw [gangAt] at hg; simp [hg]
    · rfl
  · next hg => split
               · next e => subst e; simp [hg]
               · rfl

@[simp] theorem gangAt_setCore (s : State) (c h : Nat) (x : Core) : (s.setCore c x).gangAt h = s.gangAt h := rfl
@[simp] theorem gangAt_modCore (s : State) (c h : Nat) (f : Core → Core) : (s.modCore c f).gangAt h = s.gangAt h := rfl
@[simp] theorem gangAt_modThread (s : State) (c k h : Nat) (f : Thread → Thread) :
    (s.modThread c k f).gangAt h = s.gangAt h := rfl
@[simp] theorem gangAt_modMe (s : State) (h : Nat) (f : Thread → Thread) : (s.modMe f).gangAt h = s.gangAt h := rfl
@[simp] theorem gangAt_modSpan (s : State) (n h : Nat) (f : Span → Span) : (s.modSpan n f).gangAt h = s.gangAt h := rfl

end Sys2Proof.Machine.State
end

