-- ==== Sys2Proof/Laws/Ops.lean ====
section
/-! SUPPORT. One lemma for each shared operation over threads that says everything it can do. -/

namespace Sys2Proof.Machine

/-! ## Registers -/

namespace Thread

@[simp] theorem reg_zero (t : Thread) : t.reg 0 = Val.zero := rfl

/-- A register after a write (R47). -/
theorem reg_setReg (t : Thread) (r q : Reg) (v : Val) :
    (t.setReg r v).reg q =
      if r = 0 then t.reg q
      else if q = 0 then Val.zero
      else if q = 1 ∨ q = r then ⟨v.v, v.p || t.tnt⟩
      else t.reg q := by
  by_cases r0 : r = 0
  · simp [setReg, r0]
  · by_cases q0 : q = 0
    · simp [reg, q0]
    · simp only [setReg, r0, if_false, reg, q0, raw, SMap.get_set]
      have n1 : (1 : Nat) = (1 : Reg).toNat := rfl
      simp only [n1, BitVec.toNat_inj]
      by_cases a : q = 1 <;> by_cases b : q = r <;> simp [a, b]

@[simp] theorem setReg_tnt (t : Thread) (r : Reg) (v : Val) : (t.setReg r v).tnt = t.tnt := by
  unfold setReg; split <;> rfl

@[simp] theorem setReg_async (t : Thread) (r : Reg) (v : Val) : (t.setReg r v).async = t.async := by
  unfold setReg; split <;> rfl

@[simp] theorem reg_retired (t : Thread) (n : Nat) (r : Reg) : (t.retired n).reg r = t.reg r := rfl

/-- An instruction that has retired has gone on to the next word (R87, R88). -/
theorem retired_eq_onward (t : Thread) (n : Nat) :
    t.retired n = ({ t with hash := foldHash t.hash t.word, pcOff := t.pcOff + 1, haltAt := none } : Thread).onward n := rfl

/-- A thread that goes on waits in ISSUED for its next word where it was in ISSUED, and is READY elsewhere; it keeps its registers. -/
theorem goesOn_onward (t : Thread) (n : Nat) : (t.onward n).goesOn := by
  by_cases h : t.stat = .issued <;> simp [onward, goesOn, h]

theorem goesOn_retired (t : Thread) (n : Nat) : (t.retired n).goesOn := by
  rw [retired_eq_onward]; exact goesOn_onward _ n

@[simp] theorem reg_onward (t : Thread) (n : Nat) (r : Reg) : (t.onward n).reg r = t.reg r := rfl

@[simp] theorem reg_readied (t : Thread) (n : Nat) (r : Reg) : (t.readied n).reg r = t.reg r := rfl

/-- The pending asynchronous trap has no part in whether a thread goes on. -/
theorem goesOn_of_calm {t u : Thread} (h : t.calm = u.calm) (g : u.goesOn) : t.goesOn := by
  have : t.calm.goesOn := h ▸ g
  exact this

theorem reg_of_calm {t u : Thread} (h : t.calm = u.calm) (r : Reg) : t.reg r = u.reg r := by
  have : t.calm.reg r = u.calm.reg r := by rw [h]
  exact this

theorem bare_of_calm {t u : Thread} (h : t.calm = u.calm) : t.bare = u.bare := by
  have : ({ t.calm with regs := [] } : Thread) = { u.calm with regs := [] } := by rw [h]
  exact this

end Thread

/-! ## What stays as it was -/

theorem SameOutside.refl (s : State) (c k : Nat) : SameOutside s s c k :=
  ⟨rfl, fun _ _ => rfl, rfl, fun _ _ => rfl, fun _ => .inl rfl⟩

theorem SameOutside.trans {s t u : State} {c k : Nat} (a : SameOutside s t c k) (b : SameOutside t u c k) :
    SameOutside s u c k where
  rest := b.rest.trans a.rest
  cores j h := (b.cores j h).trans (a.cores j h)
  core := b.core.trans a.core
  threads l h := (b.threads l h).trans (a.threads l h)
  gangs h := by
    rcases b.gangs h with e | e <;> rcases a.gangs h with f | f <;> rw [e, f]
    · exact .inl rfl
    · exact .inr rfl
    · exact .inr rfl
    · right; cases s.gangAt h <;> rfl

theorem SameOutside.core_eq {s t : State} {c k : Nat} (a : SameOutside s t c k) : t.core = s.core :=
  show t.outside.core = s.outside.core by rw [a.rest]

theorem SameOutside.ctx_eq {s t : State} {c k : Nat} (a : SameOutside s t c k) : t.ctx = s.ctx :=
  show t.outside.ctx = s.outside.ctx by rw [a.rest]

theorem SameOutside.clock_eq {s t : State} {c k : Nat} (a : SameOutside s t c k) : t.clock = s.clock :=
  show t.outside.clock = s.outside.clock by rw [a.rest]

/-- A change to one thread changes nothing outside it. -/
theorem sameOutside_modThread (s : State) (c k : Nat) (f : Thread → Thread) : SameOutside s (s.modThread c k f) c k where
  rest := rfl
  cores j h := by rw [State.coreAt_modThread, if_neg h]
  core := by rw [State.coreAt_modThread, if_pos rfl]; rfl
  threads l h := State.thread_modThread_ne s f (fun e => h e.2)
  gangs h := .inl rfl

/-- No superstep that can be replayed: nothing is journalled. -/
theorem touchCore_none (s : State) (c : Nat) (u : List Nat) (by_ : Option (Nat × Nat)) (h : s.replaying (spanOf c) = none) :
    s.touchCore c u by_ = s := by simp [State.touchCore, h]

/-- Journalling a change that a thread makes: units are added to the core's journal; or the journal is full, its gang's superstep
can no longer be replayed, and JOURNAL_FULL is pending at the thread (R322, R324). -/
theorem touchCore_cases (s : State) (c k : Nat) (u : List Nat) :
    s.touchCore c u (some (c, k)) = s ∨
    ((s.replaying (spanOf c)).isSome = true ∧
      ((∃ n, s.touchCore c u (some (c, k)) = s.modCore c (fun x => { x with journal := x.journal ++ n })) ∨
       (∃ h, s.touchCore c u (some (c, k)) =
          (s.modGang h (fun g => { g with replay := false })).setAsync c k Cause.journalFull 0))) := by
  unfold State.touchCore
  split
  · exact .inl rfl
  · next h _ e =>
    dsimp only
    split
    · exact .inl rfl
    · right; refine ⟨by simp [e], ?_⟩
      split
      · exact .inl ⟨_, rfl⟩
      · exact .inr ⟨h, rfl⟩

theorem touchCore_outside (s : State) (c k : Nat) (u : List Nat) : SameOutside s (s.touchCore c u (some (c, k))) c k := by
  rcases touchCore_cases s c k u with e | ⟨_, ⟨n, e⟩ | ⟨h, e⟩⟩ <;> rw [e]
  · exact .refl s c k
  · exact ⟨rfl, fun j h => State.coreAt_modCore_ne s _ h, by rw [State.coreAt_modCore_self]; rfl,
      fun l _ => State.thread_modCore s c c l _ (fun _ => rfl), fun _ => .inl rfl⟩
  · refine SameOutside.trans (t := s.modGang h (fun g => { g with replay := false })) ?_ (sameOutside_modThread _ c k _)
    refine ⟨?_, fun j _ => State.coreAt_modGang .., by rw [State.coreAt_modGang], fun l _ => State.thread_modGang .., fun j => ?_⟩
    · unfold State.modGang; split <;> rfl
    · rw [State.gangAt_modGang]; split
      · exact .inr rfl
      · exact .inl rfl

theorem touchCore_calm (s : State) (c k : Nat) (u : List Nat) :
    ((s.touchCore c u (some (c, k))).thread c k).calm = (s.thread c k).calm := by
  rcases touchCore_cases s c k u with e | ⟨_, ⟨n, e⟩ | ⟨h, e⟩⟩ <;> rw [e]
  · rw [State.thread_modCore]; exact fun _ => rfl
  · rw [State.setAsync, State.thread_modThread_self]
    split <;> simp [Thread.calm]

theorem touchCore_async (s : State) (c k : Nat) (u : List Nat) : AsyncKept s (s.touchCore c u (some (c, k))) c k := by
  unfold AsyncKept
  rcases touchCore_cases s c k u with e | ⟨r, ⟨n, e⟩ | ⟨h, e⟩⟩ <;> rw [e]
  · exact .inl rfl
  · rw [State.thread_modCore]
    · exact .inl rfl
    · exact fun _ => rfl
  · rw [State.setAsync, State.thread_modThread_self]
    split
    · next g => exact .inr ⟨by simpa using g, r, rfl⟩
    · exact .inl (by simp)

/-- Where nothing outside a thread has changed, a superstep that can be replayed could be replayed before. -/
theorem replaying_of_outside {s t : State} {c k : Nat} (a : SameOutside s t c k) (n : Nat)
    (h : (t.replaying n).isSome = true) : (s.replaying n).isSome = true := by
  have e : t.spanAt n = s.spanAt n := show t.outside.spanAt n = s.outside.spanAt n by rw [a.rest]
  revert h
  simp only [State.replaying, e]
  cases (s.spanAt n).gang with
  | none => exact id
  | some j =>
    dsimp only
    rcases a.gangs j with g | g <;> rw [g]
    · exact id
    · cases s.gangAt j <;> simp

theorem AsyncKept.trans {s t u : State} {c k : Nat} (o : SameOutside s t c k) (a : AsyncKept s t c k)
    (b : AsyncKept t u c k) : AsyncKept s u c k := by
  rcases b with b | ⟨n, r, b⟩
  · rcases a with a | ⟨n, r, a⟩
    · exact .inl (b.trans a)
    · exact .inr ⟨n, r, b.trans a⟩
  · rcases a with a | ⟨_, _, a⟩
    · exact .inr ⟨a ▸ n, replaying_of_outside o _ r, b⟩
    · rw [a] at n; exact absurd n (by simp)

theorem asyncKept_modThread (s : State) (c k : Nat) (f : Thread → Thread) (h : (f (s.thread c k)).async = (s.thread c k).async) :
    AsyncKept s (s.modThread c k f) c k := .inl (by rw [State.thread_modThread_self]; exact h)

/-! ## Results and retirement -/

/-- A result written to a register of a context. -/
theorem setRegAt_outside (s : State) (c k : Nat) (r : Reg) (v : Val) : SameOutside s (s.setRegAt c k r v) c k := by
  unfold State.setRegAt; split
  · exact (sameOutside_modThread s c k _).trans (touchCore_outside _ c k _)
  · exact sameOutside_modThread s c k _

theorem setRegAt_calm (s : State) (c k : Nat) (r : Reg) (v : Val) :
    ((s.setRegAt c k r v).thread c k).calm = ((s.thread c k).setReg r v).calm := by
  unfold State.setRegAt; split
  · rw [touchCore_calm, State.thread_modThread_self]
  · rw [State.thread_modThread_self]

theorem setRegAt_async (s : State) (c k : Nat) (r : Reg) (v : Val) : AsyncKept s (s.setRegAt c k r v) c k := by
  have a := asyncKept_modThread s c k (fun t => t.setReg r v) (Thread.setReg_async ..)
  unfold State.setRegAt; split
  · exact a.trans (sameOutside_modThread s c k _) (touchCore_async _ c k _)
  · exact a

/-- The instruction of a context retires. -/
theorem retireAt_outside (s : State) (c k : Nat) : SameOutside s (s.retireAt c k) c k :=
  (sameOutside_modThread s c k _).trans (touchCore_outside _ c k _)

theorem retireAt_calm (s : State) (c k : Nat) :
    ((s.retireAt c k).thread c k).calm = ((s.thread c k).retired s.clock).calm := by
  simp only [State.retireAt]
  rw [touchCore_calm, State.thread_modThread_self]; rfl

theorem retireAt_async (s : State) (c k : Nat) : AsyncKept s (s.retireAt c k) c k :=
  (asyncKept_modThread s c k _ rfl).trans (sameOutside_modThread s c k _) (touchCore_async _ c k _)

/-- The running thread changes and retires: the shape of an instruction without a result in a register. -/
theorem retires (s : State) (f : Thread → Thread) (h : (f s.me).async = s.me.async) :
    Retires s ((s.modMe f).retire) (f s.me) where
  outside := (sameOutside_modThread s s.core s.ctx f).trans (retireAt_outside _ _ _)
  me := by
    have := retireAt_calm (s.modMe f) s.core s.ctx
    have e : ((s.modMe f).retire).core = s.core ∧ ((s.modMe f).retire).ctx = s.ctx :=
      ⟨(retireAt_outside (s.modMe f) s.core s.ctx).core_eq, (retireAt_outside (s.modMe f) s.core s.ctx).ctx_eq⟩
    rw [State.me, e.1, e.2]
    have m : (s.modMe f).thread s.core s.ctx = f s.me := State.thread_modThread_self ..
    rw [m] at this; exact this
  async := (asyncKept_modThread s s.core s.ctx f h).trans (sameOutside_modThread s s.core s.ctx f) (retireAt_async _ _ _)

theorem finish_eq (s : State) (d : Reg) (v : Val) :
    s.finish d v = (s.setRegAt s.core s.ctx d v).retireAt s.core s.ctx := by
  have o := setRegAt_outside s s.core s.ctx d v
  rw [State.finish, State.retire]
  rw [show (s.setD d v).core = s.core from o.core_eq, show (s.setD d v).ctx = s.ctx from o.ctx_eq]
  rfl

/-- The running thread writes a result and retires: the shape of an instruction with a result in a register. -/
theorem finish_result (s : State) (d : Reg) (v : Val) : Result s (s.finish d v) s.me d v := by
  have o := setRegAt_outside s s.core s.ctx d v
  have out : SameOutside s (s.finish d v) s.core s.ctx := by
    rw [finish_eq]; exact o.trans (retireAt_outside _ _ _)
  have me : (s.finish d v).me.calm = ((s.me.setReg d v).retired s.clock).calm := by
    have a := retireAt_calm (s.setRegAt s.core s.ctx d v) s.core s.ctx
    have b := setRegAt_calm s s.core s.ctx d v
    rw [State.me, out.core_eq, out.ctx_eq, finish_eq, a, o.clock_eq]
    have : ((s.setRegAt s.core s.ctx d v).thread s.core s.ctx).calm.retired s.clock = (s.me.setReg d v).calm.retired s.clock := by
      rw [b]; rfl
    exact this
  have rg (r : Reg) : (s.finish d v).reg r = (s.me.setReg d v).reg r := Thread.reg_of_calm me r
  refine ⟨out, fun h0 => ?_, fun h0 => ?_, fun r h0 h1 => ?_, Thread.bare_of_calm me, ?_⟩
  · rw [rg, rg, Thread.reg_setReg, Thread.reg_setReg, if_neg h0, if_neg h0, if_neg h0, if_pos (.inr rfl),
      if_neg (by decide), if_pos (.inl rfl)]
    exact ⟨rfl, rfl⟩
  · simp only [rg, Thread.reg_setReg, if_pos h0]
    exact ⟨by rw [h0]; rfl, trivial⟩
  · rw [rg, Thread.reg_setReg]
    by_cases d0 : d = 0
    · rw [if_pos d0]
    · by_cases r0 : r = 0
      · rw [if_neg d0, if_pos r0, r0]; rfl
      · rw [if_neg d0, if_neg r0, if_neg (fun e => e.elim h1 h0)]
  · rw [finish_eq]
    exact (setRegAt_async _ _ _ _ _).trans o (retireAt_async _ _ _)

/-- The same after a change to the running thread. -/
theorem finish_modMe (s : State) (f : Thread → Thread) (d : Reg) (v : Val) (h : (f s.me).async = s.me.async) :
    Result s ((s.modMe f).finish d v) (f s.me) d v := by
  have r := finish_result (s.modMe f) d v
  rw [State.me_modMe] at r
  exact ⟨(sameOutside_modThread s s.core s.ctx f).trans r.outside, r.written, r.discarded, r.others, r.rest,
    (asyncKept_modThread s s.core s.ctx f h).trans (sameOutside_modThread s s.core s.ctx f) r.async⟩

/-! ## Traps -/

/-- Where a gang does not turn a trap into something else, the thread is TRAPPED with the cause, its position and the value. -/
theorem raiseTrapAt_trapped (s : State) (c k : Nat) (cause : BitVec 8) (tval : Word) (h : trapsPlainlyAt s c k cause = true) :
    TrappedAt s (s.raiseTrapAt c k cause tval) c k cause tval := by
  have key : TrappedAt s ((s.modThread c k (fun t =>
      { t with stat := .trapped, cause := cause, tpc := pcWord t.pcBlk t.pcOff, tval := tval,
               code := none, held := none, wait := .none, age := s.clock })).touchCore c [unitOfThread k] (some (c, k))) c k cause tval := by
    have o := (sameOutside_modThread s c k (fun t =>
      { t with stat := .trapped, cause := cause, tpc := pcWord t.pcBlk t.pcOff, tval := tval, code := none, held := none,
               wait := .none, age := s.clock })).trans
      (touchCore_outside _ c k [unitOfThread k])
    refine ⟨o, ?_, (asyncKept_modThread s c k _ rfl).trans (sameOutside_modThread s c k _) (touchCore_async _ _ _ _)⟩
    rw [touchCore_calm, State.thread_modThread_self]
  unfold State.raiseTrapAt
  simp only [trapsPlainlyAt, State.gangOf] at h
  revert h
  show _ → TrappedAt s (match (s.thread c k).gang? with | none => _ | some h => _) c k cause tval
  cases e : (s.thread c k).gang? with
  | none => exact fun _ => key
  | some j =>
    simp only [Option.bind_some]
    cases s.gangAt j with
    | none => exact fun _ => key
    | some g =>
      simp only [Bool.and_eq_true, decide_eq_true_eq, Bool.not_eq_true']
      intro ⟨a, b⟩
      rw [if_neg a, if_neg (by simpa using b)]
      exact key

/-- The same of the running thread. -/
theorem raiseTrap_trapped (s : State) (cause : BitVec 8) (tval : Word) (h : trapsPlainly s cause = true) :
    Trapped s (s.raiseTrap cause tval) cause tval := raiseTrapAt_trapped s s.core s.ctx cause tval h

end Sys2Proof.Machine
end

