-- ==== Sys2Proof/Laws/PerInstr.lean ====
section
/-! SUPPORT. One lemma per constructor of Instr for each family of statements over all instructions. Family Encoding: the
decoder gives back every well-formed instruction from the word that the encoder makes of it (R46 to R59). -/

set_option linter.constructorNameAsVariable false
set_option linter.unusedSimpArgs false
set_option linter.unusedVariables false
set_option Elab.async false

namespace Sys2Proof.Laws.Encoding

open Sys2Proof.Machine

/-- Decoding the word of a well-formed instruction gives the instruction. -/
def Statement (i : Instr) : Prop := i.wellFormed = true → ∀ w, encode i = some w → decode w = .ok i

theorem patrolScrubRead (pa : Nat) (res : ScrubResult) : Statement (.patrolScrubRead pa res) := by intro _ w h; cases h
theorem recalibration (unit : Nat) : Statement (.recalibration unit) := by intro _ w h; cases h
theorem powerInterval (pred : List Nat) (temps : List Nat) (watts : Nat) : Statement (.powerInterval pred temps watts) := by intro _ w h; cases h
theorem mailboxArrival (k : Nat) : Statement (.mailboxArrival k) := by intro _ w h; cases h
theorem counterPost (src : PostSrc) : Statement (.counterPost src) := by intro _ w h; cases h
theorem trapDelivery (core ctx : Nat) : Statement (.trapDelivery core ctx) := by intro _ w h; cases h
theorem asyncTrapTake (core ctx : Nat) : Statement (.asyncTrapTake core ctx) := by intro _ w h; cases h
theorem registerFill (core ctx n : Nat) : Statement (.registerFill core ctx n) := by intro _ w h; cases h
theorem contextRelease (core ctx : Nat) : Statement (.contextRelease core ctx) := by intro _ w h; cases h
theorem tableRefreshEnd (core tbl : Nat) : Statement (.tableRefreshEnd core tbl) := by intro _ w h; cases h
theorem debugHalt (core ctx : Nat) : Statement (.debugHalt core ctx) := by intro _ w h; cases h
theorem ringWaitStart (core ctx : Nat) : Statement (.ringWaitStart core ctx) := by intro _ w h; cases h
theorem vectorComplete (core : Nat) : Statement (.vectorComplete core) := by intro _ w h; cases h
theorem matrixAccept (core ctx : Nat) : Statement (.matrixAccept core ctx) := by intro _ w h; cases h
theorem matrixComplete (core : Nat) (epilogue : Bool) : Statement (.matrixComplete core epilogue) := by intro _ w h; cases h
theorem brotStep (core : Nat) (latch : Bool) : Statement (.brotStep core latch) := by intro _ w h; cases h
theorem brotTimeout (core : Nat) (latch : Bool) : Statement (.brotTimeout core latch) := by intro _ w h; cases h
theorem mma2GroupOp (core : Nat) : Statement (.mma2GroupOp core) := by intro _ w h; cases h
theorem mma2Timeout (core : Nat) : Statement (.mma2Timeout core) := by intro _ w h; cases h
theorem mailboxReserve (core ctx : Nat) : Statement (.mailboxReserve core ctx) := by intro _ w h; cases h
theorem streamerRequestStart (span : Nat) : Statement (.streamerRequestStart span) := by intro _ w h; cases h
theorem streamerCompletion (span k : Nat) : Statement (.streamerCompletion span k) := by intro _ w h; cases h
theorem remoteRequest (port : Nat) (hdr : List Word) (data : List Byte) : Statement (.remoteRequest port hdr data) := by intro _ w h; cases h
theorem remoteAck (port : Nat) (w0 w1 : Word) : Statement (.remoteAck port w0 w1) := by intro _ w h; cases h
theorem flitReceive (port : Nat) (bytes : List Byte) : Statement (.flitReceive port bytes) := by intro _ w h; cases h
theorem portSignalDetect (port : Nat) : Statement (.portSignalDetect port) := by intro _ w h; cases h
theorem laneAligned (port : Nat) : Statement (.laneAligned port) := by intro _ w h; cases h
theorem deskewTimeout (port : Nat) : Statement (.deskewTimeout port) := by intro _ w h; cases h
theorem equaliseSettled (port : Nat) : Statement (.equaliseSettled port) := by intro _ w h; cases h
theorem equaliseTimeout (port : Nat) : Statement (.equaliseTimeout port) := by intro _ w h; cases h
theorem capabilityRecord (port : Nat) (w0 : Word) : Statement (.capabilityRecord port w0) := by intro _ w h; cases h
theorem signalLoss (port : Nat) : Statement (.signalLoss port) := by intro _ w h; cases h
theorem portEnWrite (port : Nat) (en : Bool) : Statement (.portEnWrite port en) := by intro _ w h; cases h
theorem portRetrain (port : Nat) : Statement (.portRetrain port) := by intro _ w h; cases h
theorem hostMemRead (pa : Nat) (bytes : Nat) : Statement (.hostMemRead pa bytes) := by intro _ w h; cases h
theorem hostMemWrite (pa : Nat) (data : List Byte) : Statement (.hostMemWrite pa data) := by intro _ w h; cases h
theorem queueEnableWrite (q : Nat) (v : Word) : Statement (.queueEnableWrite q v) := by intro _ w h; cases h
theorem qprodWrite (q : Nat) (v : Word) : Statement (.qprodWrite q v) := by intro _ w h; cases h
theorem queueErrClear (q : Nat) : Statement (.queueErrClear q) := by intro _ w h; cases h
theorem recordFetch (q : Nat) : Statement (.recordFetch q) := by intro _ w h; cases h
theorem recordReserving (seq : Nat) : Statement (.recordReserving seq) := by intro _ w h; cases h
theorem gangStart (h : Nat) : Statement (.gangStart h) := by intro _ w h; cases h
theorem copyRecordRun (seq : Nat) : Statement (.copyRecordRun seq) := by intro _ w h; cases h
theorem gangRetire (h : Nat) : Statement (.gangRetire h) := by intro _ w h; cases h
theorem preemptHalt (h : Nat) : Statement (.preemptHalt h) := by intro _ w h; cases h
theorem swapOut (h : Nat) : Statement (.swapOut h) := by intro _ w h; cases h
theorem swapIn (h : Nat) : Statement (.swapIn h) := by intro _ w h; cases h
theorem gangStall (h : Nat) : Statement (.gangStall h) := by intro _ w h; cases h
theorem evtwaitTimeout (core ctx : Nat) : Statement (.evtwaitTimeout core ctx) := by intro _ w h; cases h
theorem spanReport (span : Nat) : Statement (.spanReport span) := by intro _ w h; cases h
theorem collectiveComplete (h : Nat) : Statement (.collectiveComplete h) := by intro _ w h; cases h
theorem rollback (h : Nat) : Statement (.rollback h) := by intro _ w h; cases h
theorem rollbackRestore (h : Nat) : Statement (.rollbackRestore h) := by intro _ w h; cases h
theorem cancelArrival (core : Nat) : Statement (.cancelArrival core) := by intro _ w h; cases h
theorem drawAccept (core ctx : Nat) : Statement (.drawAccept core ctx) := by intro _ w h; cases h
theorem tlbinvComplete (k : Nat) : Statement (.tlbinvComplete k) := by intro _ w h; cases h
theorem pageReleaseComplete (k : Nat) : Statement (.pageReleaseComplete k) := by intro _ w h; cases h
theorem attcmdWrite (v : Word) : Statement (.attcmdWrite v) := by intro _ w h; cases h
theorem pcapWrite (v : Word) : Statement (.pcapWrite v) := by intro _ w h; cases h
theorem scrWrite (v : BitVec 4) : Statement (.scrWrite v) := by intro _ w h; cases h
theorem rclWrite (v : BitVec 4) : Statement (.rclWrite v) := by intro _ w h; cases h
theorem registerWrite (off : Nat) (v : Word) : Statement (.registerWrite off v) := by intro _ w h; cases h
theorem next (tb : BitVec 3) (a : Reg) : Statement (.next tb a) := by
  intro hw w h; cases h
  rw [decode_word]; refine (fields_0 _ 0x1 (by simp) (by simp)).trans ?_
  simp (disch := decide) only [decode0, need, fM, immM, immS, immT, immX, coded, bits_straddle, bits_append_lo,
    bits_append_hi, bits_all, bit_append_hi, bit_append_lo, bit_ofBool, atLeast32, only64]
  simp [bits_all, bit_ofBool]
theorem tstart (d a : Reg) (blk : Half) : Statement (.tstart d a blk) := by
  intro hw w h; cases h
  rw [decode_word]; refine (fields_0 _ 0x3 (by simp) (by simp)).trans ?_
  simp (disch := decide) only [decode0, need, fM, immM, immS, immT, immX, coded, bits_straddle, bits_append_lo,
    bits_append_hi, bits_all, bit_append_hi, bit_append_lo, bit_ofBool, atLeast32, only64]
  simp [bits_all, bit_ofBool]
theorem trap (code : Half) : Statement (.trap code) := by
  intro hw w h; cases h
  rw [decode_word]; refine (fields_0 _ 0x5 (by simp) (by simp)).trans ?_
  simp (disch := decide) only [decode0, need, fM, immM, immS, immT, immX, coded, bits_straddle, bits_append_lo,
    bits_append_hi, bits_all, bit_append_hi, bit_append_lo, bit_ofBool, atLeast32, only64]
  simp [bits_all, bit_ofBool]
theorem brk (code : Half) : Statement (.brk code) := by
  intro hw w h; cases h
  rw [decode_word]; refine (fields_0 _ 0x6 (by simp) (by simp)).trans ?_
  simp (disch := decide) only [decode0, need, fM, immM, immS, immT, immX, coded, bits_straddle, bits_append_lo,
    bits_append_hi, bits_all, bit_append_hi, bit_append_lo, bit_ofBool, atLeast32, only64]
  simp [bits_all, bit_ofBool]
theorem tret (skip : Bool) : Statement (.tret skip) := by
  intro hw w h; cases h
  rw [decode_word]; refine (fields_0 _ 0x7 (by simp) (by simp)).trans ?_
  simp (disch := decide) only [decode0, need, fM, immM, immS, immT, immX, coded, bits_straddle, bits_append_lo,
    bits_append_hi, bits_all, bit_append_hi, bit_append_lo, bit_ofBool, atLeast32, only64]
  simp [bits_all, bit_ofBool]
theorem srd (d : Reg) (n : SReg) : Statement (.srd d n) := by
  intro hw w h; cases h
  rw [decode_word]; refine (fields_0 _ 0x8 (by simp) (by simp)).trans ?_
  simp (disch := decide) only [decode0, need, fM, immM, immS, immT, immX, coded, bits_straddle, bits_append_lo,
    bits_append_hi, bits_all, bit_append_hi, bit_append_lo, bit_ofBool, atLeast32, only64]
  simp [bits_all, bit_ofBool]
theorem swr (n : SReg) (a : Reg) : Statement (.swr n a) := by
  intro hw w h; cases h
  rw [decode_word]; refine (fields_0 _ 0x9 (by simp) (by simp)).trans ?_
  simp (disch := decide) only [decode0, need, fM, immM, immS, immT, immX, coded, bits_straddle, bits_append_lo,
    bits_append_hi, bits_all, bit_append_hi, bit_append_lo, bit_ofBool, atLeast32, only64]
  simp [bits_all, bit_ofBool]
  exact hw
theorem gdead (half : Bool) (mask : Half) : Statement (.gdead half mask) := by
  intro hw w h; cases h
  rw [decode_word]; refine (fields_0 _ 0xA (by simp) (by simp)).trans ?_
  simp (disch := decide) only [decode0, need, fM, immM, immS, immT, immX, coded, bits_straddle, bits_append_lo,
    bits_append_hi, bits_all, bit_append_hi, bit_append_lo, bit_ofBool, atLeast32, only64]
  simp [bits_all, bit_ofBool]
  intro hh; subst hh; exact high_zero mask (by simpa [Instr.wellFormed] using hw)
theorem tbw (tb : BitVec 3) (idx : KIdx) (part : Part) (a : Reg) : Statement (.tbw tb idx part a) := by
  intro hw w h; cases h
  rw [decode_word]; refine (fields_1 _ 0x0 (by simp) (by simp)).trans ?_
  simp (disch := decide) only [decode1, need, fM, immM, immS, immT, immX, coded, bits_straddle, bits_append_lo,
    bits_append_hi, bits_all, bit_append_hi, bit_append_lo, bit_ofBool, atLeast32, only64]
  simp [bits_all, bit_ofBool]
  exact kIdx_read ..
theorem tbr (d : Reg) (tb : BitVec 3) (idx : KIdx) (part : Part) : Statement (.tbr d tb idx part) := by
  intro hw w h; cases h
  rw [decode_word]; refine (fields_1 _ 0x1 (by simp) (by simp)).trans ?_
  simp (disch := decide) only [decode1, need, fM, immM, immS, immT, immX, coded, bits_straddle, bits_append_lo,
    bits_append_hi, bits_all, bit_append_hi, bit_append_lo, bit_ofBool, atLeast32, only64]
  simp [bits_all, bit_ofBool]
  exact kIdx_read ..
theorem tbcommit (d : Reg) (tb : BitVec 3) : Statement (.tbcommit d tb) := by
  intro hw w h; cases h
  rw [decode_word]; refine (fields_1 _ 0x2 (by simp) (by simp)).trans ?_
  simp (disch := decide) only [decode1, need, fM, immM, immS, immT, immX, coded, bits_straddle, bits_append_lo,
    bits_append_hi, bits_all, bit_append_hi, bit_append_lo, bit_ofBool, atLeast32, only64]
  simp [bits_all, bit_ofBool]
theorem tbclr (tb : BitVec 3) : Statement (.tbclr tb) := by
  intro hw w h; cases h
  rw [decode_word]; refine (fields_1 _ 0x3 (by simp) (by simp)).trans ?_
  simp (disch := decide) only [decode1, need, fM, immM, immS, immT, immX, coded, bits_straddle, bits_append_lo,
    bits_append_hi, bits_all, bit_append_hi, bit_append_lo, bit_ofBool, atLeast32, only64]
  simp [bits_all, bit_ofBool]
theorem tblook (d : Reg) (tb : BitVec 3) (a : Reg) : Statement (.tblook d tb a) := by
  intro hw w h; cases h
  rw [decode_word]; refine (fields_1 _ 0x4 (by simp) (by simp)).trans ?_
  simp (disch := decide) only [decode1, need, fM, immM, immS, immT, immX, coded, bits_straddle, bits_append_lo,
    bits_append_hi, bits_all, bit_append_hi, bit_append_lo, bit_ofBool, atLeast32, only64]
  simp [bits_all, bit_ofBool]
theorem tbgen (d : Reg) (tb : BitVec 3) : Statement (.tbgen d tb) := by
  intro hw w h; cases h
  rw [decode_word]; refine (fields_1 _ 0x5 (by simp) (by simp)).trans ?_
  simp (disch := decide) only [decode1, need, fM, immM, immS, immT, immX, coded, bits_straddle, bits_append_lo,
    bits_append_hi, bits_all, bit_append_hi, bit_append_lo, bit_ofBool, atLeast32, only64]
  simp [bits_all, bit_ofBool]
theorem add (d a b : Reg) : Statement (.add d a b) := by
  intro hw w h; cases h
  rw [decode_word]; refine (fields_2 _ 0x0 (by simp) (by simp)).trans ?_
  simp (disch := decide) only [decode2, need, fM, immM, immS, immT, immX, coded, bits_straddle, bits_append_lo,
    bits_append_hi, bits_all, bit_append_hi, bit_append_lo, bit_ofBool, atLeast32, only64]
  simp [bits_all, bit_ofBool]
theorem addi (d a : Reg) (imm : Half) : Statement (.addi d a imm) := by
  intro hw w h; cases h
  rw [decode_word]; refine (fields_2 _ 0x1 (by simp) (by simp)).trans ?_
  simp (disch := decide) only [decode2, need, fM, immM, immS, immT, immX, coded, bits_straddle, bits_append_lo,
    bits_append_hi, bits_all, bit_append_hi, bit_append_lo, bit_ofBool, atLeast32, only64]
  simp [bits_all, bit_ofBool]
theorem sub (d a b : Reg) : Statement (.sub d a b) := by
  intro hw w h; cases h
  rw [decode_word]; refine (fields_2 _ 0x2 (by simp) (by simp)).trans ?_
  simp (disch := decide) only [decode2, need, fM, immM, immS, immT, immX, coded, bits_straddle, bits_append_lo,
    bits_append_hi, bits_all, bit_append_hi, bit_append_lo, bit_ofBool, atLeast32, only64]
  simp [bits_all, bit_ofBool]
theorem mul (d a b : Reg) : Statement (.mul d a b) := by
  intro hw w h; cases h
  rw [decode_word]; refine (fields_2 _ 0x3 (by simp) (by simp)).trans ?_
  simp (disch := decide) only [decode2, need, fM, immM, immS, immT, immX, coded, bits_straddle, bits_append_lo,
    bits_append_hi, bits_all, bit_append_hi, bit_append_lo, bit_ofBool, atLeast32, only64]
  simp [bits_all, bit_ofBool]
theorem mulh (d a b : Reg) : Statement (.mulh d a b) := by
  intro hw w h; cases h
  rw [decode_word]; refine (fields_2 _ 0x4 (by simp) (by simp)).trans ?_
  simp (disch := decide) only [decode2, need, fM, immM, immS, immT, immX, coded, bits_straddle, bits_append_lo,
    bits_append_hi, bits_all, bit_append_hi, bit_append_lo, bit_ofBool, atLeast32, only64]
  simp [bits_all, bit_ofBool]
theorem mulhu (d a b : Reg) : Statement (.mulhu d a b) := by
  intro hw w h; cases h
  rw [decode_word]; refine (fields_2 _ 0x5 (by simp) (by simp)).trans ?_
  simp (disch := decide) only [decode2, need, fM, immM, immS, immT, immX, coded, bits_straddle, bits_append_lo,
    bits_append_hi, bits_all, bit_append_hi, bit_append_lo, bit_ofBool, atLeast32, only64]
  simp [bits_all, bit_ofBool]
theorem div (d a b : Reg) : Statement (.div d a b) := by
  intro hw w h; cases h
  rw [decode_word]; refine (fields_2 _ 0x6 (by simp) (by simp)).trans ?_
  simp (disch := decide) only [decode2, need, fM, immM, immS, immT, immX, coded, bits_straddle, bits_append_lo,
    bits_append_hi, bits_all, bit_append_hi, bit_append_lo, bit_ofBool, atLeast32, only64]
  simp [bits_all, bit_ofBool]
theorem divu (d a b : Reg) : Statement (.divu d a b) := by
  intro hw w h; cases h
  rw [decode_word]; refine (fields_2 _ 0x7 (by simp) (by simp)).trans ?_
  simp (disch := decide) only [decode2, need, fM, immM, immS, immT, immX, coded, bits_straddle, bits_append_lo,
    bits_append_hi, bits_all, bit_append_hi, bit_append_lo, bit_ofBool, atLeast32, only64]
  simp [bits_all, bit_ofBool]
theorem rem (d a b : Reg) : Statement (.rem d a b) := by
  intro hw w h; cases h
  rw [decode_word]; refine (fields_2 _ 0x8 (by simp) (by simp)).trans ?_
  simp (disch := decide) only [decode2, need, fM, immM, immS, immT, immX, coded, bits_straddle, bits_append_lo,
    bits_append_hi, bits_all, bit_append_hi, bit_append_lo, bit_ofBool, atLeast32, only64]
  simp [bits_all, bit_ofBool]
theorem remu (d a b : Reg) : Statement (.remu d a b) := by
  intro hw w h; cases h
  rw [decode_word]; refine (fields_2 _ 0x9 (by simp) (by simp)).trans ?_
  simp (disch := decide) only [decode2, need, fM, immM, immS, immT, immX, coded, bits_straddle, bits_append_lo,
    bits_append_hi, bits_all, bit_append_hi, bit_append_lo, bit_ofBool, atLeast32, only64]
  simp [bits_all, bit_ofBool]
theorem and (d a b : Reg) : Statement (.and d a b) := by
  intro hw w h; cases h
  rw [decode_word]; refine (fields_2 _ 0xA (by simp) (by simp)).trans ?_
  simp (disch := decide) only [decode2, need, fM, immM, immS, immT, immX, coded, bits_straddle, bits_append_lo,
    bits_append_hi, bits_all, bit_append_hi, bit_append_lo, bit_ofBool, atLeast32, only64]
  simp [bits_all, bit_ofBool]
theorem andi (d a : Reg) (imm : Half) : Statement (.andi d a imm) := by
  intro hw w h; cases h
  rw [decode_word]; refine (fields_2 _ 0xB (by simp) (by simp)).trans ?_
  simp (disch := decide) only [decode2, need, fM, immM, immS, immT, immX, coded, bits_straddle, bits_append_lo,
    bits_append_hi, bits_all, bit_append_hi, bit_append_lo, bit_ofBool, atLeast32, only64]
  simp [bits_all, bit_ofBool]
theorem or (d a b : Reg) : Statement (.or d a b) := by
  intro hw w h; cases h
  rw [decode_word]; refine (fields_2 _ 0xC (by simp) (by simp)).trans ?_
  simp (disch := decide) only [decode2, need, fM, immM, immS, immT, immX, coded, bits_straddle, bits_append_lo,
    bits_append_hi, bits_all, bit_append_hi, bit_append_lo, bit_ofBool, atLeast32, only64]
  simp [bits_all, bit_ofBool]
theorem ori (d a : Reg) (imm : Half) : Statement (.ori d a imm) := by
  intro hw w h; cases h
  rw [decode_word]; refine (fields_2 _ 0xD (by simp) (by simp)).trans ?_
  simp (disch := decide) only [decode2, need, fM, immM, immS, immT, immX, coded, bits_straddle, bits_append_lo,
    bits_append_hi, bits_all, bit_append_hi, bit_append_lo, bit_ofBool, atLeast32, only64]
  simp [bits_all, bit_ofBool]
theorem xor (d a b : Reg) : Statement (.xor d a b) := by
  intro hw w h; cases h
  rw [decode_word]; refine (fields_2 _ 0xE (by simp) (by simp)).trans ?_
  simp (disch := decide) only [decode2, need, fM, immM, immS, immT, immX, coded, bits_straddle, bits_append_lo,
    bits_append_hi, bits_all, bit_append_hi, bit_append_lo, bit_ofBool, atLeast32, only64]
  simp [bits_all, bit_ofBool]
theorem xori (d a : Reg) (imm : Half) : Statement (.xori d a imm) := by
  intro hw w h; cases h
  rw [decode_word]; refine (fields_2 _ 0xF (by simp) (by simp)).trans ?_
  simp (disch := decide) only [decode2, need, fM, immM, immS, immT, immX, coded, bits_straddle, bits_append_lo,
    bits_append_hi, bits_all, bit_append_hi, bit_append_lo, bit_ofBool, atLeast32, only64]
  simp [bits_all, bit_ofBool]
theorem shl (d a b : Reg) : Statement (.shl d a b) := by
  intro hw w h; cases h
  rw [decode_word]; refine (fields_3 _ 0x0 (by simp) (by simp)).trans ?_
  simp (disch := decide) only [decode3, need, fM, immM, immS, immT, immX, coded, bits_straddle, bits_append_lo,
    bits_append_hi, bits_all, bit_append_hi, bit_append_lo, bit_ofBool, atLeast32, only64]
  simp [bits_all, bit_ofBool]
theorem shli (d a : Reg) (n : BitVec 6) : Statement (.shli d a n) := by
  intro hw w h; cases h
  rw [decode_word]; refine (fields_3 _ 0x1 (by simp) (by simp)).trans ?_
  simp (disch := decide) only [decode3, need, fM, immM, immS, immT, immX, coded, bits_straddle, bits_append_lo,
    bits_append_hi, bits_all, bit_append_hi, bit_append_lo, bit_ofBool, atLeast32, only64]
  simp [bits_all, bit_ofBool]
theorem shr (d a b : Reg) : Statement (.shr d a b) := by
  intro hw w h; cases h
  rw [decode_word]; refine (fields_3 _ 0x2 (by simp) (by simp)).trans ?_
  simp (disch := decide) only [decode3, need, fM, immM, immS, immT, immX, coded, bits_straddle, bits_append_lo,
    bits_append_hi, bits_all, bit_append_hi, bit_append_lo, bit_ofBool, atLeast32, only64]
  simp [bits_all, bit_ofBool]
theorem shri (d a : Reg) (n : BitVec 6) : Statement (.shri d a n) := by
  intro hw w h; cases h
  rw [decode_word]; refine (fields_3 _ 0x3 (by simp) (by simp)).trans ?_
  simp (disch := decide) only [decode3, need, fM, immM, immS, immT, immX, coded, bits_straddle, bits_append_lo,
    bits_append_hi, bits_all, bit_append_hi, bit_append_lo, bit_ofBool, atLeast32, only64]
  simp [bits_all, bit_ofBool]
theorem sar (d a b : Reg) : Statement (.sar d a b) := by
  intro hw w h; cases h
  rw [decode_word]; refine (fields_3 _ 0x4 (by simp) (by simp)).trans ?_
  simp (disch := decide) only [decode3, need, fM, immM, immS, immT, immX, coded, bits_straddle, bits_append_lo,
    bits_append_hi, bits_all, bit_append_hi, bit_append_lo, bit_ofBool, atLeast32, only64]
  simp [bits_all, bit_ofBool]
theorem sari (d a : Reg) (n : BitVec 6) : Statement (.sari d a n) := by
  intro hw w h; cases h
  rw [decode_word]; refine (fields_3 _ 0x5 (by simp) (by simp)).trans ?_
  simp (disch := decide) only [decode3, need, fM, immM, immS, immT, immX, coded, bits_straddle, bits_append_lo,
    bits_append_hi, bits_all, bit_append_hi, bit_append_lo, bit_ofBool, atLeast32, only64]
  simp [bits_all, bit_ofBool]
theorem rol (d a b : Reg) : Statement (.rol d a b) := by
  intro hw w h; cases h
  rw [decode_word]; refine (fields_3 _ 0x6 (by simp) (by simp)).trans ?_
  simp (disch := decide) only [decode3, need, fM, immM, immS, immT, immX, coded, bits_straddle, bits_append_lo,
    bits_append_hi, bits_all, bit_append_hi, bit_append_lo, bit_ofBool, atLeast32, only64]
  simp [bits_all, bit_ofBool]
theorem roli (d a : Reg) (n : BitVec 6) : Statement (.roli d a n) := by
  intro hw w h; cases h
  rw [decode_word]; refine (fields_3 _ 0x7 (by simp) (by simp)).trans ?_
  simp (disch := decide) only [decode3, need, fM, immM, immS, immT, immX, coded, bits_straddle, bits_append_lo,
    bits_append_hi, bits_all, bit_append_hi, bit_append_lo, bit_ofBool, atLeast32, only64]
  simp [bits_all, bit_ofBool]
theorem min (d a b : Reg) : Statement (.min d a b) := by
  intro hw w h; cases h
  rw [decode_word]; refine (fields_3 _ 0x8 (by simp) (by simp)).trans ?_
  simp (disch := decide) only [decode3, need, fM, immM, immS, immT, immX, coded, bits_straddle, bits_append_lo,
    bits_append_hi, bits_all, bit_append_hi, bit_append_lo, bit_ofBool, atLeast32, only64]
  simp [bits_all, bit_ofBool]
theorem minu (d a b : Reg) : Statement (.minu d a b) := by
  intro hw w h; cases h
  rw [decode_word]; refine (fields_3 _ 0x9 (by simp) (by simp)).trans ?_
  simp (disch := decide) only [decode3, need, fM, immM, immS, immT, immX, coded, bits_straddle, bits_append_lo,
    bits_append_hi, bits_all, bit_append_hi, bit_append_lo, bit_ofBool, atLeast32, only64]
  simp [bits_all, bit_ofBool]
theorem max (d a b : Reg) : Statement (.max d a b) := by
  intro hw w h; cases h
  rw [decode_word]; refine (fields_3 _ 0xA (by simp) (by simp)).trans ?_
  simp (disch := decide) only [decode3, need, fM, immM, immS, immT, immX, coded, bits_straddle, bits_append_lo,
    bits_append_hi, bits_all, bit_append_hi, bit_append_lo, bit_ofBool, atLeast32, only64]
  simp [bits_all, bit_ofBool]
theorem maxu (d a b : Reg) : Statement (.maxu d a b) := by
  intro hw w h; cases h
  rw [decode_word]; refine (fields_3 _ 0xB (by simp) (by simp)).trans ?_
  simp (disch := decide) only [decode3, need, fM, immM, immS, immT, immX, coded, bits_straddle, bits_append_lo,
    bits_append_hi, bits_all, bit_append_hi, bit_append_lo, bit_ofBool, atLeast32, only64]
  simp [bits_all, bit_ofBool]
theorem abs (d a : Reg) : Statement (.abs d a) := by
  intro hw w h; cases h
  rw [decode_word]; refine (fields_3 _ 0xC (by simp) (by simp)).trans ?_
  simp (disch := decide) only [decode3, need, fM, immM, immS, immT, immX, coded, bits_straddle, bits_append_lo,
    bits_append_hi, bits_all, bit_append_hi, bit_append_lo, bit_ofBool, atLeast32, only64]
  simp [bits_all, bit_ofBool]
theorem clz (d a : Reg) : Statement (.clz d a) := by
  intro hw w h; cases h
  rw [decode_word]; refine (fields_3 _ 0xD (by simp) (by simp)).trans ?_
  simp (disch := decide) only [decode3, need, fM, immM, immS, immT, immX, coded, bits_straddle, bits_append_lo,
    bits_append_hi, bits_all, bit_append_hi, bit_append_lo, bit_ofBool, atLeast32, only64]
  simp [bits_all, bit_ofBool]
theorem ctz (d a : Reg) : Statement (.ctz d a) := by
  intro hw w h; cases h
  rw [decode_word]; refine (fields_3 _ 0xE (by simp) (by simp)).trans ?_
  simp (disch := decide) only [decode3, need, fM, immM, immS, immT, immX, coded, bits_straddle, bits_append_lo,
    bits_append_hi, bits_all, bit_append_hi, bit_append_lo, bit_ofBool, atLeast32, only64]
  simp [bits_all, bit_ofBool]
theorem popc (d a : Reg) : Statement (.popc d a) := by
  intro hw w h; cases h
  rw [decode_word]; refine (fields_3 _ 0xF (by simp) (by simp)).trans ?_
  simp (disch := decide) only [decode3, need, fM, immM, immS, immT, immX, coded, bits_straddle, bits_append_lo,
    bits_append_hi, bits_all, bit_append_hi, bit_append_lo, bit_ofBool, atLeast32, only64]
  simp [bits_all, bit_ofBool]
theorem brev (d a : Reg) : Statement (.brev d a) := by
  intro hw w h; cases h
  rw [decode_word]; refine (fields_4 _ 0x0 (by simp) (by simp)).trans ?_
  simp (disch := decide) only [decode4, need, fM, immM, immS, immT, immX, coded, bits_straddle, bits_append_lo,
    bits_append_hi, bits_all, bit_append_hi, bit_append_lo, bit_ofBool, atLeast32, only64]
  simp [bits_all, bit_ofBool]
theorem bswap (d a : Reg) : Statement (.bswap d a) := by
  intro hw w h; cases h
  rw [decode_word]; refine (fields_4 _ 0x1 (by simp) (by simp)).trans ?_
  simp (disch := decide) only [decode4, need, fM, immM, immS, immT, immX, coded, bits_straddle, bits_append_lo,
    bits_append_hi, bits_all, bit_append_hi, bit_append_lo, bit_ofBool, atLeast32, only64]
  simp [bits_all, bit_ofBool]
theorem extr (d a : Reg) (sign : Bool) (pos : BitVec 6) (width : BitVec 7) : Statement (.extr d a sign pos width) := by
  intro hw w h; cases h
  rw [decode_word]; refine (fields_4 _ 0x2 (by simp) (by simp)).trans ?_
  simp (disch := decide) only [decode4, need, fM, immM, immS, immT, immX, coded, bits_straddle, bits_append_lo,
    bits_append_hi, bits_all, bit_append_hi, bit_append_lo, bit_ofBool, atLeast32, only64]
  simp [bits_all, bit_ofBool]
theorem insr (d a b : Reg) (pos : BitVec 6) (width : BitVec 7) : Statement (.insr d a b pos width) := by
  intro hw w h; cases h
  rw [decode_word]; refine (fields_4 _ 0x3 (by simp) (by simp)).trans ?_
  simp (disch := decide) only [decode4, need, fM, immM, immS, immT, immX, coded, bits_straddle, bits_append_lo,
    bits_append_hi, bits_all, bit_append_hi, bit_append_lo, bit_ofBool, atLeast32, only64]
  simp [bits_all, bit_ofBool]
theorem clmul (d a b : Reg) : Statement (.clmul d a b) := by
  intro hw w h; cases h
  rw [decode_word]; refine (fields_4 _ 0x4 (by simp) (by simp)).trans ?_
  simp (disch := decide) only [decode4, need, fM, immM, immS, immT, immX, coded, bits_straddle, bits_append_lo,
    bits_append_hi, bits_all, bit_append_hi, bit_append_lo, bit_ofBool, atLeast32, only64]
  simp [bits_all, bit_ofBool]
theorem clmulh (d a b : Reg) : Statement (.clmulh d a b) := by
  intro hw w h; cases h
  rw [decode_word]; refine (fields_4 _ 0x5 (by simp) (by simp)).trans ?_
  simp (disch := decide) only [decode4, need, fM, immM, immS, immT, immX, coded, bits_straddle, bits_append_lo,
    bits_append_hi, bits_all, bit_append_hi, bit_append_lo, bit_ofBool, atLeast32, only64]
  simp [bits_all, bit_ofBool]
theorem li (d : Reg) (imm : Half) : Statement (.li d imm) := by
  intro hw w h; cases h
  rw [decode_word]; refine (fields_4 _ 0x6 (by simp) (by simp)).trans ?_
  simp (disch := decide) only [decode4, need, fM, immM, immS, immT, immX, coded, bits_straddle, bits_append_lo,
    bits_append_hi, bits_all, bit_append_hi, bit_append_lo, bit_ofBool, atLeast32, only64]
  simp [bits_all, bit_ofBool]
theorem lih (d a : Reg) (imm : Half) : Statement (.lih d a imm) := by
  intro hw w h; cases h
  rw [decode_word]; refine (fields_4 _ 0x7 (by simp) (by simp)).trans ?_
  simp (disch := decide) only [decode4, need, fM, immM, immS, immT, immX, coded, bits_straddle, bits_append_lo,
    bits_append_hi, bits_all, bit_append_hi, bit_append_lo, bit_ofBool, atLeast32, only64]
  simp [bits_all, bit_ofBool]
theorem lea (d a b : Reg) (sh : BitVec 2) (disp : Half) : Statement (.lea d a b sh disp) := by
  intro hw w h; cases h
  rw [decode_word]; refine (fields_4 _ 0x8 (by simp) (by simp)).trans ?_
  simp (disch := decide) only [decode4, need, fM, immM, immS, immT, immX, coded, bits_straddle, bits_append_lo,
    bits_append_hi, bits_all, bit_append_hi, bit_append_lo, bit_ofBool, atLeast32, only64]
  simp [bits_all, bit_ofBool]
theorem cmp (cond : ICond) (p : BitVec 3) (a b : Reg) : Statement (.cmp cond p a b) := by
  intro hw w h; cases h
  rw [decode_word]; refine (fields_4 _ 0x9 (by simp) (by simp)).trans ?_
  simp (disch := decide) only [decode4, need, fM, immM, immS, immT, immX, coded, bits_straddle, bits_append_lo,
    bits_append_hi, bits_all, bit_append_hi, bit_append_lo, bit_ofBool, atLeast32, only64]
  simp [bits_all, bit_ofBool]
theorem cmpi (cond : ICond) (p : BitVec 3) (a : Reg) (imm : Half) : Statement (.cmpi cond p a imm) := by
  intro hw w h; cases h
  rw [decode_word]; refine (fields_4 _ 0xA (by simp) (by simp)).trans ?_
  simp (disch := decide) only [decode4, need, fM, immM, immS, immT, immX, coded, bits_straddle, bits_append_lo,
    bits_append_hi, bits_all, bit_append_hi, bit_append_lo, bit_ofBool, atLeast32, only64]
  simp [bits_all, bit_ofBool]
theorem sel (d a b : Reg) (p : BitVec 3) : Statement (.sel d a b p) := by
  intro hw w h; cases h
  rw [decode_word]; refine (fields_4 _ 0xB (by simp) (by simp)).trans ?_
  simp (disch := decide) only [decode4, need, fM, immM, immS, immT, immX, coded, bits_straddle, bits_append_lo,
    bits_append_hi, bits_all, bit_append_hi, bit_append_lo, bit_ofBool, atLeast32, only64]
  simp [bits_all, bit_ofBool]
theorem plog (pd pa pb : BitVec 3) (table : BitVec 4) : Statement (.plog pd pa pb table) := by
  intro hw w h; cases h
  rw [decode_word]; refine (fields_4 _ 0xC (by simp) (by simp)).trans ?_
  simp (disch := decide) only [decode4, need, fM, immM, immS, immT, immX, coded, bits_straddle, bits_append_lo,
    bits_append_hi, bits_all, bit_append_hi, bit_append_lo, bit_ofBool, atLeast32, only64]
  simp [bits_all, bit_ofBool]
theorem pmovGet (d : Reg) : Statement (.pmovGet d) := by
  intro hw w h; cases h
  rw [decode_word]; refine (fields_4 _ 0xD (by simp) (by simp)).trans ?_
  simp (disch := decide) only [decode4, need, fM, immM, immS, immT, immX, coded, bits_straddle, bits_append_lo,
    bits_append_hi, bits_all, bit_append_hi, bit_append_lo, bit_ofBool, atLeast32, only64]
  simp [bits_all, bit_ofBool]
  rfl
theorem pmovSet (a : Reg) (mask : BitVec 8) : Statement (.pmovSet a mask) := by
  intro hw w h; cases h
  rw [decode_word]; refine (fields_4 _ 0xD (by simp) (by simp)).trans ?_
  simp (disch := decide) only [decode4, need, fM, immM, immS, immT, immX, coded, bits_straddle, bits_append_lo,
    bits_append_hi, bits_all, bit_append_hi, bit_append_lo, bit_ofBool, atLeast32, only64]
  simp [bits_all, bit_ofBool]
  exact fun h => absurd h (by decide)
theorem cset (c : BitVec 2) (a : Reg) (imm : Half) : Statement (.cset c a imm) := by
  intro hw w h; cases h
  rw [decode_word]; refine (fields_4 _ 0xE (by simp) (by simp)).trans ?_
  simp (disch := decide) only [decode4, need, fM, immM, immS, immT, immX, coded, bits_straddle, bits_append_lo,
    bits_append_hi, bits_all, bit_append_hi, bit_append_lo, bit_ofBool, atLeast32, only64]
  simp [bits_all, bit_ofBool]
theorem crd (d : Reg) (c : BitVec 2) : Statement (.crd d c) := by
  intro hw w h; cases h
  rw [decode_word]; refine (fields_4 _ 0xF (by simp) (by simp)).trans ?_
  simp (disch := decide) only [decode4, need, fM, immM, immS, immT, immX, coded, bits_straddle, bits_append_lo,
    bits_append_hi, bits_all, bit_append_hi, bit_append_lo, bit_ofBool, atLeast32, only64]
  simp [bits_all, bit_ofBool]
theorem cadd (d : Reg) (c : BitVec 2) (imm : Half) : Statement (.cadd d c imm) := by
  intro hw w h; cases h
  rw [decode_word]; refine (fields_5 _ 0x0 (by simp) (by simp)).trans ?_
  simp (disch := decide) only [decode5, need, fM, immM, immS, immT, immX, coded, bits_straddle, bits_append_lo,
    bits_append_hi, bits_all, bit_append_hi, bit_append_lo, bit_ofBool, atLeast32, only64]
  simp [bits_all, bit_ofBool]
theorem fadd (d a b : Reg) (rm : Rnd) : Statement (.fadd d a b rm) := by
  intro hw w h; cases h
  rw [decode_word]; refine (fields_5 _ 0x1 (by simp) (by simp)).trans ?_
  simp (disch := decide) only [decode5, need, fM, immM, immS, immT, immX, coded, bits_straddle, bits_append_lo,
    bits_append_hi, bits_all, bit_append_hi, bit_append_lo, bit_ofBool, atLeast32, only64]
  simp [bits_all, bit_ofBool]
theorem fsub (d a b : Reg) (rm : Rnd) : Statement (.fsub d a b rm) := by
  intro hw w h; cases h
  rw [decode_word]; refine (fields_5 _ 0x2 (by simp) (by simp)).trans ?_
  simp (disch := decide) only [decode5, need, fM, immM, immS, immT, immX, coded, bits_straddle, bits_append_lo,
    bits_append_hi, bits_all, bit_append_hi, bit_append_lo, bit_ofBool, atLeast32, only64]
  simp [bits_all, bit_ofBool]
theorem fmul (d a b : Reg) (rm : Rnd) : Statement (.fmul d a b rm) := by
  intro hw w h; cases h
  rw [decode_word]; refine (fields_5 _ 0x3 (by simp) (by simp)).trans ?_
  simp (disch := decide) only [decode5, need, fM, immM, immS, immT, immX, coded, bits_straddle, bits_append_lo,
    bits_append_hi, bits_all, bit_append_hi, bit_append_lo, bit_ofBool, atLeast32, only64]
  simp [bits_all, bit_ofBool]
theorem ffma (d a b : Reg) (rm : Rnd) : Statement (.ffma d a b rm) := by
  intro hw w h; cases h
  rw [decode_word]; refine (fields_5 _ 0x4 (by simp) (by simp)).trans ?_
  simp (disch := decide) only [decode5, need, fM, immM, immS, immT, immX, coded, bits_straddle, bits_append_lo,
    bits_append_hi, bits_all, bit_append_hi, bit_append_lo, bit_ofBool, atLeast32, only64]
  simp [bits_all, bit_ofBool]
theorem fmin (d a b : Reg) : Statement (.fmin d a b) := by
  intro hw w h; cases h
  rw [decode_word]; refine (fields_5 _ 0x5 (by simp) (by simp)).trans ?_
  simp (disch := decide) only [decode5, need, fM, immM, immS, immT, immX, coded, bits_straddle, bits_append_lo,
    bits_append_hi, bits_all, bit_append_hi, bit_append_lo, bit_ofBool, atLeast32, only64]
  simp [bits_all, bit_ofBool]
theorem fmax (d a b : Reg) : Statement (.fmax d a b) := by
  intro hw w h; cases h
  rw [decode_word]; refine (fields_5 _ 0x6 (by simp) (by simp)).trans ?_
  simp (disch := decide) only [decode5, need, fM, immM, immS, immT, immX, coded, bits_straddle, bits_append_lo,
    bits_append_hi, bits_all, bit_append_hi, bit_append_lo, bit_ofBool, atLeast32, only64]
  simp [bits_all, bit_ofBool]
theorem fcmp (cond : FCond) (p : BitVec 3) (a b : Reg) : Statement (.fcmp cond p a b) := by
  intro hw w h; cases h
  rw [decode_word]; refine (fields_5 _ 0x7 (by simp) (by simp)).trans ?_
  simp (disch := decide) only [decode5, need, fM, immM, immS, immT, immX, coded, bits_straddle, bits_append_lo,
    bits_append_hi, bits_all, bit_append_hi, bit_append_lo, bit_ofBool, atLeast32, only64]
  simp [bits_all, bit_ofBool]
theorem fcvt (d a : Reg) (rm : Rnd) (src dst : Fmt) (sat : Bool) : Statement (.fcvt d a rm src dst sat) := by
  intro hw w h; cases h
  rw [decode_word]; refine (fields_5 _ 0x8 (by simp) (by simp)).trans ?_
  simp (disch := decide) only [decode5, need, fM, immM, immS, immT, immX, coded, bits_straddle, bits_append_lo,
    bits_append_hi, bits_all, bit_append_hi, bit_append_lo, bit_ofBool, atLeast32, only64]
  simp [bits_all, bit_ofBool]
  simpa [Instr.wellFormed, Classical.or_iff_not_imp_left] using hw
theorem fclass (d a : Reg) : Statement (.fclass d a) := by
  intro hw w h; cases h
  rw [decode_word]; refine (fields_5 _ 0x9 (by simp) (by simp)).trans ?_
  simp (disch := decide) only [decode5, need, fM, immM, immS, immT, immX, coded, bits_straddle, bits_append_lo,
    bits_append_hi, bits_all, bit_append_hi, bit_append_lo, bit_ofBool, atLeast32, only64]
  simp [bits_all, bit_ofBool]
theorem fexp2 (d a : Reg) : Statement (.fexp2 d a) := by
  intro hw w h; cases h
  rw [decode_word]; refine (fields_5 _ 0xA (by simp) (by simp)).trans ?_
  simp (disch := decide) only [decode5, need, fM, immM, immS, immT, immX, coded, bits_straddle, bits_append_lo,
    bits_append_hi, bits_all, bit_append_hi, bit_append_lo, bit_ofBool, atLeast32, only64]
  simp [bits_all, bit_ofBool]
theorem flog2 (d a : Reg) : Statement (.flog2 d a) := by
  intro hw w h; cases h
  rw [decode_word]; refine (fields_5 _ 0xB (by simp) (by simp)).trans ?_
  simp (disch := decide) only [decode5, need, fM, immM, immS, immT, immX, coded, bits_straddle, bits_append_lo,
    bits_append_hi, bits_all, bit_append_hi, bit_append_lo, bit_ofBool, atLeast32, only64]
  simp [bits_all, bit_ofBool]
theorem frcp (d a : Reg) : Statement (.frcp d a) := by
  intro hw w h; cases h
  rw [decode_word]; refine (fields_5 _ 0xC (by simp) (by simp)).trans ?_
  simp (disch := decide) only [decode5, need, fM, immM, immS, immT, immX, coded, bits_straddle, bits_append_lo,
    bits_append_hi, bits_all, bit_append_hi, bit_append_lo, bit_ofBool, atLeast32, only64]
  simp [bits_all, bit_ofBool]
theorem frsq (d a : Reg) : Statement (.frsq d a) := by
  intro hw w h; cases h
  rw [decode_word]; refine (fields_5 _ 0xD (by simp) (by simp)).trans ?_
  simp (disch := decide) only [decode5, need, fM, immM, immS, immT, immX, coded, bits_straddle, bits_append_lo,
    bits_append_hi, bits_all, bit_append_hi, bit_append_lo, bit_ofBool, atLeast32, only64]
  simp [bits_all, bit_ofBool]
theorem fscale (d a b : Reg) (rm : Rnd) : Statement (.fscale d a b rm) := by
  intro hw w h; cases h
  rw [decode_word]; refine (fields_5 _ 0xE (by simp) (by simp)).trans ?_
  simp (disch := decide) only [decode5, need, fM, immM, immS, immT, immX, coded, bits_straddle, bits_append_lo,
    bits_append_hi, bits_all, bit_append_hi, bit_append_lo, bit_ofBool, atLeast32, only64]
  simp [bits_all, bit_ofBool]
theorem ld (d a : Reg) (sp : Space) (sz : Size) (disp : BitVec 24) (sext : Bool) : Statement (.ld d a sp sz disp sext) := by
  intro hw w h; cases h
  rw [decode_word]; refine (fields_6 _ 0x0 (by simp) (by simp)).trans ?_
  simp (disch := decide) only [decode6, need, fM, immM, immS, immT, immX, coded, bits_straddle, bits_append_lo,
    bits_append_hi, bits_all, bit_append_hi, bit_append_lo, bit_ofBool, atLeast32, only64]
  simp [bits_all, bit_ofBool]
  cases sz <;> simp_all [Instr.wellFormed, Size.toBits]
theorem lda (d a : Reg) (sp : Space) (sz : Size) (disp : BitVec 24) (scope : Scope) (sext : Bool) : Statement (.lda d a sp sz disp scope sext) := by
  intro hw w h; cases h
  rw [decode_word]; refine (fields_6 _ 0x2 (by simp) (by simp)).trans ?_
  simp (disch := decide) only [decode6, need, fM, immM, immS, immT, immX, coded, bits_straddle, bits_append_lo,
    bits_append_hi, bits_all, bit_append_hi, bit_append_lo, bit_ofBool, atLeast32, only64]
  simp [bits_all, bit_ofBool]
  cases sz <;> simp_all [Instr.wellFormed, Size.toBits]
theorem st (a b : Reg) (sp : Space) (sz : Size) (disp : BitVec 24) (hint : Hint) : Statement (.st a b sp sz disp hint) := by
  intro hw w h; cases h
  rw [decode_word]; refine (fields_6 _ 0x1 (by simp) (by simp)).trans ?_
  simp (disch := decide) only [decode6, need, fM, immM, immS, immT, immX, coded, bits_straddle, bits_append_lo,
    bits_append_hi, bits_all, bit_append_hi, bit_append_lo, bit_ofBool, atLeast32, only64]
  simp [bits_all, bit_ofBool]
  cases hint <;> simp_all [Instr.wellFormed, Hint.toBits]
theorem stl (a b : Reg) (sp : Space) (sz : Size) (disp : BitVec 24) (scope : Scope) : Statement (.stl a b sp sz disp scope) := by
  intro hw w h; cases h
  rw [decode_word]; refine (fields_6 _ 0x3 (by simp) (by simp)).trans ?_
  simp (disch := decide) only [decode6, need, fM, immM, immS, immT, immX, coded, bits_straddle, bits_append_lo,
    bits_append_hi, bits_all, bit_append_hi, bit_append_lo, bit_ofBool, atLeast32, only64]
  simp [bits_all, bit_ofBool]
theorem take (d a : Reg) (sp : Space) (disp : BitVec 24) : Statement (.take d a sp disp) := by
  intro hw w h; cases h
  rw [decode_word]; refine (fields_6 _ 0x4 (by simp) (by simp)).trans ?_
  simp (disch := decide) only [decode6, need, fM, immM, immS, immT, immX, coded, bits_straddle, bits_append_lo,
    bits_append_hi, bits_all, bit_append_hi, bit_append_lo, bit_ofBool, atLeast32, only64]
  simp [bits_all, bit_ofBool]
  rfl
theorem fill (a b : Reg) (sp : Space) (disp : BitVec 24) : Statement (.fill a b sp disp) := by
  intro hw w h; cases h
  rw [decode_word]; refine (fields_6 _ 0x5 (by simp) (by simp)).trans ?_
  simp (disch := decide) only [decode6, need, fM, immM, immS, immT, immX, coded, bits_straddle, bits_append_lo,
    bits_append_hi, bits_all, bit_append_hi, bit_append_lo, bit_ofBool, atLeast32, only64]
  simp [bits_all, bit_ofBool]
  rfl
theorem trytake (p : BitVec 3) (d a : Reg) (sp : Space) (disp : BitVec 24) : Statement (.trytake p d a sp disp) := by
  intro hw w h; cases h
  rw [decode_word]; refine (fields_6 _ 0x6 (by simp) (by simp)).trans ?_
  simp (disch := decide) only [decode6, need, fM, immM, immS, immT, immX, coded, bits_straddle, bits_append_lo,
    bits_append_hi, bits_all, bit_append_hi, bit_append_lo, bit_ofBool, atLeast32, only64]
  simp [bits_all, bit_ofBool]
  rfl
theorem amo (op : AmoOp) (d a b : Reg) (sp : Space) (sz : Size) (disp : BitVec 24) (scope : Scope) : Statement (.amo op d a b sp sz disp scope) := by
  intro hw w h; cases h
  rw [decode_word]; refine (fields_6 _ 0x7 (by simp) (by simp)).trans ?_
  simp (disch := decide) only [decode6, need, fM, immM, immS, immT, immX, coded, bits_straddle, bits_append_lo,
    bits_append_hi, bits_all, bit_append_hi, bit_append_lo, bit_ofBool, atLeast32, only64]
  simp [bits_all, bit_ofBool]
  cases sz <;> simp_all [Instr.wellFormed, Size.toBits]
theorem amocas (d a b : Reg) (sp : Space) (sz : Size) (disp : BitVec 24) (scope : Scope) : Statement (.amocas d a b sp sz disp scope) := by
  intro hw w h; cases h
  rw [decode_word]; refine (fields_6 _ 0x8 (by simp) (by simp)).trans ?_
  simp (disch := decide) only [decode6, need, fM, immM, immS, immT, immX, coded, bits_straddle, bits_append_lo,
    bits_append_hi, bits_all, bit_append_hi, bit_append_lo, bit_ofBool, atLeast32, only64]
  simp [bits_all, bit_ofBool]
  cases sz <;> simp_all [Instr.wellFormed, Size.toBits]
theorem fence (scope : Scope) (set : BitVec 4) : Statement (.fence scope set) := by
  intro hw w h; cases h
  rw [decode_word]; refine (fields_6 _ 0x9 (by simp) (by simp)).trans ?_
  simp (disch := decide) only [decode6, need, fM, immM, immS, immT, immX, coded, bits_straddle, bits_append_lo,
    bits_append_hi, bits_all, bit_append_hi, bit_append_lo, bit_ofBool, atLeast32, only64]
  simp [bits_all, bit_ofBool]
  simpa [Instr.wellFormed] using hw
theorem pref (a : Reg) (disp : BitVec 24) (core : Bool) : Statement (.pref a disp core) := by
  intro hw w h; cases h
  rw [decode_word]; refine (fields_6 _ 0xA (by simp) (by simp)).trans ?_
  simp (disch := decide) only [decode6, need, fM, immM, immS, immT, immX, coded, bits_straddle, bits_append_lo,
    bits_append_hi, bits_all, bit_append_hi, bit_append_lo, bit_ofBool, atLeast32, only64]
  simp [bits_all, bit_ofBool]
theorem ring (h : BitVec 4) (a : Reg) : Statement (.ring h a) := by
  intro hw w h; cases h
  rw [decode_word]; refine (fields_7 _ 0x0 (by simp) (by simp)).trans ?_
  simp (disch := decide) only [decode7, need, fM, immM, immS, immT, immX, coded, bits_straddle, bits_append_lo,
    bits_append_hi, bits_all, bit_append_hi, bit_append_lo, bit_ofBool, atLeast32, only64]
  simp [bits_all, bit_ofBool]
theorem radv (h : BitVec 4) (n : BitVec 16) (b : Reg) : Statement (.radv h n b) := by
  intro hw w h; cases h
  rw [decode_word]; refine (fields_7 _ 0x1 (by simp) (by simp)).trans ?_
  simp (disch := decide) only [decode7, need, fM, immM, immS, immT, immX, coded, bits_straddle, bits_append_lo,
    bits_append_hi, bits_all, bit_append_hi, bit_append_lo, bit_ofBool, atLeast32, only64]
  simp [bits_all, bit_ofBool]
theorem rrel (h : BitVec 4) (n : BitVec 16) (b : Reg) : Statement (.rrel h n b) := by
  intro hw w h; cases h
  rw [decode_word]; refine (fields_7 _ 0x2 (by simp) (by simp)).trans ?_
  simp (disch := decide) only [decode7, need, fM, immM, immS, immT, immX, coded, bits_straddle, bits_append_lo,
    bits_append_hi, bits_all, bit_append_hi, bit_append_lo, bit_ofBool, atLeast32, only64]
  simp [bits_all, bit_ofBool]
theorem rstat (d : Reg) (h : BitVec 4) (desc : Bool) : Statement (.rstat d h desc) := by
  intro hw w h; cases h
  rw [decode_word]; refine (fields_7 _ 0x3 (by simp) (by simp)).trans ?_
  simp (disch := decide) only [decode7, need, fM, immM, immS, immT, immX, coded, bits_straddle, bits_append_lo,
    bits_append_hi, bits_all, bit_append_hi, bit_append_lo, bit_ofBool, atLeast32, only64]
  simp [bits_all, bit_ofBool]
theorem vadd (ho ha hb : BitVec 4) (n : BitVec 16) (b : Reg) (rm : Rnd) : Statement (.vadd ho ha hb n b rm) := by
  intro hw w h; cases h
  rw [decode_word]; refine (fields_7 _ 0x4 (by simp) (by simp)).trans ?_
  simp (disch := decide) only [decode7, need, fM, immM, immS, immT, immX, coded, bits_straddle, bits_append_lo,
    bits_append_hi, bits_all, bit_append_hi, bit_append_lo, bit_ofBool, atLeast32, only64]
  simp [bits_all, bit_ofBool]
theorem vsub (ho ha hb : BitVec 4) (n : BitVec 16) (b : Reg) (rm : Rnd) : Statement (.vsub ho ha hb n b rm) := by
  intro hw w h; cases h
  rw [decode_word]; refine (fields_7 _ 0x5 (by simp) (by simp)).trans ?_
  simp (disch := decide) only [decode7, need, fM, immM, immS, immT, immX, coded, bits_straddle, bits_append_lo,
    bits_append_hi, bits_all, bit_append_hi, bit_append_lo, bit_ofBool, atLeast32, only64]
  simp [bits_all, bit_ofBool]
theorem vmul (ho ha hb : BitVec 4) (n : BitVec 16) (b : Reg) (rm : Rnd) : Statement (.vmul ho ha hb n b rm) := by
  intro hw w h; cases h
  rw [decode_word]; refine (fields_7 _ 0x6 (by simp) (by simp)).trans ?_
  simp (disch := decide) only [decode7, need, fM, immM, immS, immT, immX, coded, bits_straddle, bits_append_lo,
    bits_append_hi, bits_all, bit_append_hi, bit_append_lo, bit_ofBool, atLeast32, only64]
  simp [bits_all, bit_ofBool]
theorem vfma (ho ha hb hc : BitVec 4) (n : BitVec 16) (b : Reg) (rm : Rnd) : Statement (.vfma ho ha hb hc n b rm) := by
  intro hw w h; cases h
  rw [decode_word]; refine (fields_7 _ 0x7 (by simp) (by simp)).trans ?_
  simp (disch := decide) only [decode7, need, fM, immM, immS, immT, immX, coded, bits_straddle, bits_append_lo,
    bits_append_hi, bits_all, bit_append_hi, bit_append_lo, bit_ofBool, atLeast32, only64]
  simp [bits_all, bit_ofBool]
theorem vmax (ho ha hb : BitVec 4) (n : BitVec 16) (b : Reg) (rm : Rnd) : Statement (.vmax ho ha hb n b rm) := by
  intro hw w h; cases h
  rw [decode_word]; refine (fields_7 _ 0x8 (by simp) (by simp)).trans ?_
  simp (disch := decide) only [decode7, need, fM, immM, immS, immT, immX, coded, bits_straddle, bits_append_lo,
    bits_append_hi, bits_all, bit_append_hi, bit_append_lo, bit_ofBool, atLeast32, only64]
  simp [bits_all, bit_ofBool]
theorem vmin (ho ha hb : BitVec 4) (n : BitVec 16) (b : Reg) (rm : Rnd) : Statement (.vmin ho ha hb n b rm) := by
  intro hw w h; cases h
  rw [decode_word]; refine (fields_7 _ 0x9 (by simp) (by simp)).trans ?_
  simp (disch := decide) only [decode7, need, fM, immM, immS, immT, immX, coded, bits_straddle, bits_append_lo,
    bits_append_hi, bits_all, bit_append_hi, bit_append_lo, bit_ofBool, atLeast32, only64]
  simp [bits_all, bit_ofBool]
theorem vexp2 (ho ha : BitVec 4) (n : BitVec 16) (b : Reg) (rm : Rnd) : Statement (.vexp2 ho ha n b rm) := by
  intro hw w h; cases h
  rw [decode_word]; refine (fields_7 _ 0xA (by simp) (by simp)).trans ?_
  simp (disch := decide) only [decode7, need, fM, immM, immS, immT, immX, coded, bits_straddle, bits_append_lo,
    bits_append_hi, bits_all, bit_append_hi, bit_append_lo, bit_ofBool, atLeast32, only64]
  simp [bits_all, bit_ofBool]
theorem vrcp (ho ha : BitVec 4) (n : BitVec 16) (b : Reg) (rm : Rnd) : Statement (.vrcp ho ha n b rm) := by
  intro hw w h; cases h
  rw [decode_word]; refine (fields_7 _ 0xB (by simp) (by simp)).trans ?_
  simp (disch := decide) only [decode7, need, fM, immM, immS, immT, immX, coded, bits_straddle, bits_append_lo,
    bits_append_hi, bits_all, bit_append_hi, bit_append_lo, bit_ofBool, atLeast32, only64]
  simp [bits_all, bit_ofBool]
theorem vrsq (ho ha : BitVec 4) (n : BitVec 16) (b : Reg) (rm : Rnd) : Statement (.vrsq ho ha n b rm) := by
  intro hw w h; cases h
  rw [decode_word]; refine (fields_7 _ 0xC (by simp) (by simp)).trans ?_
  simp (disch := decide) only [decode7, need, fM, immM, immS, immT, immX, coded, bits_straddle, bits_append_lo,
    bits_append_hi, bits_all, bit_append_hi, bit_append_lo, bit_ofBool, atLeast32, only64]
  simp [bits_all, bit_ofBool]
theorem vcvt (ho ha : BitVec 4) (n : BitVec 16) (b : Reg) (rm : Rnd) : Statement (.vcvt ho ha n b rm) := by
  intro hw w h; cases h
  rw [decode_word]; refine (fields_7 _ 0xD (by simp) (by simp)).trans ?_
  simp (disch := decide) only [decode7, need, fM, immM, immS, immT, immX, coded, bits_straddle, bits_append_lo,
    bits_append_hi, bits_all, bit_append_hi, bit_append_lo, bit_ofBool, atLeast32, only64]
  simp [bits_all, bit_ofBool]
theorem vscale (ho ha : BitVec 4) (n : BitVec 16) (b : Reg) (rm : Rnd) : Statement (.vscale ho ha n b rm) := by
  intro hw w h; cases h
  rw [decode_word]; refine (fields_7 _ 0xE (by simp) (by simp)).trans ?_
  simp (disch := decide) only [decode7, need, fM, immM, immS, immT, immX, coded, bits_straddle, bits_append_lo,
    bits_append_hi, bits_all, bit_append_hi, bit_append_lo, bit_ofBool, atLeast32, only64]
  simp [bits_all, bit_ofBool]
theorem vredsum (d : Reg) (ha : BitVec 4) (n : BitVec 16) (b : Reg) (rm : Rnd) : Statement (.vredsum d ha n b rm) := by
  intro hw w h; cases h
  rw [decode_word]; refine (fields_7 _ 0xF (by simp) (by simp)).trans ?_
  simp (disch := decide) only [decode7, need, fM, immM, immS, immT, immX, coded, bits_straddle, bits_append_lo,
    bits_append_hi, bits_all, bit_append_hi, bit_append_lo, bit_ofBool, atLeast32, only64]
  simp [bits_all, bit_ofBool]
theorem vredmax (d : Reg) (ha : BitVec 4) (n : BitVec 16) (b : Reg) : Statement (.vredmax d ha n b) := by
  intro hw w h; cases h
  rw [decode_word]; refine (fields_8 _ 0x0 (by simp) (by simp)).trans ?_
  simp (disch := decide) only [decode8, need, fM, immM, immS, immT, immX, coded, bits_straddle, bits_append_lo,
    bits_append_hi, bits_all, bit_append_hi, bit_append_lo, bit_ofBool, atLeast32, only64]
  simp [bits_all, bit_ofBool]
theorem vcmp (d : Reg) (cond : FCond) (ho ha hb : BitVec 4) (a : Reg) (n : BitVec 16) (b : Reg) : Statement (.vcmp d cond ho ha hb a n b) := by
  intro hw w h; cases h
  rw [decode_word]; refine (fields_8 _ 0x1 (by simp) (by simp)).trans ?_
  simp (disch := decide) only [decode8, need, fM, immM, immS, immT, immX, coded, bits_straddle, bits_append_lo,
    bits_append_hi, bits_all, bit_append_hi, bit_append_lo, bit_ofBool, atLeast32, only64]
  simp [bits_all, bit_ofBool]
  simpa [Instr.wellFormed, Classical.or_iff_not_imp_left] using hw
theorem vsel (ho ha hb hc : BitVec 4) (n : BitVec 16) (b : Reg) (rm : Rnd) : Statement (.vsel ho ha hb hc n b rm) := by
  intro hw w h; cases h
  rw [decode_word]; refine (fields_8 _ 0x2 (by simp) (by simp)).trans ?_
  simp (disch := decide) only [decode8, need, fM, immM, immS, immT, immX, coded, bits_straddle, bits_append_lo,
    bits_append_hi, bits_all, bit_append_hi, bit_append_lo, bit_ofBool, atLeast32, only64]
  simp [bits_all, bit_ofBool]
theorem vbits (op : BitOp) (ho ha hb : BitVec 4) (a : Reg) (n : BitVec 16) (b : Reg) (rm : Rnd) : Statement (.vbits op ho ha hb a n b rm) := by
  intro hw w h; cases h
  rw [decode_word]; refine (fields_8 _ 0x5 (by simp) (by simp)).trans ?_
  simp (disch := decide) only [decode8, need, fM, immM, immS, immT, immX, coded, bits_straddle, bits_append_lo,
    bits_append_hi, bits_all, bit_append_hi, bit_append_lo, bit_ofBool, atLeast32, only64]
  simp [bits_all, bit_ofBool]
theorem vgath (ho ha : BitVec 4) (a : Reg) (sp : Bool) (n : BitVec 16) (b : Reg) : Statement (.vgath ho ha a sp n b) := by
  intro hw w h; cases h
  rw [decode_word]; refine (fields_8 _ 0x3 (by simp) (by simp)).trans ?_
  simp (disch := decide) only [decode8, need, fM, immM, immS, immT, immX, coded, bits_straddle, bits_append_lo,
    bits_append_hi, bits_all, bit_append_hi, bit_append_lo, bit_ofBool, atLeast32, only64]
  simp [bits_all, bit_ofBool]
theorem vscat (add : Bool) (ha hb : BitVec 4) (a : Reg) (sp : Bool) (n : BitVec 16) (b : Reg) (rm : Rnd) : Statement (.vscat add ha hb a sp n b rm) := by
  intro hw w h; cases h
  rw [decode_word]; refine (fields_8 _ 0x4 (by simp) (by simp)).trans ?_
  simp (disch := decide) only [decode8, need, fM, immM, immS, immT, immX, coded, bits_straddle, bits_append_lo,
    bits_append_hi, bits_all, bit_append_hi, bit_append_lo, bit_ofBool, atLeast32, only64]
  simp [bits_all, bit_ofBool]
theorem vfillc (isInt : Bool) (ho : BitVec 4) (a : Reg) (n : BitVec 16) (b : Reg) (rm : Rnd) : Statement (.vfillc isInt ho a n b rm) := by
  intro hw w h; cases h
  rw [decode_word]; refine (fields_8 _ 0x6 (by simp) (by simp)).trans ?_
  simp (disch := decide) only [decode8, need, fM, immM, immS, immT, immX, coded, bits_straddle, bits_append_lo,
    bits_append_hi, bits_all, bit_append_hi, bit_append_lo, bit_ofBool, atLeast32, only64]
  simp [bits_all, bit_ofBool]
theorem viota (ho : BitVec 4) (a b : Reg) (n : BitVec 16) (rm : Rnd) : Statement (.viota ho a b n rm) := by
  intro hw w h; cases h
  rw [decode_word]; refine (fields_8 _ 0x7 (by simp) (by simp)).trans ?_
  simp (disch := decide) only [decode8, need, fM, immM, immS, immT, immX, coded, bits_straddle, bits_append_lo,
    bits_append_hi, bits_all, bit_append_hi, bit_append_lo, bit_ofBool, atLeast32, only64]
  simp [bits_all, bit_ofBool]
theorem mfmt (fa fb : BitVec 3) (a : Reg) : Statement (.mfmt fa fb a) := by
  intro hw w h; cases h
  rw [decode_word]; refine (fields_9 _ 0x0 (by simp) (by simp)).trans ?_
  simp (disch := decide) only [decode9, need, fM, immM, immS, immT, immX, coded, bits_straddle, bits_append_lo,
    bits_append_hi, bits_all, bit_append_hi, bit_append_lo, bit_ofBool, atLeast32, only64]
  simp [bits_all, bit_ofBool]
  simpa [Instr.wellFormed] using hw
theorem bload (l : Bool) (a : Reg) : Statement (.bload l a) := by
  intro hw w h; cases h
  rw [decode_word]; refine (fields_9 _ 0x1 (by simp) (by simp)).trans ?_
  simp (disch := decide) only [decode9, need, fM, immM, immS, immT, immX, coded, bits_straddle, bits_append_lo,
    bits_append_hi, bits_all, bit_append_hi, bit_append_lo, bit_ofBool, atLeast32, only64]
  simp [bits_all, bit_ofBool]
theorem brot (l : Bool) : Statement (.brot l) := by
  intro hw w h; cases h
  rw [decode_word]; refine (fields_9 _ 0x2 (by simp) (by simp)).trans ?_
  simp (disch := decide) only [decode9, need, fM, immM, immS, immT, immX, coded, bits_straddle, bits_append_lo,
    bits_append_hi, bits_all, bit_append_hi, bit_append_lo, bit_ofBool, atLeast32, only64]
  simp [bits_all, bit_ofBool]
theorem mma (t : BitVec 2) (l : Bool) (slot : BitVec 8) (ver : BitVec 16) : Statement (.mma t l slot ver) := by
  intro hw w h; cases h
  rw [decode_word]; refine (fields_9 _ 0x3 (by simp) (by simp)).trans ?_
  simp (disch := decide) only [decode9, need, fM, immM, immS, immT, immX, coded, bits_straddle, bits_append_lo,
    bits_append_hi, bits_all, bit_append_hi, bit_append_lo, bit_ofBool, atLeast32, only64]
  simp [bits_all, bit_ofBool]
theorem mmas (t : BitVec 2) (l : Bool) (slot : BitVec 8) (a : Reg) (ver : BitVec 16) : Statement (.mmas t l slot a ver) := by
  intro hw w h; cases h
  rw [decode_word]; refine (fields_9 _ 0x4 (by simp) (by simp)).trans ?_
  simp (disch := decide) only [decode9, need, fM, immM, immS, immT, immX, coded, bits_straddle, bits_append_lo,
    bits_append_hi, bits_all, bit_append_hi, bit_append_lo, bit_ofBool, atLeast32, only64]
  simp [bits_all, bit_ofBool]
theorem mma2 (d : Reg) (t : BitVec 2) (l : Bool) (slot : BitVec 8) (ver : BitVec 16) : Statement (.mma2 d t l slot ver) := by
  intro hw w h; cases h
  rw [decode_word]; refine (fields_9 _ 0x5 (by simp) (by simp)).trans ?_
  simp (disch := decide) only [decode9, need, fM, immM, immS, immT, immX, coded, bits_straddle, bits_append_lo,
    bits_append_hi, bits_all, bit_append_hi, bit_append_lo, bit_ofBool, atLeast32, only64]
  simp [bits_all, bit_ofBool]
theorem azero (t : BitVec 2) (ver : BitVec 16) : Statement (.azero t ver) := by
  intro hw w h; cases h
  rw [decode_word]; refine (fields_9 _ 0x6 (by simp) (by simp)).trans ?_
  simp (disch := decide) only [decode9, need, fM, immM, immS, immT, immX, coded, bits_straddle, bits_append_lo,
    bits_append_hi, bits_all, bit_append_hi, bit_append_lo, bit_ofBool, atLeast32, only64]
  simp [bits_all, bit_ofBool]
theorem aver (d : Reg) (t : BitVec 2) : Statement (.aver d t) := by
  intro hw w h; cases h
  rw [decode_word]; refine (fields_9 _ 0x7 (by simp) (by simp)).trans ?_
  simp (disch := decide) only [decode9, need, fM, immM, immS, immT, immX, coded, bits_straddle, bits_append_lo,
    bits_append_hi, bits_all, bit_append_hi, bit_append_lo, bit_ofBool, atLeast32, only64]
  simp [bits_all, bit_ofBool]
theorem awaitv (t : BitVec 2) (ver : BitVec 16) : Statement (.awaitv t ver) := by
  intro hw w h; cases h
  rw [decode_word]; refine (fields_9 _ 0xC (by simp) (by simp)).trans ?_
  simp (disch := decide) only [decode9, need, fM, immM, immS, immT, immX, coded, bits_straddle, bits_append_lo,
    bits_append_hi, bits_all, bit_append_hi, bit_append_lo, bit_ofBool, atLeast32, only64]
  simp [bits_all, bit_ofBool]
theorem aepi (ty : Fmt) (sat bias : Bool) (t : BitVec 2) (slot : BitVec 8) (b : Reg) (ver : BitVec 16) : Statement (.aepi ty sat bias t slot b ver) := by
  intro hw w h; cases h
  rw [decode_word]; refine (fields_9 _ 0x8 (by simp) (by simp)).trans ?_
  simp (disch := decide) only [decode9, need, fM, immM, immS, immT, immX, coded, bits_straddle, bits_append_lo,
    bits_append_hi, bits_all, bit_append_hi, bit_append_lo, bit_ofBool, atLeast32, only64]
  simp [bits_all, bit_ofBool]
  cases bias <;> cases sat <;> simp_all [Instr.wellFormed]
theorem atopkInit (a : Reg) : Statement (.atopkInit a) := by
  intro hw w h; cases h
  rw [decode_word]; refine (fields_9 _ 0x9 (by simp) (by simp)).trans ?_
  simp (disch := decide) only [decode9, need, fM, immM, immS, immT, immX, coded, bits_straddle, bits_append_lo,
    bits_append_hi, bits_all, bit_append_hi, bit_append_lo, bit_ofBool, atLeast32, only64]
  simp [bits_all, bit_ofBool]
  rfl
theorem atopkAcc (t : BitVec 2) (a b : Reg) (ver : BitVec 16) : Statement (.atopkAcc t a b ver) := by
  intro hw w h; cases h
  rw [decode_word]; refine (fields_9 _ 0x9 (by simp) (by simp)).trans ?_
  simp (disch := decide) only [decode9, need, fM, immM, immS, immT, immX, coded, bits_straddle, bits_append_lo,
    bits_append_hi, bits_all, bit_append_hi, bit_append_lo, bit_ofBool, atLeast32, only64]
  simp [bits_all, bit_ofBool]
  rfl
theorem acselInit (a : Reg) : Statement (.acselInit a) := by
  intro hw w h; cases h
  rw [decode_word]; refine (fields_9 _ 0xA (by simp) (by simp)).trans ?_
  simp (disch := decide) only [decode9, need, fM, immM, immS, immT, immX, coded, bits_straddle, bits_append_lo,
    bits_append_hi, bits_all, bit_append_hi, bit_append_lo, bit_ofBool, atLeast32, only64]
  simp [bits_all, bit_ofBool]
  rfl
theorem acselAcc (t : BitVec 2) (a b : Reg) (ver : BitVec 16) : Statement (.acselAcc t a b ver) := by
  intro hw w h; cases h
  rw [decode_word]; refine (fields_9 _ 0xA (by simp) (by simp)).trans ?_
  simp (disch := decide) only [decode9, need, fM, immM, immS, immT, immX, coded, bits_straddle, bits_append_lo,
    bits_append_hi, bits_all, bit_append_hi, bit_append_lo, bit_ofBool, atLeast32, only64]
  simp [bits_all, bit_ofBool]
  rfl
theorem ardk (d a : Reg) (var : ArdkVar) : Statement (.ardk d a var) := by
  intro hw w h; cases h
  rw [decode_word]; refine (fields_9 _ 0xB (by simp) (by simp)).trans ?_
  simp (disch := decide) only [decode9, need, fM, immM, immS, immT, immX, coded, bits_straddle, bits_append_lo,
    bits_append_hi, bits_all, bit_append_hi, bit_append_lo, bit_ofBool, atLeast32, only64]
  simp [bits_all, bit_ofBool]
  cases var <;> simp_all [Instr.wellFormed] <;> rfl
theorem ardkClr (d a : Reg) : Statement (.ardkClr d a) := by
  intro hw w h; cases h
  rw [decode_word]; refine (fields_9 _ 0xB (by simp) (by simp)).trans ?_
  simp (disch := decide) only [decode9, need, fM, immM, immS, immT, immX, coded, bits_straddle, bits_append_lo,
    bits_append_hi, bits_all, bit_append_hi, bit_append_lo, bit_ofBool, atLeast32, only64]
  simp [bits_all, bit_ofBool]
  rfl
theorem xcopy (d a : Reg) (sp : BitVec 2) (tag : BitVec 16) : Statement (.xcopy d a sp tag) := by
  intro hw w h; cases h
  rw [decode_word]; refine (fields_A _ 0x0 (by simp) (by simp)).trans ?_
  simp (disch := decide) only [decodeA, need, fM, immM, immS, immT, immX, coded, bits_straddle, bits_append_lo,
    bits_append_hi, bits_all, bit_append_hi, bit_append_lo, bit_ofBool, atLeast32, only64]
  simp [bits_all, bit_ofBool]
  rfl
theorem xconv (d a : Reg) (sp : BitVec 2) (tag : BitVec 16) : Statement (.xconv d a sp tag) := by
  intro hw w h; cases h
  rw [decode_word]; refine (fields_A _ 0x1 (by simp) (by simp)).trans ?_
  simp (disch := decide) only [decodeA, need, fM, immM, immS, immT, immX, coded, bits_straddle, bits_append_lo,
    bits_append_hi, bits_all, bit_append_hi, bit_append_lo, bit_ofBool, atLeast32, only64]
  simp [bits_all, bit_ofBool]
  rfl
theorem xscript (d a : Reg) (sp : BitVec 2) (tag : BitVec 16) : Statement (.xscript d a sp tag) := by
  intro hw w h; cases h
  rw [decode_word]; refine (fields_A _ 0x2 (by simp) (by simp)).trans ?_
  simp (disch := decide) only [decodeA, need, fM, immM, immS, immT, immX, coded, bits_straddle, bits_append_lo,
    bits_append_hi, bits_all, bit_append_hi, bit_append_lo, bit_ofBool, atLeast32, only64]
  simp [bits_all, bit_ofBool]
  rfl
theorem xsela (d a b : Reg) (init : Bool) (sp : BitVec 2) (tag : BitVec 16) : Statement (.xsela d a b init sp tag) := by
  intro hw w h; cases h
  rw [decode_word]; refine (fields_A _ 0x3 (by simp) (by simp)).trans ?_
  simp (disch := decide) only [decodeA, need, fM, immM, immS, immT, immX, coded, bits_straddle, bits_append_lo,
    bits_append_hi, bits_all, bit_append_hi, bit_append_lo, bit_ofBool, atLeast32, only64]
  simp [bits_all, bit_ofBool]
theorem xremPut (d a : Reg) (sp : BitVec 2) (tag : BitVec 16) : Statement (.xremPut d a sp tag) := by
  intro hw w h; cases h
  rw [decode_word]; refine (fields_A _ 0x4 (by simp) (by simp)).trans ?_
  simp (disch := decide) only [decodeA, need, fM, immM, immS, immT, immX, coded, bits_straddle, bits_append_lo,
    bits_append_hi, bits_all, bit_append_hi, bit_append_lo, bit_ofBool, atLeast32, only64]
  simp [bits_all, bit_ofBool]
  rfl
theorem xremAddmx (d a : Reg) (sp : BitVec 2) (tag : BitVec 16) : Statement (.xremAddmx d a sp tag) := by
  intro hw w h; cases h
  rw [decode_word]; refine (fields_A _ 0x4 (by simp) (by simp)).trans ?_
  simp (disch := decide) only [decodeA, need, fM, immM, immS, immT, immX, coded, bits_straddle, bits_append_lo,
    bits_append_hi, bits_all, bit_append_hi, bit_append_lo, bit_ofBool, atLeast32, only64]
  simp [bits_all, bit_ofBool]
  rfl
theorem msend (d a b : Reg) (tag : BitVec 16) : Statement (.msend d a b tag) := by
  intro hw w h; cases h
  rw [decode_word]; refine (fields_A _ 0x5 (by simp) (by simp)).trans ?_
  simp (disch := decide) only [decodeA, need, fM, immM, immS, immT, immX, coded, bits_straddle, bits_append_lo,
    bits_append_hi, bits_all, bit_append_hi, bit_append_lo, bit_ofBool, atLeast32, only64]
  simp [bits_all, bit_ofBool]
theorem mwait (d a : Reg) : Statement (.mwait d a) := by
  intro hw w h; cases h
  rw [decode_word]; refine (fields_A _ 0x6 (by simp) (by simp)).trans ?_
  simp (disch := decide) only [decodeA, need, fM, immM, immS, immT, immX, coded, bits_straddle, bits_append_lo,
    bits_append_hi, bits_all, bit_append_hi, bit_append_lo, bit_ofBool, atLeast32, only64]
  simp [bits_all, bit_ofBool]
theorem mrecv (d e a : Reg) : Statement (.mrecv d e a) := by
  intro hw w h; cases h
  rw [decode_word]; refine (fields_A _ 0x7 (by simp) (by simp)).trans ?_
  simp (disch := decide) only [decodeA, need, fM, immM, immS, immT, immX, coded, bits_straddle, bits_append_lo,
    bits_append_hi, bits_all, bit_append_hi, bit_append_lo, bit_ofBool, atLeast32, only64]
  simp [bits_all, bit_ofBool]
theorem cpost (a b : Reg) (imm : BitVec 16) : Statement (.cpost a b imm) := by
  intro hw w h; cases h
  rw [decode_word]; refine (fields_A _ 0x8 (by simp) (by simp)).trans ?_
  simp (disch := decide) only [decodeA, need, fM, immM, immS, immT, immX, coded, bits_straddle, bits_append_lo,
    bits_append_hi, bits_all, bit_append_hi, bit_append_lo, bit_ofBool, atLeast32, only64]
  simp [bits_all, bit_ofBool]
theorem cwait (d a b : Reg) (sub : Bool) : Statement (.cwait d a b sub) := by
  intro hw w h; cases h
  rw [decode_word]; refine (fields_A _ 0x9 (by simp) (by simp)).trans ?_
  simp (disch := decide) only [decodeA, need, fM, immM, immS, immT, immX, coded, bits_straddle, bits_append_lo,
    bits_append_hi, bits_all, bit_append_hi, bit_append_lo, bit_ofBool, atLeast32, only64]
  simp [bits_all, bit_ofBool]
theorem crdc (d a b : Reg) : Statement (.crdc d a b) := by
  intro hw w h; cases h
  rw [decode_word]; refine (fields_A _ 0xA (by simp) (by simp)).trans ?_
  simp (disch := decide) only [decodeA, need, fM, immM, immS, immT, immX, coded, bits_straddle, bits_append_lo,
    bits_append_hi, bits_all, bit_append_hi, bit_append_lo, bit_ofBool, atLeast32, only64]
  simp [bits_all, bit_ofBool]
theorem xdrain (d : Reg) : Statement (.xdrain d) := by
  intro hw w h; cases h
  rw [decode_word]; refine (fields_A _ 0xB (by simp) (by simp)).trans ?_
  simp (disch := decide) only [decodeA, need, fM, immM, immS, immT, immX, coded, bits_straddle, bits_append_lo,
    bits_append_hi, bits_all, bit_append_hi, bit_append_lo, bit_ofBool, atLeast32, only64]
  simp [bits_all, bit_ofBool]
theorem evarr (d : Reg) (n : BitVec 4) : Statement (.evarr d n) := by
  intro hw w h; cases h
  rw [decode_word]; refine (fields_B _ 0x0 (by simp) (by simp)).trans ?_
  simp (disch := decide) only [decodeB, need, fM, immM, immS, immT, immX, coded, bits_straddle, bits_append_lo,
    bits_append_hi, bits_all, bit_append_hi, bit_append_lo, bit_ofBool, atLeast32, only64]
  simp [bits_all, bit_ofBool]
theorem evwait (d b : Reg) (n : BitVec 4) (line : Bool) : Statement (.evwait d b n line) := by
  intro hw w h; cases h
  rw [decode_word]; refine (fields_B _ 0x1 (by simp) (by simp)).trans ?_
  simp (disch := decide) only [decodeB, need, fM, immM, immS, immT, immX, coded, bits_straddle, bits_append_lo,
    bits_append_hi, bits_all, bit_append_hi, bit_append_lo, bit_ofBool, atLeast32, only64]
  simp [bits_all, bit_ofBool]
theorem evtwait (d a b : Reg) (n : BitVec 4) (line : Bool) : Statement (.evtwait d a b n line) := by
  intro hw w h; cases h
  rw [decode_word]; refine (fields_B _ 0x2 (by simp) (by simp)).trans ?_
  simp (disch := decide) only [decodeB, need, fM, immM, immS, immT, immX, coded, bits_straddle, bits_append_lo,
    bits_append_hi, bits_all, bit_append_hi, bit_append_lo, bit_ofBool, atLeast32, only64]
  simp [bits_all, bit_ofBool]
theorem mtxlock (d : Reg) (n : BitVec 4) : Statement (.mtxlock d n) := by
  intro hw w h; cases h
  rw [decode_word]; refine (fields_B _ 0x3 (by simp) (by simp)).trans ?_
  simp (disch := decide) only [decodeB, need, fM, immM, immS, immT, immX, coded, bits_straddle, bits_append_lo,
    bits_append_hi, bits_all, bit_append_hi, bit_append_lo, bit_ofBool, atLeast32, only64]
  simp [bits_all, bit_ofBool]
theorem mtxrel (n : BitVec 4) : Statement (.mtxrel n) := by
  intro hw w h; cases h
  rw [decode_word]; refine (fields_B _ 0x4 (by simp) (by simp)).trans ?_
  simp (disch := decide) only [decodeB, need, fM, immM, immS, immT, immX, coded, bits_straddle, bits_append_lo,
    bits_append_hi, bits_all, bit_append_hi, bit_append_lo, bit_ofBool, atLeast32, only64]
  simp [bits_all, bit_ofBool]
theorem evsigSig (d : Reg) (n : BitVec 4) : Statement (.evsigSig d n) := by
  intro hw w h; cases h
  rw [decode_word]; refine (fields_B _ 0x5 (by simp) (by simp)).trans ?_
  simp (disch := decide) only [decodeB, need, fM, immM, immS, immT, immX, coded, bits_straddle, bits_append_lo,
    bits_append_hi, bits_all, bit_append_hi, bit_append_lo, bit_ofBool, atLeast32, only64]
  simp [bits_all, bit_ofBool]
  rfl
theorem evsigCfg (a b : Reg) (n : BitVec 4) : Statement (.evsigCfg a b n) := by
  intro hw w h; cases h
  rw [decode_word]; refine (fields_B _ 0x5 (by simp) (by simp)).trans ?_
  simp (disch := decide) only [decodeB, need, fM, immM, immS, immT, immX, coded, bits_straddle, bits_append_lo,
    bits_append_hi, bits_all, bit_append_hi, bit_append_lo, bit_ofBool, atLeast32, only64]
  simp [bits_all, bit_ofBool]
  rfl
theorem gbar (d : Reg) : Statement (.gbar d) := by
  intro hw w h; cases h
  rw [decode_word]; refine (fields_B _ 0x6 (by simp) (by simp)).trans ?_
  simp (disch := decide) only [decodeB, need, fM, immM, immS, immT, immX, coded, bits_straddle, bits_append_lo,
    bits_append_hi, bits_all, bit_append_hi, bit_append_lo, bit_ofBool, atLeast32, only64]
  simp [bits_all, bit_ofBool]
theorem sstep (d : Reg) (replay : Bool) : Statement (.sstep d replay) := by
  intro hw w h; cases h
  rw [decode_word]; refine (fields_B _ 0x7 (by simp) (by simp)).trans ?_
  simp (disch := decide) only [decodeB, need, fM, immM, immS, immT, immX, coded, bits_straddle, bits_append_lo,
    bits_append_hi, bits_all, bit_append_hi, bit_append_lo, bit_ofBool, atLeast32, only64]
  simp [bits_all, bit_ofBool]
theorem launch (d a : Reg) (nb : Bool) : Statement (.launch d a nb) := by
  intro hw w h; cases h
  rw [decode_word]; refine (fields_C _ 0x0 (by simp) (by simp)).trans ?_
  simp (disch := decide) only [decodeC, need, fM, immM, immS, immT, immX, coded, bits_straddle, bits_append_lo,
    bits_append_hi, bits_all, bit_append_hi, bit_append_lo, bit_ofBool, atLeast32, only64]
  simp [bits_all, bit_ofBool]
theorem gballot (d a : Reg) (wait : Bool) : Statement (.gballot d a wait) := by
  intro hw w h; cases h
  rw [decode_word]; refine (fields_C _ 0x2 (by simp) (by simp)).trans ?_
  simp (disch := decide) only [decodeC, need, fM, immM, immS, immT, immX, coded, bits_straddle, bits_append_lo,
    bits_append_hi, bits_all, bit_append_hi, bit_append_lo, bit_ofBool, atLeast32, only64]
  simp [bits_all, bit_ofBool]
theorem gcancel (d a : Reg) : Statement (.gcancel d a) := by
  intro hw w h; cases h
  rw [decode_word]; refine (fields_C _ 0x3 (by simp) (by simp)).trans ?_
  simp (disch := decide) only [decodeC, need, fM, immM, immS, immT, immX, coded, bits_straddle, bits_append_lo,
    bits_append_hi, bits_all, bit_append_hi, bit_append_lo, bit_ofBool, atLeast32, only64]
  simp [bits_all, bit_ofBool]
theorem gstat (d a : Reg) (var : BitVec 3) : Statement (.gstat d a var) := by
  intro hw w h; cases h
  rw [decode_word]; refine (fields_C _ 0x4 (by simp) (by simp)).trans ?_
  simp (disch := decide) only [decodeC, need, fM, immM, immS, immT, immX, coded, bits_straddle, bits_append_lo,
    bits_append_hi, bits_all, bit_append_hi, bit_append_lo, bit_ofBool, atLeast32, only64]
  simp [bits_all, bit_ofBool]
theorem draw (d a b : Reg) (raw : Bool) : Statement (.draw d a b raw) := by
  intro hw w h; cases h
  rw [decode_word]; refine (fields_C _ 0x5 (by simp) (by simp)).trans ?_
  simp (disch := decide) only [decodeC, need, fM, immM, immS, immT, immX, coded, bits_straddle, bits_append_lo,
    bits_append_hi, bits_all, bit_append_hi, bit_append_lo, bit_ofBool, atLeast32, only64]
  simp [bits_all, bit_ofBool]
theorem pgref (d a : Reg) : Statement (.pgref d a) := by
  intro hw w h; cases h
  rw [decode_word]; refine (fields_C _ 0x6 (by simp) (by simp)).trans ?_
  simp (disch := decide) only [decodeC, need, fM, immM, immS, immT, immX, coded, bits_straddle, bits_append_lo,
    bits_append_hi, bits_all, bit_append_hi, bit_append_lo, bit_ofBool, atLeast32, only64]
  simp [bits_all, bit_ofBool]
theorem pgrel (d a : Reg) : Statement (.pgrel d a) := by
  intro hw w h; cases h
  rw [decode_word]; refine (fields_C _ 0x7 (by simp) (by simp)).trans ?_
  simp (disch := decide) only [decodeC, need, fM, immM, immS, immT, immX, coded, bits_straddle, bits_append_lo,
    bits_append_hi, bits_all, bit_append_hi, bit_append_lo, bit_ofBool, atLeast32, only64]
  simp [bits_all, bit_ofBool]
theorem tlbinvPage (a b : Reg) (post : Bool) : Statement (.tlbinvPage a b post) := by
  intro hw w h; cases h
  rw [decode_word]; refine (fields_E _ 0x0 (by simp) (by simp)).trans ?_
  simp (disch := decide) only [decodeE, need, fM, immM, immS, immT, immX, coded, bits_straddle, bits_append_lo,
    bits_append_hi, bits_all, bit_append_hi, bit_append_lo, bit_ofBool, atLeast32, only64]
  simp [bits_all, bit_ofBool]
  cases post <;> simp_all [Instr.wellFormed]
theorem tlbinvAll (a b : Reg) (post : Bool) : Statement (.tlbinvAll a b post) := by
  intro hw w h; cases h
  rw [decode_word]; refine (fields_E _ 0x0 (by simp) (by simp)).trans ?_
  simp (disch := decide) only [decodeE, need, fM, immM, immS, immT, immX, coded, bits_straddle, bits_append_lo,
    bits_append_hi, bits_all, bit_append_hi, bit_append_lo, bit_ofBool, atLeast32, only64]
  simp [bits_all, bit_ofBool]
  cases post <;> simp_all [Instr.wellFormed]
theorem tlbinvCode (a b : Reg) (post : Bool) : Statement (.tlbinvCode a b post) := by
  intro hw w h; cases h
  rw [decode_word]; refine (fields_E _ 0x0 (by simp) (by simp)).trans ?_
  simp (disch := decide) only [decodeE, need, fM, immM, immS, immT, immX, coded, bits_straddle, bits_append_lo,
    bits_append_hi, bits_all, bit_append_hi, bit_append_lo, bit_ofBool, atLeast32, only64]
  simp [bits_all, bit_ofBool]
  cases post <;> simp_all [Instr.wellFormed]
theorem pgmap (d a b : Reg) (lvl : BitVec 3) (wake : Bool) : Statement (.pgmap d a b lvl wake) := by
  intro hw w h; cases h
  rw [decode_word]; refine (fields_E _ 0x1 (by simp) (by simp)).trans ?_
  simp (disch := decide) only [decodeE, need, fM, immM, immS, immT, immX, coded, bits_straddle, bits_append_lo,
    bits_append_hi, bits_all, bit_append_hi, bit_append_lo, bit_ofBool, atLeast32, only64]
  simp [bits_all, bit_ofBool]
  simpa [Instr.wellFormed] using hw
theorem ctxsaveThr (d a : Reg) : Statement (.ctxsaveThr d a) := by
  intro hw w h; cases h
  rw [decode_word]; refine (fields_E _ 0x2 (by simp) (by simp)).trans ?_
  simp (disch := decide) only [decodeE, need, fM, immM, immS, immT, immX, coded, bits_straddle, bits_append_lo,
    bits_append_hi, bits_all, bit_append_hi, bit_append_lo, bit_ofBool, atLeast32, only64]
  simp [bits_all, bit_ofBool]
  rfl
theorem ctxsaveGang (d a b : Reg) (post : Bool) : Statement (.ctxsaveGang d a b post) := by
  intro hw w h; cases h
  rw [decode_word]; refine (fields_E _ 0x2 (by simp) (by simp)).trans ?_
  simp (disch := decide) only [decodeE, need, fM, immM, immS, immT, immX, coded, bits_straddle, bits_append_lo,
    bits_append_hi, bits_all, bit_append_hi, bit_append_lo, bit_ofBool, atLeast32, only64]
  simp [bits_all, bit_ofBool]
  cases post <;> simp_all [Instr.wellFormed] <;> rfl
theorem ctxloadThr (d a : Reg) : Statement (.ctxloadThr d a) := by
  intro hw w h; cases h
  rw [decode_word]; refine (fields_E _ 0x3 (by simp) (by simp)).trans ?_
  simp (disch := decide) only [decodeE, need, fM, immM, immS, immT, immX, coded, bits_straddle, bits_append_lo,
    bits_append_hi, bits_all, bit_append_hi, bit_append_lo, bit_ofBool, atLeast32, only64]
  simp [bits_all, bit_ofBool]
  rfl
theorem ctxloadGang (d a b : Reg) (post : Bool) : Statement (.ctxloadGang d a b post) := by
  intro hw w h; cases h
  rw [decode_word]; refine (fields_E _ 0x3 (by simp) (by simp)).trans ?_
  simp (disch := decide) only [decodeE, need, fM, immM, immS, immT, immX, coded, bits_straddle, bits_append_lo,
    bits_append_hi, bits_all, bit_append_hi, bit_append_lo, bit_ofBool, atLeast32, only64]
  simp [bits_all, bit_ofBool]
  cases post <;> simp_all [Instr.wellFormed] <;> rfl
theorem injectPsn (d a : Reg) : Statement (.injectPsn d a) := by
  intro hw w h; cases h
  rw [decode_word]; refine (fields_E _ 0x4 (by simp) (by simp)).trans ?_
  simp (disch := decide) only [decodeE, need, fM, immM, immS, immT, immX, coded, bits_straddle, bits_append_lo,
    bits_append_hi, bits_all, bit_append_hi, bit_append_lo, bit_ofBool, atLeast32, only64]
  simp [bits_all, bit_ofBool]
  rfl
theorem injectClr (d a : Reg) : Statement (.injectClr d a) := by
  intro hw w h; cases h
  rw [decode_word]; refine (fields_E _ 0x4 (by simp) (by simp)).trans ?_
  simp (disch := decide) only [decodeE, need, fM, immM, immS, immT, immX, coded, bits_straddle, bits_append_lo,
    bits_append_hi, bits_all, bit_append_hi, bit_append_lo, bit_ofBool, atLeast32, only64]
  simp [bits_all, bit_ofBool]
  rfl
theorem injectSig (d a : Reg) : Statement (.injectSig d a) := by
  intro hw w h; cases h
  rw [decode_word]; refine (fields_E _ 0x4 (by simp) (by simp)).trans ?_
  simp (disch := decide) only [decodeE, need, fM, immM, immS, immT, immX, coded, bits_straddle, bits_append_lo,
    bits_append_hi, bits_all, bit_append_hi, bit_append_lo, bit_ofBool, atLeast32, only64]
  simp [bits_all, bit_ofBool]
  rfl
theorem injectTclr (d a : Reg) : Statement (.injectTclr d a) := by
  intro hw w h; cases h
  rw [decode_word]; refine (fields_E _ 0x4 (by simp) (by simp)).trans ?_
  simp (disch := decide) only [decodeE, need, fM, immM, immS, immT, immX, coded, bits_straddle, bits_append_lo,
    bits_append_hi, bits_all, bit_append_hi, bit_append_lo, bit_ofBool, atLeast32, only64]
  simp [bits_all, bit_ofBool]
  rfl
theorem injectHalt (d a : Reg) : Statement (.injectHalt d a) := by
  intro hw w h; cases h
  rw [decode_word]; refine (fields_E _ 0x4 (by simp) (by simp)).trans ?_
  simp (disch := decide) only [decodeE, need, fM, immM, immS, immT, immX, coded, bits_straddle, bits_append_lo,
    bits_append_hi, bits_all, bit_append_hi, bit_append_lo, bit_ofBool, atLeast32, only64]
  simp [bits_all, bit_ofBool]
  rfl
theorem sretRes (d a : Reg) : Statement (.sretRes d a) := by
  intro hw w h; cases h
  rw [decode_word]; refine (fields_E _ 0x5 (by simp) (by simp)).trans ?_
  simp (disch := decide) only [decodeE, need, fM, immM, immS, immT, immX, coded, bits_straddle, bits_append_lo,
    bits_append_hi, bits_all, bit_append_hi, bit_append_lo, bit_ofBool, atLeast32, only64]
  simp [bits_all, bit_ofBool]
  rfl
theorem sretSkip (d a : Reg) : Statement (.sretSkip d a) := by
  intro hw w h; cases h
  rw [decode_word]; refine (fields_E _ 0x5 (by simp) (by simp)).trans ?_
  simp (disch := decide) only [decodeE, need, fM, immM, immS, immT, immX, coded, bits_straddle, bits_append_lo,
    bits_append_hi, bits_all, bit_append_hi, bit_append_lo, bit_ofBool, atLeast32, only64]
  simp [bits_all, bit_ofBool]
  rfl
theorem sretUser (d a : Reg) : Statement (.sretUser d a) := by
  intro hw w h; cases h
  rw [decode_word]; refine (fields_E _ 0x5 (by simp) (by simp)).trans ?_
  simp (disch := decide) only [decodeE, need, fM, immM, immS, immT, immX, coded, bits_straddle, bits_append_lo,
    bits_append_hi, bits_all, bit_append_hi, bit_append_lo, bit_ofBool, atLeast32, only64]
  simp [bits_all, bit_ofBool]
  rfl
theorem sretAbort (d a : Reg) : Statement (.sretAbort d a) := by
  intro hw w h; cases h
  rw [decode_word]; refine (fields_E _ 0x5 (by simp) (by simp)).trans ?_
  simp (disch := decide) only [decodeE, need, fM, immM, immS, immT, immX, coded, bits_straddle, bits_append_lo,
    bits_append_hi, bits_all, bit_append_hi, bit_append_lo, bit_ofBool, atLeast32, only64]
  simp [bits_all, bit_ofBool]
  rfl
theorem sretAbortGang (d a : Reg) : Statement (.sretAbortGang d a) := by
  intro hw w h; cases h
  rw [decode_word]; refine (fields_E _ 0x5 (by simp) (by simp)).trans ?_
  simp (disch := decide) only [decodeE, need, fM, immM, immS, immT, immX, coded, bits_straddle, bits_append_lo,
    bits_append_hi, bits_all, bit_append_hi, bit_append_lo, bit_ofBool, atLeast32, only64]
  simp [bits_all, bit_ofBool]
  rfl
theorem tensetSet (d a b : Reg) : Statement (.tensetSet d a b) := by
  intro hw w h; cases h
  rw [decode_word]; refine (fields_E _ 0x7 (by simp) (by simp)).trans ?_
  simp (disch := decide) only [decodeE, need, fM, immM, immS, immT, immX, coded, bits_straddle, bits_append_lo,
    bits_append_hi, bits_all, bit_append_hi, bit_append_lo, bit_ofBool, atLeast32, only64]
  simp [bits_all, bit_ofBool]
  rfl
theorem tensetClr (d a : Reg) : Statement (.tensetClr d a) := by
  intro hw w h; cases h
  rw [decode_word]; refine (fields_E _ 0x7 (by simp) (by simp)).trans ?_
  simp (disch := decide) only [decodeE, need, fM, immM, immS, immT, immX, coded, bits_straddle, bits_append_lo,
    bits_append_hi, bits_all, bit_append_hi, bit_append_lo, bit_ofBool, atLeast32, only64]
  simp [bits_all, bit_ofBool]
  rfl
theorem locsetSet (d a b : Reg) : Statement (.locsetSet d a b) := by
  intro hw w h; cases h
  rw [decode_word]; refine (fields_E _ 0x6 (by simp) (by simp)).trans ?_
  simp (disch := decide) only [decodeE, need, fM, immM, immS, immT, immX, coded, bits_straddle, bits_append_lo,
    bits_append_hi, bits_all, bit_append_hi, bit_append_lo, bit_ofBool, atLeast32, only64]
  simp [bits_all, bit_ofBool]
  rfl
theorem locsetInv (d a : Reg) : Statement (.locsetInv d a) := by
  intro hw w h; cases h
  rw [decode_word]; refine (fields_E _ 0x6 (by simp) (by simp)).trans ?_
  simp (disch := decide) only [decodeE, need, fM, immM, immS, immT, immX, coded, bits_straddle, bits_append_lo,
    bits_append_hi, bits_all, bit_append_hi, bit_append_lo, bit_ofBool, atLeast32, only64]
  simp [bits_all, bit_ofBool]
  rfl
theorem accessPerformed (core ctx k : Nat) : Statement (.accessPerformed core ctx k) := by intro _ w h; cases h
theorem thermalLimitReached (die : Nat) : Statement (.thermalLimitReached die) := by intro _ w h; cases h
theorem resetRelease : Statement (.resetRelease) := by intro _ w h; cases h
theorem fwverify : Statement (.fwverify) := by intro _ w h; cases h
theorem memtrain : Statement (.memtrain) := by intro _ w h; cases h
theorem sraminit : Statement (.sraminit) := by intro _ w h; cases h
theorem linkup : Statement (.linkup) := by intro _ w h; cases h
theorem ready : Statement (.ready) := by intro _ w h; cases h
theorem powerLoss : Statement (.powerLoss) := by intro _ w h; cases h
theorem supervisorNotification : Statement (.supervisorNotification) := by intro _ w h; cases h
theorem admission : Statement (.admission) := by intro _ w h; cases h
theorem schedulerPreempt : Statement (.schedulerPreempt) := by intro _ w h; cases h
theorem listLaunch : Statement (.listLaunch) := by intro _ w h; cases h
theorem listWaitc : Statement (.listWaitc) := by intro _ w h; cases h
theorem listSkipif : Statement (.listSkipif) := by intro _ w h; cases h
theorem listJump : Statement (.listJump) := by intro _ w h; cases h
theorem listCall : Statement (.listCall) := by intro _ w h; cases h
theorem listRet : Statement (.listRet) := by intro _ w h; cases h
theorem listPost : Statement (.listPost) := by intro _ w h; cases h
theorem listFence : Statement (.listFence) := by intro _ w h; cases h
theorem listTable : Statement (.listTable) := by intro _ w h; cases h
theorem quoteComplete : Statement (.quoteComplete) := by intro _ w h; cases h
theorem elogRead : Statement (.elogRead) := by intro _ w h; cases h
theorem stop : Statement (.stop) := by
  intro hw w h; cases h
  rw [decode_word]; refine (fields_0 _ 0x2 (by simp) (by simp)).trans ?_
  simp (disch := decide) only [decode0, need, fM, immM, immS, immT, immX, coded, bits_straddle, bits_append_lo,
    bits_append_hi, bits_all, bit_append_hi, bit_append_lo, bit_ofBool, atLeast32, only64]
  simp [bits_all, bit_ofBool]
theorem tyield : Statement (.tyield) := by
  intro hw w h; cases h
  rw [decode_word]; refine (fields_0 _ 0x4 (by simp) (by simp)).trans ?_
  simp (disch := decide) only [decode0, need, fM, immM, immS, immT, immX, coded, bits_straddle, bits_append_lo,
    bits_append_hi, bits_all, bit_append_hi, bit_append_lo, bit_ofBool, atLeast32, only64]
  simp [bits_all, bit_ofBool]
theorem nop : Statement (.nop) := by
  intro hw w h; cases h
  rw [decode_word]; refine (fields_0 _ 0xB (by simp) (by simp)).trans ?_
  simp (disch := decide) only [decode0, need, fM, immM, immS, immT, immX, coded, bits_straddle, bits_append_lo,
    bits_append_hi, bits_all, bit_append_hi, bit_append_lo, bit_ofBool, atLeast32, only64]
  simp [bits_all, bit_ofBool]
theorem ltrig : Statement (.ltrig) := by
  intro hw w h; cases h
  rw [decode_word]; refine (fields_C _ 0x1 (by simp) (by simp)).trans ?_
  simp (disch := decide) only [decodeC, need, fM, immM, immS, immT, immX, coded, bits_straddle, bits_append_lo,
    bits_append_hi, bits_all, bit_append_hi, bit_append_lo, bit_ofBool, atLeast32, only64]
  simp [bits_all, bit_ofBool]
theorem decodeFailure : Statement (.decodeFailure) := by intro _ w h; cases h
theorem cxlLinkDown : Statement (.cxlLinkDown) := by intro _ w h; cases h

end Sys2Proof.Laws.Encoding
end

