-- ==== Sys2Proof/Laws/Shared.lean ====
section
/-! SUPPORT. One lemma for each further shared operation that says everything it can do: waiting, parking, translation by a core,
memories by place, outstanding accesses; and the operations over threads that leave physical memory as it is. -/

set_option linter.constructorNameAsVariable false

namespace Sys2Proof.Machine

/-! ## A core that fetches a code word (R336, R341) -/

theorem CodeFetched.refl (s : State) (c : Nat) : CodeFetched s s c := ⟨rfl, fun _ _ => rfl, rfl⟩

theorem CodeFetched.trans {s t u : State} {c : Nat} (a : CodeFetched s t c) (b : CodeFetched t u c) : CodeFetched s u c :=
  ⟨b.rest.trans a.rest, fun j h => (b.cores j h).trans (a.cores j h), b.core.trans a.core⟩

/-- A change to a core's cached translations and fetched copies alone. -/
theorem codeFetched_modCore (s : State) (c : Nat) (f : Core → Core)
    (h : ∀ x, { f x with tlb := [], icache := [] } = { x with tlb := [], icache := [] }) : CodeFetched s (s.modCore c f) c :=
  ⟨rfl, fun j n => State.coreAt_modCore_ne s f n, by rw [State.coreAt_modCore_self]; exact h _⟩

theorem CodeFetched.mem {s t : State} {c : Nat} (a : CodeFetched s t c) : t.mem = s.mem :=
  show ({ t with cores := [] } : State).mem = ({ s with cores := [] } : State).mem by rw [a.rest]

theorem CodeFetched.clock {s t : State} {c : Nat} (a : CodeFetched s t c) : t.clock = s.clock :=
  show ({ t with cores := [] } : State).clock = ({ s with cores := [] } : State).clock by rw [a.rest]

theorem CodeFetched.gangAt {s t : State} {c : Nat} (a : CodeFetched s t c) (h : Nat) : t.gangAt h = s.gangAt h :=
  show ({ t with cores := [] } : State).gangAt h = ({ s with cores := [] } : State).gangAt h by rw [a.rest]

/-- A code word that is fetched changes no thread. -/
theorem CodeFetched.thread {s t : State} {c : Nat} (a : CodeFetched s t c) (j k : Nat) : t.thread j k = s.thread j k := by
  have e : (t.coreAt j).threads = (s.coreAt j).threads := by
    by_cases h : j = c
    · subst h
      have : ({ t.coreAt j with tlb := [], icache := [] } : Core).threads = ({ s.coreAt j with tlb := [], icache := [] } : Core).threads := by
        rw [a.core]
      exact this
    · rw [a.cores j h]
  simp only [State.thread, e]

namespace State

/-! ## Waiting -/

/-- What an agent meets is as it was where it meets no guarded access. -/
theorem reveal_of_none {s : State} {a : Agent} {p : Access → Bool} (h : s.guardedFrom a p = none) : s.reveal a p = s := by
  unfold reveal; cases s.guardCount with
  | zero => rfl
  | succ n => simp [settle, h]

/-- Nothing is guarded at .sys: a release there waits until everything is performed. -/
theorem guardOut_sys (s : State) (p : Access → Bool) : s.guardOut .sys p = s := by
  have same (i : Nat) : guardNth .sys s i = s := by unfold guardNth; split <;> simp
  unfold guardOut
  generalize List.range s.me.out.length = l
  induction l with
  | nil => rfl
  | cons i r ih => rw [List.foldl_cons, same, ite_self]; exact ih

/-- With nothing outstanding there is nothing to guard. -/
theorem guardOut_nil (s : State) (scope : Scope) (p : Access → Bool) (h : s.me.out = []) : s.guardOut scope p = s := by
  simp [guardOut, h]

/-- A release with no access and no post outstanding goes on at once. -/
theorem afterAccesses_done (s : State) (scope : Scope) (k : State → State) (h : s.me.out = []) (q : s.posting = false) :
    s.afterAccesses scope k = k s := by
  simp [afterAccesses, afterThose, guardOut_nil, h, q]

/-- A release with a post under way waits in ISSUED. -/
theorem afterAccesses_posting (s : State) (scope : Scope) (k : State → State) (h : s.me.out = []) (q : s.posting = true) :
    s.afterAccesses scope k = s.stall .order := by
  simp [afterAccesses, afterThose, guardOut_nil, h, q]

/-- A release at .sys with an access outstanding that is not guarded there waits in ISSUED. -/
theorem afterAccesses_wait (s : State) (k : State → State) {x : Access} (h : x ∈ s.me.out) (g : x.guardedFor .sys = false) :
    s.afterAccesses .sys k = s.stall .order := by
  have : s.me.out.all (fun x => !true || x.guardedFor .sys) = false := by
    rw [List.all_eq_false]; exact ⟨x, h, by simp [g]⟩
  simp only [afterAccesses, afterThose, guardOut_sys]
  rw [this]; rfl

/-- A stalled thread stays in ISSUED with its reason, and nothing else changes. -/
theorem stall_outside (s : State) (why : Stall) : SameOutside s (s.stall why) s.core s.ctx := by
  unfold stall modMe; exact sameOutside_modThread ..

@[simp] theorem me_stall (s : State) (why : Stall) : (s.stall why).me = { s.me with stat := .issued, wait := .stall why } :=
  me_modMe ..

/-! ## Translation by a core -/

/-- A translation by a core changes at most that core's cached translations. -/
theorem coreTranslate_ok {s u : State} {c : Nat} {tenant : Option Nat} {va pa : Nat} {r : Rights}
    (h : s.coreTranslate c tenant va r = .ok (pa, u)) :
    u = s ∨ ∃ tlb, u = s.modCore c (fun x => { x with tlb := tlb }) := by
  unfold coreTranslate at h
  split at h
  · split at h
    · simp only [Except.ok.injEq, Prod.mk.injEq] at h; exact .inl h.2.symm
    · simp at h
  · split at h
    · simp at h
    · next tlb _ => simp only [Except.ok.injEq, Prod.mk.injEq] at h; exact .inr ⟨tlb, h.2.symm⟩

/-! ## Fetching code words -/

/-- Everything that fetching a code word does to the state. -/
theorem fetchCode_ok {s u : State} {c va : Nat} {tenant : Option Nat} {w : Word} (h : s.fetchCode c tenant va = .ok (w, u)) :
    CodeFetched s u c := by
  unfold fetchCode at h
  split at h
  · simp at h
  · next pa v e =>
    have a : CodeFetched s v c := by
      rcases coreTranslate_ok e with e | ⟨tlb, e⟩
      · rw [e]; exact .refl s c
      · rw [e]; exact codeFetched_modCore s c _ (fun _ => rfl)
    dsimp only at h
    split at h <;> simp only [Except.ok.injEq, Prod.mk.injEq] at h <;> rw [← h.2]
    · exact a
    · exact a.trans (codeFetched_modCore _ c _ (fun _ => rfl))

/-- A next word that is fetched ahead: code words are fetched, and then the thread holds the word, or none where the fetch faulted. -/
theorem prefetch_spec (s : State) (c k off : Nat) :
    ∃ u code, CodeFetched s u c ∧ s.prefetch c k off = u.modThread c k (fun t => { t with code := code }) := by
  unfold prefetch; dsimp only; split
  · next w u h => exact ⟨u, some w, fetchCode_ok h, rfl⟩
  · exact ⟨s, none, .refl s c, rfl⟩

/-- A thread that parks is PARKED with its wait and has its next word fetched, and nothing else changes but for what the journal adds. -/
theorem park_spec (s : State) (w : Wait) :
    ∃ u v code, SameOutside s u s.core s.ctx ∧ u.me.calm = ({ s.me with stat := .parked, wait := w } : Thread).calm ∧
      AsyncKept s u s.core s.ctx ∧ CodeFetched u v s.core ∧
      s.park w = v.modThread s.core s.ctx (fun t => { t with code := code }) := by
  let u : State := (s.modMe (fun t => { t with stat := .parked, wait := w })).touchCore s.core [unitOfThread s.ctx] (some (s.core, s.ctx))
  have o : SameOutside s u s.core s.ctx := (sameOutside_modThread s s.core s.ctx _).trans (touchCore_outside ..)
  obtain ⟨v, code, f, e⟩ := prefetch_spec u s.core s.ctx (s.me.pcOff + 1)
  refine ⟨u, v, code, o, ?_, ?_, f, e⟩
  · rw [State.me, o.core_eq, o.ctx_eq, touchCore_calm]; exact congrArg Thread.calm (me_modMe ..)
  · exact (asyncKept_modThread s s.core s.ctx (fun t => { t with stat := .parked, wait := w }) rfl).trans
      (sameOutside_modThread s s.core s.ctx _) (touchCore_async ..)

/-- The check of a global address changes at most the core's cached translations. -/
theorem checkGlobal_ok {s u : State} {use : MemUse} {ea pa : Nat} (h : s.checkGlobal use ea = .ok (pa, u)) :
    u = s ∨ ∃ tlb, u = s.modCore s.core (fun x => { x with tlb := tlb }) := by
  unfold checkGlobal at h
  split at h
  · simp at h
  · dsimp only at h
    split at h
    · simp at h
    · next e =>
      have k := coreTranslate_ok e
      split at h
      · split at h
        · simp at h
        · split at h
          · simp only [Except.ok.injEq, Prod.mk.injEq] at h; exact h.2 ▸ k
          · simp at h
      · simp only [Except.ok.injEq, Prod.mk.injEq] at h; exact h.2 ▸ k

/-- The check of a global address leaves every thread and physical memory as they are. -/
theorem checkGlobal_frame {s u : State} {use : MemUse} {ea pa : Nat} (h : s.checkGlobal use ea = .ok (pa, u)) :
    (∀ c k, u.thread c k = s.thread c k) ∧ u.mem = s.mem ∧ u.core = s.core ∧ u.ctx = s.ctx := by
  rcases checkGlobal_ok h with e | ⟨tlb, e⟩ <;> subst e
  · exact ⟨fun _ _ => rfl, rfl, rfl, rfl⟩
  · exact ⟨fun c k => thread_modCore s s.core c k _ (fun _ => rfl), rfl, rfl, rfl⟩

/-! ## Memories by place -/

/-- The memory of a space and a place after that memory is replaced; the context space keeps none. -/
@[simp] theorem localMem_setLocalMem (s : State) (sp : Space) (p : Nat) (m : Memory) (h : sp ≠ .cx) :
    (s.setLocalMem sp p m).localMem sp p = m := by
  cases sp <;> simp [localMem, setLocalMem] at h ⊢

/-- Physical memory after a local memory is replaced. -/
theorem setLocalMem_mem (s : State) (sp : Space) (p : Nat) (m : Memory) :
    (s.setLocalMem sp p m).mem = if sp = .gl then m else s.mem := by
  cases sp <;> rfl

/-! ## Outstanding accesses -/

/-- Everything that issuing an access does. -/
theorem issueAccess_issues (s : State) (x : Access) : Issues s (s.issueAccess x) x := by
  let f (t : Thread) : Thread :=
    let t := if x.dest = 0 then t
      else { t with written := withBit (withBit t.written x.dest.toNat true) 1 true
                    out := t.out.map (Access.overtaken x.dest) }
    { t with out := t.out ++ [{ x with toQ := decide (x.dest ≠ 0), taint := t.tnt }] }
  let v : State := if 10 ≤ x.dest.toNat then (s.modMe f).touchCore s.core [unitOfReg s.ctx (x.dest.toNat - 10)] (some (s.core, s.ctx))
    else s.modMe f
  have fa : (f s.me).async = s.me.async := by simp only [f]; split <;> rfl
  have vo : SameOutside s v s.core s.ctx := by
    simp only [v]; split
    · exact (sameOutside_modThread s s.core s.ctx f).trans (touchCore_outside ..)
    · exact sameOutside_modThread s s.core s.ctx f
  have vc : (v.thread s.core s.ctx).calm = (f s.me).calm := by
    simp only [v]; split
    · rw [touchCore_calm]; exact congrArg Thread.calm (me_modMe ..)
    · exact congrArg Thread.calm (me_modMe ..)
  have va : AsyncKept s v s.core s.ctx := by
    have a := asyncKept_modThread s s.core s.ctx f fa
    simp only [v]; split
    · exact a.trans (sameOutside_modThread s s.core s.ctx f) (touchCore_async ..)
    · exact a
  have e : s.issueAccess x = v.retireAt s.core s.ctx := by
    have q : s.issueAccess x = v.retireAt v.core v.ctx := rfl
    rw [q, vo.core_eq, vo.ctx_eq]
  have out : SameOutside s (s.issueAccess x) s.core s.ctx := by rw [e]; exact vo.trans (retireAt_outside ..)
  have me : (s.issueAccess x).me.calm = ((f s.me).retired s.clock).calm := by
    rw [State.me, out.core_eq, out.ctx_eq, e, retireAt_calm, vo.clock_eq]
    have : (v.thread s.core s.ctx).calm.retired s.clock = (f s.me).calm.retired s.clock := by rw [vc]
    exact this
  refine ⟨out, ?_, fun r => ?_, ?_⟩
  · have : (s.issueAccess x).me.calm.out = ((f s.me).retired s.clock).calm.out := by rw [me]
    refine Eq.trans this ?_
    show (f s.me).out = _
    simp only [f]; split <;> rfl
  · rw [show (s.issueAccess x).reg r = ((f s.me).retired s.clock).reg r from Thread.reg_of_calm me r]
    show (f s.me).reg r = _
    simp only [f]; split <;> rfl
  · rw [me]
    show ({ ((f s.me).retired s.clock).calm with out := [], written := 0 } : Thread) = _
    simp only [f]; split <;> rfl

/-! ## The register cache and convoys -/

/-- With nothing written back, a context reads through the register cache as it stands. -/
theorem cachedThread_of_nil {s : State} {c : Nat} (k : Nat) (h : (s.coreAt c).evicted = []) : s.cachedThread c k = s.thread c k := by
  simp [cachedThread, h]

/-- A register that was not written back is filled with what it holds. -/
theorem fillRegister_of_not_mem {s : State} {c e : Nat} (h : ¬ e ∈ (s.coreAt c).evicted) : s.fillRegister c e = s := by
  simp [fillRegister, evictedVal, h]

/-- A register that is resident stays so, and nothing changes. -/
theorem cacheRegister_of_mem {s : State} {c e : Nat} (h : e ∈ (s.coreAt c).resident) : s.cacheRegister c e = s := by
  simp [cacheRegister, h]

/-- A cache that is not full makes room by changing nothing. -/
theorem makeRoom_of_lt {s : State} {c : Nat} (by_ : Option (Nat × Nat)) (h : (s.coreAt c).resident.length < 2048) :
    s.makeRoom c by_ = s := by
  simp [makeRoom, h]

/-- Joining a convoy changes no thread. -/
@[simp] theorem thread_joinConvoy (s : State) (c k i j : Nat) : (s.joinConvoy c k).thread i j = s.thread i j := by
  unfold joinConvoy; split <;> exact thread_modCore s c i j _ (fun _ => rfl)

@[simp] theorem joinConvoy_mem (s : State) (c k : Nat) : (s.joinConvoy c k).mem = s.mem := by
  unfold joinConvoy; split <;> rfl

/-! ## What comes first on a core (R17, R98, R100) -/

/-- One context comes before another: an older one, or one as old with a number that is not greater. -/
def AgeLe (age : Nat → Nat) (i j : Nat) : Prop := age i < age j ∨ (age i = age j ∧ i ≤ j)

theorem mem_insertByAge {age : Nat → Nat} {k i : Nat} {l : List Nat} : i ∈ insertByAge age k l ↔ i = k ∨ i ∈ l := by
  induction l with
  | nil => simp [insertByAge]
  | cons j r ih => unfold insertByAge; split <;> simp [ih, or_left_comm]

/-- A context put in its place by age leaves the list in order. -/
theorem insertByAge_ordered {age : Nat → Nat} (k : Nat) {l : List Nat} (h : l.Pairwise (AgeLe age)) :
    (insertByAge age k l).Pairwise (AgeLe age) := by
  induction l with
  | nil => simp [insertByAge]
  | cons j r ih =>
    obtain ⟨hj, hr⟩ := List.pairwise_cons.1 h
    unfold insertByAge; split
    · refine List.pairwise_cons.2 ⟨fun i hi => ?_, h⟩
      obtain rfl | hi := List.mem_cons.1 hi
      · unfold AgeLe; omega
      · have := hj i hi; unfold AgeLe at *; omega
    · refine List.pairwise_cons.2 ⟨fun i hi => ?_, ih hr⟩
      obtain rfl | hi := mem_insertByAge.1 hi
      · unfold AgeLe; omega
      · exact hj i hi

/-- Contexts by age are those of the list, in order. -/
theorem byAge_spec (s : State) (c : Nat) (l : List Nat) :
    (∀ i, i ∈ s.byAge c l ↔ i ∈ l) ∧ (s.byAge c l).Pairwise (AgeLe (fun j => (s.thread c j).age)) := by
  suffices h : ∀ (l r : List Nat), r.Pairwise (AgeLe (fun j => (s.thread c j).age)) →
      (∀ i, i ∈ l.foldl (fun r k => insertByAge (fun j => (s.thread c j).age) k r) r ↔ i ∈ l ∨ i ∈ r) ∧
      (l.foldl (fun r k => insertByAge (fun j => (s.thread c j).age) k r) r).Pairwise (AgeLe (fun j => (s.thread c j).age)) by
    simpa [byAge] using h l [] List.Pairwise.nil
  intro l
  induction l with
  | nil => intro r h; simp [h]
  | cons k l ih =>
    intro r h
    obtain ⟨a, b⟩ := ih _ (insertByAge_ordered k h)
    exact ⟨fun i => by rw [List.foldl_cons, a, mem_insertByAge, List.mem_cons, or_assoc, or_left_comm], b⟩

/-- The contexts that satisfy a test are those of the core's list that do. -/
theorem mem_contextsOn {s : State} {c k : Nat} {p : Nat → Thread → Bool} :
    k ∈ s.contextsOn c p ↔ (∃ t, (k, t) ∈ (s.coreAt c).threads) ∧ p k (s.thread c k) = true := by
  simp [contextsOn]

/-! ## Operations that leave physical memory as it is -/

@[simp] theorem journalFull_mem (s : State) (h n : Nat) (cs : List Nat) (by_ : Option (Nat × Nat)) :
    (s.journalFull h n cs by_).mem = s.mem := by
  unfold journalFull; dsimp only; split <;> simp [setAsync]

@[simp] theorem touchCore_mem (s : State) (c : Nat) (u : List Nat) (by_ : Option (Nat × Nat)) : (s.touchCore c u by_).mem = s.mem := by
  unfold touchCore; split
  · rfl
  · dsimp only; split
    · rfl
    · split <;> simp

@[simp] theorem touchSpan_mem (s : State) (n : Nat) (u : List Nat) (by_ : Option (Nat × Nat)) : (s.touchSpan n u by_).mem = s.mem := by
  unfold touchSpan; split
  · rfl
  · dsimp only; split
    · rfl
    · split <;> simp

@[simp] theorem setRegAt_mem (s : State) (c k : Nat) (r : Reg) (v : Val) : (s.setRegAt c k r v).mem = s.mem := by
  unfold setRegAt; dsimp only; split <;> simp

@[simp] theorem retireAt_mem (s : State) (c k : Nat) : (s.retireAt c k).mem = s.mem := by simp [retireAt]

@[simp] theorem retire_mem (s : State) : s.retire.mem = s.mem := retireAt_mem ..

@[simp] theorem finish_mem (s : State) (r : Reg) (v : Val) : (s.finish r v).mem = s.mem := by simp [finish, setD]

@[simp] theorem finishAt_mem (s : State) (c k : Nat) (r : Reg) (v : Word) : (s.finishAt c k r v).mem = s.mem := by simp [finishAt]

@[simp] theorem stall_mem (s : State) (why : Stall) : (s.stall why).mem = s.mem := rfl

@[simp] theorem prefetch_mem (s : State) (c k off : Nat) : (s.prefetch c k off).mem = s.mem := by
  obtain ⟨u, code, f, e⟩ := prefetch_spec s c k off
  rw [e]; exact f.mem

@[simp] theorem park_mem (s : State) (w : Wait) : (s.park w).mem = s.mem := (prefetch_mem ..).trans (touchCore_mem ..)

@[simp] theorem issueAccess_mem (s : State) (x : Access) : (s.issueAccess x).mem = s.mem := by
  unfold issueAccess; dsimp only; rw [retire_mem]; split
  · exact touchCore_mem ..
  · rfl

@[simp] theorem sendPostOf_mem (s : State) (tn g : Option Nat) (by_ : Option (Nat × Nat)) (r : Option Nat) (ct : Nat) (inc : Half) :
    (s.sendPostOf tn g by_ r ct inc).mem = s.mem := rfl

@[simp] theorem postField_mem (s : State) (tn id : Nat) (w : Word) (lo : Nat) : (s.postField tn id w lo).mem = s.mem := by
  unfold postField; split <;> rfl

@[simp] theorem latchWaits_mem (s : State) (p : Nat → Nat → Bool) : (s.latchWaits p).mem = s.mem := rfl

@[simp] theorem countSibling_mem (s : State) (c k : Nat) (f : Nat → Group → Group) : (s.countSibling c k f).mem = s.mem := by
  unfold countSibling; repeat' split
  all_goals rfl

@[simp] theorem countCycles_mem (s : State) (c k n : Nat) : (s.countCycles c k n).mem = s.mem := countSibling_mem ..

@[simp] theorem countBlock_mem (s : State) (c k : Nat) : (s.countBlock c k).mem = s.mem := countSibling_mem ..

/-- A counter that changes leaves physical memory. -/
@[simp] theorem setCounterAt_mem (s : State) (c i : Nat) (v : Half) (by_ : Option (Nat × Nat)) :
    (s.setCounterAt c i v by_).mem = s.mem := (touchCore_mem ..).trans (latchWaits_mem ..)

/-- Registers that die leave physical memory. -/
@[simp] theorem killRegs_mem (s : State) (c k : Nat) (mask : Word) (by_ : Option (Nat × Nat)) :
    (s.killRegs c k mask by_).mem = s.mem := touchCore_mem ..

/-- Physical memory after a fold of operations that leave it. -/
theorem foldl_mem {α : Type} (f : State → α → State) (h : ∀ s a, (f s a).mem = s.mem) (l : List α) (s : State) :
    (l.foldl f s).mem = s.mem := by
  induction l generalizing s with
  | nil => rfl
  | cons a r ih => rw [List.foldl_cons, ih, h]

@[simp] theorem passMutex_mem (s : State) (n m st : Nat) (by_ : Option (Nat × Nat)) : (s.passMutex n m st by_).mem = s.mem := by
  unfold passMutex; dsimp only
  split
  · exact touchSpan_mem ..
  · split
    · exact (finishAt_mem ..).trans (touchSpan_mem ..)
    · exact touchSpan_mem ..

@[simp] theorem orphanMutexes_mem (s : State) (c k : Nat) : (s.orphanMutexes c k).mem = s.mem :=
  foldl_mem _ (fun _ _ => by split <;> simp) _ _

@[simp] theorem leaveMutexes_mem (s : State) (c k : Nat) : (s.leaveMutexes c k).mem = s.mem := by
  unfold leaveMutexes; split <;> simp

/-- A context with an access or a post under way keeps its mutexes. -/
theorem leaveMutexes_of_pending {s : State} {c k : Nat} (h : s.performedAll c k = false) : s.leaveMutexes c k = s := by
  simp [leaveMutexes, h]

@[simp] theorem checkDrain_mem (s : State) (h : Nat) : (s.checkDrain h).mem = s.mem := by
  unfold checkDrain; split
  · split <;> simp
  · rfl

@[simp] theorem checkTrigger_mem (s : State) (id : Nat) : (s.checkTrigger id).mem = s.mem := by
  unfold checkTrigger; split
  · rfl
  · split
    · exact postField_mem ..
    · rfl

@[simp] theorem makeDone_mem (s : State) (c k : Nat) : (s.makeDone c k).mem = s.mem := by
  unfold makeDone; dsimp only
  split
  · split <;> simp
  · simp

/-- Taking an exception leaves physical memory. -/
@[simp] theorem raiseTrapAt_mem (s : State) (c k : Nat) (cause : BitVec 8) (tval : Word) :
    (s.raiseTrapAt c k cause tval).mem = s.mem := by
  unfold raiseTrapAt; dsimp only
  repeat' split
  all_goals simp

/-- Reading a header and fetching words leave physical memory. -/
@[simp] theorem readHeader_mem (s : State) (c k : Nat) (mask : Bool) (by_ : Option (Nat × Nat)) :
    (s.readHeader c k mask by_).mem = s.mem := by
  unfold readHeader; dsimp only
  split
  · simp
  · next e =>
    split
    · next => rw [raiseTrapAt_mem, (fetchCode_ok e).mem]
    · next e' =>
      have m := (fetchCode_ok e').mem.trans (fetchCode_ok e).mem
      repeat' split
      all_goals simpa using m

@[simp] theorem primed_mem (s : State) (c k : Nat) : (s.primed c k).mem = s.mem := by
  unfold primed; dsimp only; repeat' split
  all_goals simp

@[simp] theorem enterBlock_mem (s : State) (c k : Nat) (blk : Half) (leaving : Option (BitVec 16)) (mask : Bool) (by_ : Option (Nat × Nat)) :
    (s.enterBlock c k blk leaving mask by_).mem = s.mem := by simp [enterBlock]

@[simp] theorem resumeAt_mem (s : State) (c k : Nat) (blk : Half) (off : Nat) : (s.resumeAt c k blk off).mem = s.mem := by simp [resumeAt]

@[simp] theorem raiseTrap_mem (s : State) (cause : BitVec 8) (tval : Word) : (s.raiseTrap cause tval).mem = s.mem :=
  raiseTrapAt_mem ..

@[simp] theorem raiseOpen_mem (s : State) (cause : BitVec 8) : (s.raiseOpen cause).mem = s.mem := raiseTrap_mem ..


/-- The checks of a memory instruction leave physical memory where what follows does. -/
theorem checked_mem (s : State) (use : MemUse) (sp : Space) (a : Reg) (disp : BitVec 24) (n : Nat) (data : Bool)
    (k : Nat → State → State) (h : ∀ ad u, (k ad u).mem = u.mem) : (s.checked use sp a disp n data k).mem = s.mem := by
  unfold checked; dsimp only
  repeat' split
  all_goals first
    | exact raiseTrap_mem ..
    | exact h _ _
    | (rw [raiseTrap_mem]; exact (checkGlobal_frame ‹_›).2.1)
    | (rw [h]; exact (checkGlobal_frame ‹_›).2.1)

/-- What takes a line or a range of lines from their owners leaves physical memory (R159). -/
@[simp] theorem takeLine_mem (s : State) (by_ : Option Nat) (pa : Nat) : (s.takeLine by_ pa).mem = s.mem := by
  exact foldl_mem _ (fun _ _ => by split <;> rfl) _ _

@[simp] theorem takeRange_mem (s : State) (by_ : Option Nat) (pa n : Nat) : (s.takeRange by_ pa n).mem = s.mem :=
  foldl_mem _ (fun _ _ => takeLine_mem ..) _ _

@[simp] theorem queueTable_mem (s : State) : s.queueTable.mem = s.mem := rfl

/-- A thread that waits for a table stands in ISSUED and arrives now. -/
@[simp] theorem me_queueTable (s : State) :
    s.queueTable.me = { s.me with stat := .issued, wait := .stall .table, age := s.clock } := by
  simp [queueTable]

/-- What a thread and another agent meet, where no access is guarded for either. -/
theorem meetAs_of_none {s : State} {a : Agent} {p : Access → Bool} (h : s.guardedFrom a p = none)
    (h' : s.guardedFrom (.thread s.core s.ctx) p = none) : s.meetAs a p = s := by
  unfold meetAs; rw [reveal_of_none h, reveal_of_none h']

/-! ## The invariant -/

/-- An operation that leaves physical memory keeps the invariant. -/
theorem Inv_of_mem {s t : State} (e : t.mem = s.mem) (h : Inv s) : Inv t := by unfold Inv at *; rw [e]; exact h

/-- Zeroing a range, and filling one with free values, keep the invariant. -/
theorem Inv_zeroPhys {s : State} (base size : Nat) (h : Inv s) : Inv (s.zeroPhys base size) := by
  have h : (s.takeRange none base size).mem.wf = true := by rw [takeRange_mem]; exact h
  simp only [Memory.wf, Bool.and_eq_true] at h
  unfold Inv zeroPhys; simp only [Memory.wf, Bool.and_eq_true]
  exact ⟨SMap.wf_filter _ _ h.1, SMap.wf_filter _ _ h.2⟩

theorem Inv_scribble {s : State} (base size : Nat) (h : Inv s) : Inv (s.scribble base size) :=
  Memory.wf_writeBytes _ _ _ (Inv_zeroPhys base size h)

/-- Replacing a memory by one in canonical form keeps the invariant. -/
theorem Inv_setLocalMem {s : State} (sp : Space) (p : Nat) {m : Memory} (h : Inv s) (hm : m.wf = true) :
    Inv (s.setLocalMem sp p m) := by
  unfold Inv; rw [setLocalMem_mem]; split
  · exact hm
  · exact h

/-- A fold of operations that keep the invariant keeps it. -/
theorem Inv_foldl {α : Type} (f : State → α → State) (h : ∀ s a, Inv s → Inv (f s a)) (l : List α) (s : State) (i : Inv s) :
    Inv (l.foldl f s) := by
  induction l generalizing s with
  | nil => exact i
  | cons a r ih => exact ih _ (h s a i)

end State

end Sys2Proof.Machine
end

