-- ==== Sys2Proof/Tests/Slice0.lean ====
section
/-! SUPPORT. The model's own tests: terms that WellFormed refuses, words of the spec that the decoder reads, single steps with results
worked out in the spec or by hand, and, for every statement with hypotheses, states that meet them. -/

set_option linter.constructorNameAsVariable false
set_option linter.unusedVariables false
set_option Elab.async false

namespace Sys2Proof.Tests

open Sys2Proof.Machine

/-! ## Terms that WellFormed refuses, one for each check -/

theorem test_wf_context : (Instr.trapDelivery 16384 0).wellFormed = false ∧ (Instr.trapDelivery 0 64).wellFormed = false ∧
    (Instr.trapDelivery 16383 63).wellFormed = true := by decide
theorem test_wf_register_fill : (Instr.registerFill 0 0 54).wellFormed = false ∧ (Instr.registerFill 0 0 53).wellFormed = true := by decide
theorem test_wf_table : (Instr.tableRefreshEnd 0 8).wellFormed = false ∧ (Instr.tableRefreshEnd 0 7).wellFormed = true := by decide
theorem test_wf_core : (Instr.vectorComplete 16384).wellFormed = false ∧ (Instr.cancelArrival 16384).wellFormed = false := by decide
theorem test_wf_span : (Instr.spanReport 256).wellFormed = false ∧ (Instr.streamerRequestStart 255).wellFormed = true := by decide
theorem test_wf_port : (Instr.signalLoss 24).wellFormed = false ∧ (Instr.signalLoss 23).wellFormed = true := by decide
theorem test_wf_flit_length : (Instr.flitReceive 0 (List.replicate 63 0)).wellFormed = false ∧
    (Instr.flitReceive 0 (List.replicate 64 0)).wellFormed = true := by decide
theorem test_wf_counter_post : (Instr.counterPost (.outside 16 0 0 1)).wellFormed = false ∧
    (Instr.counterPost (.outside 15 16383 255 1)).wellFormed = true ∧ (Instr.counterPost (.outside 0 16384 0 1)).wellFormed = false ∧
    (Instr.counterPost (.outside 0 0 256 1)).wellFormed = false := by decide
theorem test_wf_queue : (Instr.qprodWrite 64 0).wellFormed = false ∧ (Instr.recordFetch 63).wellFormed = true := by decide
theorem test_wf_swr_read_only : (Instr.swr .clock 0).wellFormed = false ∧ (Instr.swr .rmode 0).wellFormed = true := by decide
theorem test_wf_gdead : (Instr.gdead true 0x400000).wellFormed = false ∧ (Instr.gdead true 0x3FFFFF).wellFormed = true ∧
    (Instr.gdead false 0x400000).wellFormed = true := by decide
theorem test_wf_fcvt_sat : (Instr.fcvt 10 10 .mode .f32 .bf16 true).wellFormed = false ∧
    (Instr.fcvt 10 10 .mode .f32 .e4m3 true).wellFormed = true := by decide
theorem test_wf_load_sign : (Instr.ld 10 10 .sp .b64 0 true).wellFormed = false ∧
    (Instr.lda 10 10 .sp .b64 0 .gang true).wellFormed = false ∧ (Instr.ld 10 10 .sp .b32 0 true).wellFormed = true := by decide
theorem test_wf_store_hint : (Instr.st 10 10 .sp .b64 0 .nt).wellFormed = false ∧
    (Instr.st 10 10 .gl .b64 0 .nt).wellFormed = true := by decide
theorem test_wf_atomic_size : (Instr.amo .add 10 10 10 .sp .b16 0 .gang).wellFormed = false ∧
    (Instr.amocas 10 10 10 .sp .b8 0 .gang).wellFormed = false ∧ (Instr.amocas 10 10 10 .sp .b32 0 .gang).wellFormed = true := by decide
theorem test_wf_fence_set : (Instr.fence .gang 0).wellFormed = false ∧ (Instr.fence .gang 8).wellFormed = true := by decide
theorem test_wf_vcmp : (Instr.vcmp 10 .lt 0 1 2 10 4 0).wellFormed = false ∧ (Instr.vcmp 10 .lt 0 1 0 10 4 0).wellFormed = true := by decide
theorem test_wf_mfmt : (Instr.mfmt 0 7 10).wellFormed = false ∧ (Instr.mfmt 0 0 10).wellFormed = true := by decide
theorem test_wf_aepi : (Instr.aepi .f32 true true 0 0 10 0).wellFormed = false ∧
    (Instr.aepi .e4m3 true false 0 0 10 0).wellFormed = false ∧ (Instr.aepi .e4m3 true false 0 0 0 0).wellFormed = true := by decide
theorem test_wf_ardk : (Instr.ardk 10 10 .stat).wellFormed = false ∧ (Instr.ardk 10 0 .stat).wellFormed = true := by decide
theorem test_wf_post_operand : (Instr.tlbinvPage 10 10 false).wellFormed = false ∧ (Instr.tlbinvAll 10 10 false).wellFormed = false ∧
    (Instr.tlbinvCode 10 10 false).wellFormed = false ∧ (Instr.ctxsaveGang 10 10 10 false).wellFormed = false ∧
    (Instr.ctxloadGang 10 10 10 false).wellFormed = false ∧ (Instr.ctxloadGang 10 10 10 true).wellFormed = true := by decide
theorem test_wf_pgmap_level : (Instr.pgmap 10 10 10 0 false).wellFormed = false ∧ (Instr.pgmap 10 10 10 5 false).wellFormed = false ∧
    (Instr.pgmap 10 10 10 4 false).wellFormed = true := by decide

/-! ## Words that the spec writes out (spec/03 to spec/24) -/

/-- A register gN by its operand code. -/
abbrev g (n : Nat) : Reg := Reg.g n

/-- An instruction word put together from its fields as R46 places them. -/
def asm (op d a b f imm : Nat) : Word := BitVec.ofNat 64 (op * 2 ^ 56 + d * 2 ^ 50 + a * 2 ^ 44 + b * 2 ^ 38 + f * 2 ^ 32 + imm)

theorem test_word_stop_ex : decode 0x0200000000000000#64 = .ok (.stop) := rfl
theorem test_word_next : decode 0x0100F00200000000#64 = .ok (.next 2 (g 5)) := rfl
theorem test_word_tbw_act : decode 0x1000D00100000080#64 = .ok (.tbw 1 (.imm 0) .act (g 3)) := rfl
theorem test_word_tbw_key : decode 0x1000C00000000000#64 = .ok (.tbw 0 (.imm 0) .key (g 2)) := rfl
theorem test_word_tbw_act1 : decode 0x1000E00000000081#64 = .ok (.tbw 0 (.imm 1) .act (g 4)) := rfl
theorem test_word_tbcommit : decode 0x123C000000000000#64 = .ok (.tbcommit (g 5) 0) := rfl
theorem test_word_add : decode 0x202CA28000000000#64 = .ok (.add (g 1) (g 0) (g 0)) := rfl
theorem test_word_addi : decode 0x212CB00000000001#64 = .ok (.addi (g 1) (g 1) 1) := rfl
theorem test_word_li : decode 0x462C0000DB710641#64 = .ok (.li (g 1) 0xDB710641) := rfl
theorem test_word_lih : decode 0x472CB00000000001#64 = .ok (.lih (g 1) (g 1) 1) := rfl
theorem test_word_cmpi : decode 0x4A00C013FFFFFFFB#64 = .ok (.cmpi .lt 3 (g 2) 0xFFFFFFFB) := rfl
theorem test_word_cset : decode 0x4E00D000FFFFFFF8#64 = .ok (.cset 0 (g 3) 0xFFFFFFF8) := rfl
theorem test_word_extr : decode 0x4265800000000800#64 = .ok (.extr (g 15) (g 14) false 0 32) := rfl
theorem test_word_extr2 : decode 0x42CAF00000000608#64 = .ok (.extr (g 40) (g 37) false 8 24) := rfl
theorem test_word_clmul : decode 0x4465978000000000#64 = .ok (.clmul (g 15) (g 15) (g 20)) := rfl
theorem test_word_ld : decode 0x603CC01100FFFFE8#64 = .ok (.ld (g 5) (g 2) .sp .b32 0xFFFFE8 false) := rfl
theorem test_word_ldsp : decode 0x605D601900000000#64 = .ok (.ld (g 13) (g 12) .sp .b64 0 false) := rfl
theorem test_word_stl : decode 0x6300E4D805000008#64 = .ok (.stl (g 4) (g 9) .gl .b64 8 .sys) := rfl
theorem test_word_lda : decode 0x6231201805000000#64 = .ok (.lda (g 2) (g 8) .gl .b64 0 .sys false) := rfl
theorem test_word_st : decode 0x6100D45008000004#64 = .ok (.st (g 3) (g 7) .gl .b32 4 .nt) := rfl
theorem test_word_take : decode 0x6435001900000010#64 = .ok (.take (g 3) (g 6) .sp 16) := rfl
theorem test_word_fill : decode 0x6501039900000010#64 = .ok (.fill (g 6) (g 4) .sp 16) := rfl
theorem test_word_trytake : decode 0x6635001910000000#64 = .ok (.trytake 2 (g 3) (g 6) .sp 0) := rfl
theorem test_word_amo : decode 0x6744C4D004000008#64 = .ok (.amo .add (g 7) (g 2) (g 9) .gl .b32 8 .dev) := rfl
theorem test_word_amocas : decode 0x683CE41803000000#64 = .ok (.amocas (g 5) (g 4) (g 6) .gl .b64 0 .gang) := rfl
theorem test_word_fence : decode 0x6900000043000000#64 = .ok (.fence .gang 8) := rfl
theorem test_word_pref : decode 0x6A00C00008000080#64 = .ok (.pref (g 2) 128 true) := rfl
theorem test_word_ring : decode 0x7000C00000000001#64 = .ok (.ring 1 (g 2)) := rfl
theorem test_word_radv : decode 0x7100000000020001#64 = .ok (.radv 1 2 0) := rfl
theorem test_word_rrel : decode 0x7200000000020001#64 = .ok (.rrel 1 2 0) := rfl
theorem test_word_vadd : decode 0x7400000000400102#64 = .ok (.vadd 2 0 1 64 0 .mode) := rfl
theorem test_word_vredsum : decode 0x7F38000000400010#64 = .ok (.vredsum (g 4) 1 64 0 .mode) := rfl
theorem test_word_vscat : decode 0x8401A61000000760#64 = .ok (.vscat true 6 7 (g 16) false 0 (g 14) .mode) := rfl
theorem test_word_vbits : decode 0x850195D000000103#64 = .ok (.vbits .mul 3 0 1 (g 15) 0 (g 13) .mode) := rfl
theorem test_word_vfillc : decode 0x8601000800400005#64 = .ok (.vfillc true 5 (g 6) 64 0 .mode) := rfl
theorem test_word_viota : decode 0x8700A2C000400001#64 = .ok (.viota 1 (g 0) (g 1) 64 .mode) := rfl
theorem test_word_mfmt : decode 0x9000C03B00000000#64 = .ok (.mfmt 3 7 (g 2)) := rfl
theorem test_word_bload : decode 0x9100D00000040000#64 = .ok (.bload true (g 3)) := rfl
theorem test_word_brot : decode 0x9200000000000000#64 = .ok (.brot false) := rfl
theorem test_word_mma : decode 0x9300000000490005#64 = .ok (.mma 1 false 9 5) := rfl
theorem test_word_mma_b1 : decode 0x9300000000050000#64 = .ok (.mma 1 true 0 0) := rfl
theorem test_word_azero : decode 0x960000000003000C#64 = .ok (.azero 3 12) := rfl
theorem test_word_awaitv : decode 0x9C00000000000002#64 = .ok (.awaitv 0 2) := rfl
theorem test_word_aepi : decode 0x9800040901400003#64 = .ok (.aepi .bf16 false true 0 40 (g 6) 3) := rfl
theorem test_word_acsel_init : decode 0x9A00C00000000000#64 = .ok (.acselInit (g 2)) := rfl
theorem test_word_acsel_acc : decode 0x9A00C00100010007#64 = .ok (.acselAcc 1 (g 2) 0 7) := rfl
theorem test_word_ardk : decode 0x9B51200100000000#64 = .ok (.ardk (g 10) (g 8) .csel) := rfl
theorem test_word_xcopy : decode 0xA038C00100000017#64 = .ok (.xcopy (g 4) (g 2) 1 0x17) := rfl
theorem test_word_xsela : decode 0xA349364900000004#64 = .ok (.xsela (g 8) (g 9) (g 15) true 1 4) := rfl
theorem test_word_msend : decode 0xA53D044000000040#64 = .ok (.msend (g 5) (g 6) (g 7) 0x40) := rfl
theorem test_word_mwait : decode 0xA64D500000000000#64 = .ok (.mwait (g 9) (g 11)) := rfl
theorem test_word_mrecv : decode 0xA73903C000000000#64 = .ok (.mrecv (g 4) (g 5) (g 6)) := rfl
theorem test_word_cpost : decode 0xA800D00000010000#64 = .ok (.cpost (g 3) 0 1) := rfl
theorem test_word_cwait : decode 0xA948C4C800000000#64 = .ok (.cwait (g 8) (g 2) (g 9) true) := rfl
theorem test_word_xdrain : decode 0xAB30000000000000#64 = .ok (.xdrain (g 2)) := rfl
theorem test_word_evarr : decode 0xB030000000000003#64 = .ok (.evarr (g 2) 3) := rfl
theorem test_word_evwait : decode 0xB134030000000003#64 = .ok (.evwait (g 3) (g 2) 3 false) := rfl
theorem test_word_evtwait : decode 0xB234E30000000003#64 = .ok (.evtwait (g 3) (g 4) (g 2) 3 false) := rfl
theorem test_word_mtxlock : decode 0xB33C000000000002#64 = .ok (.mtxlock (g 5) 2) := rfl
theorem test_word_mtxrel : decode 0xB400000000000002#64 = .ok (.mtxrel 2) := rfl
theorem test_word_evsig_sig : decode 0xB540000000000005#64 = .ok (.evsigSig (g 6) 5) := rfl
theorem test_word_evsig_cfg : decode 0xB501148100000001#64 = .ok (.evsigCfg (g 7) (g 8) 1) := rfl
theorem test_word_gbar : decode 0xB630000000000000#64 = .ok (.gbar (g 2)) := rfl
theorem test_word_sstep : decode 0xB730000100000000#64 = .ok (.sstep (g 2) true) := rfl
theorem test_word_launch : decode 0xC038C00000000000#64 = .ok (.launch (g 4) (g 2) false) := rfl
theorem test_word_ltrig : decode 0xC100000000000000#64 = .ok (.ltrig) := rfl
theorem test_word_gballot : decode 0xC238C00100000000#64 = .ok (.gballot (g 4) (g 2) true) := rfl
theorem test_word_gcancel : decode 0xC33CD00000000000#64 = .ok (.gcancel (g 5) (g 3)) := rfl
theorem test_word_gstat : decode 0xC440C00300000000#64 = .ok (.gstat (g 6) (g 2) 3) := rfl
theorem test_word_draw : decode 0xC544C34000000000#64 = .ok (.draw (g 7) (g 2) (g 3) false) := rfl
theorem test_word_pgref : decode 0xC634C00000000000#64 = .ok (.pgref (g 3) (g 2)) := rfl
theorem test_word_pgrel : decode 0xC734C00000000000#64 = .ok (.pgrel (g 3) (g 2)) := rfl
theorem test_word_tlbinv_page : decode 0xE000E3C400000000#64 = .ok (.tlbinvPage (g 4) (g 5) true) := rfl
theorem test_word_pgmap : decode 0xE130E3CC00000000#64 = .ok (.pgmap (g 2) (g 4) (g 5) 4 true) := rfl
theorem test_word_ctxsave_gang : decode 0xE230E3C300000000#64 = .ok (.ctxsaveGang (g 2) (g 4) (g 5) true) := rfl
theorem test_word_ctxload_thr : decode 0xE330E00000000000#64 = .ok (.ctxloadThr (g 2) (g 4)) := rfl
theorem test_word_inject_psn : decode 0xE430D00000000000#64 = .ok (.injectPsn (g 2) (g 3)) := rfl
theorem test_word_sret_skip : decode 0xE530E00100000000#64 = .ok (.sretSkip (g 2) (g 4)) := rfl
theorem test_word_locset_set : decode 0xE630D38000000000#64 = .ok (.locsetSet (g 2) (g 3) (g 4)) := rfl
theorem test_word_tenset_set : decode 0xE730D40000000000#64 = .ok (.tensetSet (g 2) (g 3) (g 6)) := rfl

/-! ## Words put together from the encoding tables of the spec -/

theorem test_word_tstart : decode (asm 0x03 11 12 0 0 0x40000) = .ok (.tstart (g 1) (g 2) 0x40000) := rfl
theorem test_word_tyield : decode (asm 0x04 0 0 0 0 0x0) = .ok (.tyield) := rfl
theorem test_word_trap : decode (asm 0x05 0 0 0 0 0x1234) = .ok (.trap 0x1234) := rfl
theorem test_word_brk : decode (asm 0x06 0 0 0 0 0x7) = .ok (.brk 7) := rfl
theorem test_word_tret : decode (asm 0x07 0 0 0 1 0x0) = .ok (.tret true) := rfl
theorem test_word_gdead : decode (asm 0x0A 0 0 0 1 0x3FFFFF) = .ok (.gdead true 0x3FFFFF) := rfl
theorem test_word_nop : decode (asm 0x0B 0 0 0 0 0x0) = .ok (.nop) := rfl
theorem test_word_tbr : decode (asm 0x11 11 0 0 2 0x45) = .ok (.tbr (g 1) 2 (.imm 5) .mask) := rfl
theorem test_word_tbclr : decode (asm 0x13 0 0 0 3 0x0) = .ok (.tbclr 3) := rfl
theorem test_word_tblook : decode (asm 0x14 11 12 0 1 0x0) = .ok (.tblook (g 1) 1 (g 2)) := rfl
theorem test_word_tbgen : decode (asm 0x15 11 0 0 7 0x0) = .ok (.tbgen (g 1) 7) := rfl
theorem test_word_sub : decode (asm 0x22 11 12 13 0 0x0) = .ok (.sub (g 1) (g 2) (g 3)) := rfl
theorem test_word_mul : decode (asm 0x23 11 12 13 0 0x0) = .ok (.mul (g 1) (g 2) (g 3)) := rfl
theorem test_word_mulh : decode (asm 0x24 11 12 13 0 0x0) = .ok (.mulh (g 1) (g 2) (g 3)) := rfl
theorem test_word_mulhu : decode (asm 0x25 11 12 13 0 0x0) = .ok (.mulhu (g 1) (g 2) (g 3)) := rfl
theorem test_word_div : decode (asm 0x26 11 12 13 0 0x0) = .ok (.div (g 1) (g 2) (g 3)) := rfl
theorem test_word_divu : decode (asm 0x27 11 12 13 0 0x0) = .ok (.divu (g 1) (g 2) (g 3)) := rfl
theorem test_word_rem : decode (asm 0x28 11 12 13 0 0x0) = .ok (.rem (g 1) (g 2) (g 3)) := rfl
theorem test_word_remu : decode (asm 0x29 11 12 13 0 0x0) = .ok (.remu (g 1) (g 2) (g 3)) := rfl
theorem test_word_and : decode (asm 0x2A 11 12 13 0 0x0) = .ok (.and (g 1) (g 2) (g 3)) := rfl
theorem test_word_or : decode (asm 0x2C 11 12 13 0 0x0) = .ok (.or (g 1) (g 2) (g 3)) := rfl
theorem test_word_xor : decode (asm 0x2E 11 12 13 0 0x0) = .ok (.xor (g 1) (g 2) (g 3)) := rfl
theorem test_word_shl : decode (asm 0x30 11 12 13 0 0x0) = .ok (.shl (g 1) (g 2) (g 3)) := rfl
theorem test_word_shr : decode (asm 0x32 11 12 13 0 0x0) = .ok (.shr (g 1) (g 2) (g 3)) := rfl
theorem test_word_sar : decode (asm 0x34 11 12 13 0 0x0) = .ok (.sar (g 1) (g 2) (g 3)) := rfl
theorem test_word_rol : decode (asm 0x36 11 12 13 0 0x0) = .ok (.rol (g 1) (g 2) (g 3)) := rfl
theorem test_word_min : decode (asm 0x38 11 12 13 0 0x0) = .ok (.min (g 1) (g 2) (g 3)) := rfl
theorem test_word_minu : decode (asm 0x39 11 12 13 0 0x0) = .ok (.minu (g 1) (g 2) (g 3)) := rfl
theorem test_word_max : decode (asm 0x3A 11 12 13 0 0x0) = .ok (.max (g 1) (g 2) (g 3)) := rfl
theorem test_word_maxu : decode (asm 0x3B 11 12 13 0 0x0) = .ok (.maxu (g 1) (g 2) (g 3)) := rfl
theorem test_word_clmulh : decode (asm 0x45 11 12 13 0 0x0) = .ok (.clmulh (g 1) (g 2) (g 3)) := rfl
theorem test_word_fmin : decode (asm 0x55 11 12 13 0 0x0) = .ok (.fmin (g 1) (g 2) (g 3)) := rfl
theorem test_word_fmax : decode (asm 0x56 11 12 13 0 0x0) = .ok (.fmax (g 1) (g 2) (g 3)) := rfl
theorem test_word_andi : decode (asm 0x2B 11 12 0 0 0xFFFFFFFE) = .ok (.andi (g 1) (g 2) 0xFFFFFFFE) := rfl
theorem test_word_ori : decode (asm 0x2D 11 12 0 0 0xFFFFFFFE) = .ok (.ori (g 1) (g 2) 0xFFFFFFFE) := rfl
theorem test_word_xori : decode (asm 0x2F 11 12 0 0 0xFFFFFFFE) = .ok (.xori (g 1) (g 2) 0xFFFFFFFE) := rfl
theorem test_word_shli : decode (asm 0x31 11 12 0 0 0x3F) = .ok (.shli (g 1) (g 2) 63) := rfl
theorem test_word_shri : decode (asm 0x33 11 12 0 0 0x3F) = .ok (.shri (g 1) (g 2) 63) := rfl
theorem test_word_sari : decode (asm 0x35 11 12 0 0 0x3F) = .ok (.sari (g 1) (g 2) 63) := rfl
theorem test_word_roli : decode (asm 0x37 11 12 0 0 0x3F) = .ok (.roli (g 1) (g 2) 63) := rfl
theorem test_word_abs : decode (asm 0x3C 11 12 0 0 0x0) = .ok (.abs (g 1) (g 2)) := rfl
theorem test_word_clz : decode (asm 0x3D 11 12 0 0 0x0) = .ok (.clz (g 1) (g 2)) := rfl
theorem test_word_ctz : decode (asm 0x3E 11 12 0 0 0x0) = .ok (.ctz (g 1) (g 2)) := rfl
theorem test_word_popc : decode (asm 0x3F 11 12 0 0 0x0) = .ok (.popc (g 1) (g 2)) := rfl
theorem test_word_brev : decode (asm 0x40 11 12 0 0 0x0) = .ok (.brev (g 1) (g 2)) := rfl
theorem test_word_bswap : decode (asm 0x41 11 12 0 0 0x0) = .ok (.bswap (g 1) (g 2)) := rfl
theorem test_word_fclass : decode (asm 0x59 11 12 0 0 0x0) = .ok (.fclass (g 1) (g 2)) := rfl
theorem test_word_fexp2 : decode (asm 0x5A 11 12 0 0 0x0) = .ok (.fexp2 (g 1) (g 2)) := rfl
theorem test_word_flog2 : decode (asm 0x5B 11 12 0 0 0x0) = .ok (.flog2 (g 1) (g 2)) := rfl
theorem test_word_frcp : decode (asm 0x5C 11 12 0 0 0x0) = .ok (.frcp (g 1) (g 2)) := rfl
theorem test_word_frsq : decode (asm 0x5D 11 12 0 0 0x0) = .ok (.frsq (g 1) (g 2)) := rfl
theorem test_word_insr : decode (asm 0x43 11 12 13 0 0x210) = .ok (.insr (g 1) (g 2) (g 3) 16 8) := rfl
theorem test_word_lea : decode (asm 0x48 11 12 13 3 0x100) = .ok (.lea (g 1) (g 2) (g 3) 3 256) := rfl
theorem test_word_cmp : decode (asm 0x49 0 12 13 34 0x0) = .ok (.cmp .ltu 2 (g 2) (g 3)) := rfl
theorem test_word_sel : decode (asm 0x4B 11 12 13 5 0x0) = .ok (.sel (g 1) (g 2) (g 3) 5) := rfl
theorem test_word_plog : decode (asm 0x4C 0 0 0 0 0x10D1) = .ok (.plog 1 2 3 8) := rfl
theorem test_word_pmov_get : decode (asm 0x4D 11 0 0 0 0x0) = .ok (.pmovGet (g 1)) := rfl
theorem test_word_pmov_set : decode (asm 0x4D 0 12 0 0 0xA501) = .ok (.pmovSet (g 2) 0xA5) := rfl
theorem test_word_crd : decode (asm 0x4F 11 0 0 3 0x0) = .ok (.crd (g 1) 3) := rfl
theorem test_word_cadd : decode (asm 0x50 11 0 0 1 0xFFFFFFFF) = .ok (.cadd (g 1) 1 0xFFFFFFFF) := rfl
theorem test_word_fadd : decode (asm 0x51 11 12 13 6 0x0) = .ok (.fadd (g 1) (g 2) (g 3) .rup) := rfl
theorem test_word_fsub : decode (asm 0x52 11 12 13 6 0x0) = .ok (.fsub (g 1) (g 2) (g 3) .rup) := rfl
theorem test_word_fmul : decode (asm 0x53 11 12 13 6 0x0) = .ok (.fmul (g 1) (g 2) (g 3) .rup) := rfl
theorem test_word_ffma : decode (asm 0x54 11 12 13 6 0x0) = .ok (.ffma (g 1) (g 2) (g 3) .rup) := rfl
theorem test_word_fscale : decode (asm 0x5E 11 12 13 6 0x0) = .ok (.fscale (g 1) (g 2) (g 3) .rup) := rfl
theorem test_word_fcmp : decode (asm 0x57 0 12 13 25 0x0) = .ok (.fcmp .le 1 (g 2) (g 3)) := rfl
theorem test_word_rstat : decode (asm 0x73 11 0 0 8 0x3) = .ok (.rstat (g 1) 3 true) := rfl
theorem test_word_vsub : decode (asm 0x75 0 0 13 7 0x90321) = .ok (.vsub 1 2 3 9 (g 3) .rdn) := rfl
theorem test_word_vmul : decode (asm 0x76 0 0 13 7 0x90321) = .ok (.vmul 1 2 3 9 (g 3) .rdn) := rfl
theorem test_word_vmax : decode (asm 0x78 0 0 13 7 0x90321) = .ok (.vmax 1 2 3 9 (g 3) .rdn) := rfl
theorem test_word_vmin : decode (asm 0x79 0 0 13 7 0x90321) = .ok (.vmin 1 2 3 9 (g 3) .rdn) := rfl
theorem test_word_vfma : decode (asm 0x77 0 0 0 4 0x94321) = .ok (.vfma 1 2 3 4 9 0 .rne) := rfl
theorem test_word_vexp2 : decode (asm 0x7A 0 0 13 5 0x90021) = .ok (.vexp2 1 2 9 (g 3) .rz) := rfl
theorem test_word_vrcp : decode (asm 0x7B 0 0 13 5 0x90021) = .ok (.vrcp 1 2 9 (g 3) .rz) := rfl
theorem test_word_vrsq : decode (asm 0x7C 0 0 13 5 0x90021) = .ok (.vrsq 1 2 9 (g 3) .rz) := rfl
theorem test_word_vcvt : decode (asm 0x7D 0 0 13 5 0x90021) = .ok (.vcvt 1 2 9 (g 3) .rz) := rfl
theorem test_word_vscale : decode (asm 0x7E 0 0 13 5 0x90021) = .ok (.vscale 1 2 9 (g 3) .rz) := rfl
theorem test_word_vredmax : decode (asm 0x80 11 0 13 0 0x90020) = .ok (.vredmax (g 1) 2 9 (g 3)) := rfl
theorem test_word_vcmp : decode (asm 0x81 11 12 0 16 0x90021) = .ok (.vcmp (g 1) .lt 1 2 0 (g 2) 9 0) := rfl
theorem test_word_vsel : decode (asm 0x82 0 0 0 0 0x94321) = .ok (.vsel 1 2 3 4 9 0 .mode) := rfl
theorem test_word_vgath : decode (asm 0x83 0 12 0 8 0x90021) = .ok (.vgath 1 2 (g 2) true 9 0) := rfl
theorem test_word_mmas : decode (asm 0x94 0 12 0 0 0x4D0005) = .ok (.mmas 1 true 9 (g 2) 5) := rfl
theorem test_word_mma2 : decode (asm 0x95 11 0 0 0 0x4A0005) = .ok (.mma2 (g 1) 2 false 9 5) := rfl
theorem test_word_aver : decode (asm 0x97 11 0 0 0 0x30000) = .ok (.aver (g 1) 3) := rfl
theorem test_word_atopk_init : decode (asm 0x99 0 12 0 0 0x0) = .ok (.atopkInit (g 2)) := rfl
theorem test_word_atopk_acc : decode (asm 0x99 0 12 13 1 0x10007) = .ok (.atopkAcc 1 (g 2) (g 3) 7) := rfl
theorem test_word_ardk_clr : decode (asm 0x9B 11 12 0 3 0x0) = .ok (.ardkClr (g 1) (g 2)) := rfl
theorem test_word_xconv : decode (asm 0xA1 11 12 0 2 0x9) = .ok (.xconv (g 1) (g 2) 2 9) := rfl
theorem test_word_xscript : decode (asm 0xA2 11 12 0 3 0x9) = .ok (.xscript (g 1) (g 2) 3 9) := rfl
theorem test_word_xrem_put : decode (asm 0xA4 11 12 0 0 0x9) = .ok (.xremPut (g 1) (g 2) 0 9) := rfl
theorem test_word_xrem_addmx : decode (asm 0xA4 11 12 0 9 0x9) = .ok (.xremAddmx (g 1) (g 2) 1 9) := rfl
theorem test_word_crdc : decode (asm 0xAA 11 12 13 0 0x0) = .ok (.crdc (g 1) (g 2) (g 3)) := rfl
theorem test_word_tlbinv_all : decode (asm 0xE0 0 12 0 1 0x0) = .ok (.tlbinvAll (g 2) 0 false) := rfl
theorem test_word_tlbinv_code : decode (asm 0xE0 0 12 13 6 0x0) = .ok (.tlbinvCode (g 2) (g 3) true) := rfl
theorem test_word_ctxsave_thr : decode (asm 0xE2 11 12 0 0 0x0) = .ok (.ctxsaveThr (g 1) (g 2)) := rfl
theorem test_word_ctxload_gang : decode (asm 0xE3 11 12 0 1 0x0) = .ok (.ctxloadGang (g 1) (g 2) 0 false) := rfl
theorem test_word_inject_clr : decode (asm 0xE4 11 12 0 1 0x0) = .ok (.injectClr (g 1) (g 2)) := rfl
theorem test_word_inject_sig : decode (asm 0xE4 11 12 0 2 0x0) = .ok (.injectSig (g 1) (g 2)) := rfl
theorem test_word_inject_tclr : decode (asm 0xE4 11 12 0 3 0x0) = .ok (.injectTclr (g 1) (g 2)) := rfl
theorem test_word_inject_halt : decode (asm 0xE4 11 12 0 4 0x0) = .ok (.injectHalt (g 1) (g 2)) := rfl
theorem test_word_sret_res : decode (asm 0xE5 11 12 0 0 0x0) = .ok (.sretRes (g 1) (g 2)) := rfl
theorem test_word_sret_user : decode (asm 0xE5 11 12 0 2 0x0) = .ok (.sretUser (g 1) (g 2)) := rfl
theorem test_word_sret_abort : decode (asm 0xE5 11 12 0 3 0x0) = .ok (.sretAbort (g 1) (g 2)) := rfl
theorem test_word_sret_abort_gang : decode (asm 0xE5 11 12 0 7 0x0) = .ok (.sretAbortGang (g 1) (g 2)) := rfl
theorem test_word_locset_inv : decode (asm 0xE6 11 12 0 1 0x0) = .ok (.locsetInv (g 1) (g 2)) := rfl
theorem test_word_tenset_clr : decode (asm 0xE7 11 12 0 1 0x0) = .ok (.tensetClr (g 1) (g 2)) := rfl
theorem test_word_srd : decode (asm 0x08 11 0 0 0 10) = .ok (.srd (g 1) .clock) := rfl
theorem test_word_swr : decode (asm 0x09 0 12 0 0 14) = .ok (.swr .rmode (g 2)) := rfl
theorem test_word_fcvt : decode (asm 0x58 13 12 0 4 0x120) = .ok (.fcvt (g 3) (g 2) .rne .f32 .e4m3 true) := rfl
/-- R59: an unassigned opcode, a reserved code and a set bit of an unused field (the spec's table of words). -/
theorem test_words_refused : decode 0x6D00000000000000#64 = .error .unassigned ∧ (decode 0x603CC01700FFFFE8#64).toOption = none ∧
    (decode 0x202CA28000000001#64).toOption = none ∧ decode 0xFF00000000000000#64 = .error .unassigned := ⟨rfl, rfl, rfl, rfl⟩
/-- The table numbers an instruction's bits as the word does (log 8). -/
theorem test_table_word : decodeTableWord 64 0x202CA28000000000 = some (.add (g 1) (g 0) (g 0)) := rfl

/-! ## Small states -/

/-- A tenant whose sub-mesh is the whole device, with its page tables at 0x100000 and a pool of 1 GiB. -/
def tenant0 : Tenant :=
  { sx := 0, sy := 0, sw := 16, sh := 16, pre := true, dbg := true, root := 0x100000, cpool := 0x40000000, cpmb := 1024, stallt := 0,
    used := [] }

/-- A running gang of one span. -/
def gang0 : Gang :=
  { stat := .running, launch := 0, index := 0, tenant := 0, sx := 0, sy := 0, gw := 1, gh := 1, ctx := 2, start := 1, tbls := 1,
    mxu := true, paired := false, ring := 1, kern := 0x200000, entry := 0x40000, trap := 0, arg := 0x55, cwin := 0, dkey := 0, rm := 0,
    prio := 0, debug := false, step := 0, replay := false, replays := 0, snap := none, rolling := false, rolled := false, stall := 0,
    stallT := 100, live := 0, devq := [], held := [], heldRec := [], refs := [], group := none, sib := 0, cxlLate := false, abortLate := false,
    post := [], image := none, slots := [], recs := (0x40000000, 0x20000), reserve := (0x40020000, 0x400), extra := [], images := [],
    born := 0 }

/-- A thread of that gang that stands at the first word of the block at 0x200000, its instruction issued. -/
def thread0 : Thread :=
  { Thread.free with stat := .issued, owner := .gang 0, pcBlk := 0x40000, hdr0 := 0x0080000000000001#64, hdr1 := 0xF7B98FE1FFFF0000#64,
                     loaded := true }

/-- Page tables that map 0x200000 to 0x3FFFFF to 0x400000, to be written and executed, and the block of the worked program of spec/02. -/
def mem0 : Memory :=
  ((((((Memory.empty.write 0x100000 8 0x101001).write 0x101000 8 0x102001).write 0x102008 8 0x40000E).write 0x400000 8
    0x0080000000000001).write 0x400008 8 0xF7B98FE1FFFF0000).write 0x400010 8 0x202CA28000000000).write 0x400018 8 0x0200000000000000

/-- The device in READY with that gang on span 0 and the thread running in context 0 of core 0; context 1 is free for the team. -/
def st : State :=
  { State.reset with
    mgmt := { Mgmt.reset with phase := .ready }, ctx := 0, mem := mem0,
    cores := [(0, { Core.idle with threads := [(0, thread0), (1, { Thread.free with owner := .gang 0 })],
                                   tables := [(0, { Table.free with owner := .gang 0 })] })],
    spans := [(0, { Span.idle with gang := some 0, tenant := some 0 })], tenants := [(0, tenant0)], gangs := [(0, gang0)],
    launches := [⟨0, [], 0, 0, [0], [], false, false⟩] }

/-- With registers. -/
def withRegs (l : List (Nat × Val)) : State := st.modMe (fun t => { t with regs := l })

/-- With the gang changed. -/
def withGang (f : Gang → Gang) : State := st.modGang 0 f

/-- With core 0 changed. -/
def withCore (f : Core → Core) : State := st.modCore 0 f

/-- With span 0 changed. -/
def withSpan (f : Span → Span) : State := st.modSpan 0 f

/-- With the running thread changed. -/
def withMe (f : Thread → Thread) : State := st.modMe f

/-- Registers g0, g1, g2 with values, clean. -/
def regs3 (x y z : Word) : State := withRegs [(10, ⟨x, false⟩), (11, ⟨y, false⟩), (12, ⟨z, false⟩)]

/-- What a register reads as after an instruction, if it answers a next state. -/
def after (o : Host.Outcome State Fault Refusal) (r : Reg) : Option Val :=
  match o with
  | .next t => some (t.reg r)
  | .fault _ => none
  | .refused _ => none

/-- The running thread after an instruction. -/
def meAfter (o : Host.Outcome State Fault Refusal) : Option Thread :=
  match o with
  | .next t => some t.me
  | .fault _ => none
  | .refused _ => none

/-! ## Single steps, with results of the spec or worked out by hand -/

/-- R319, the worked program of spec/02: the hash of ADD and STOP. -/
theorem test_signature : foldHash (foldHash hashStart 0x202CA28000000000#64) 0x0200000000000000#64 = 0xF7B98FE1#32 := by decide

/-- R123, the table of spec/07. -/
theorem test_div : divS (-7) 2 = -3 ∧ (-7 : Word) / 2 = 0x7FFFFFFFFFFFFFFC#64 ∧ remS (-7) 2 = -1 ∧ divS 5 0 = -1 ∧
    divS 0x8000000000000000#64 (-1) = 0x8000000000000000#64 ∧ remS 0x8000000000000000#64 (-1) = 0 := by decide

/-- R121: a sum wraps and q takes it; the destination is a source. -/
theorem test_add_wraps : after (exec (.add (g 0) (g 0) (g 1)) (regs3 (-1) 3 0)) (g 0) = some ⟨2, false⟩ ∧
    after (exec (.add (g 0) (g 0) (g 1)) (regs3 (-1) 3 0)) Reg.q = some ⟨2, false⟩ := by decide
theorem test_sub_order : after (exec (.sub (g 2) (g 0) (g 1)) (regs3 5 7 0)) (g 2) = some ⟨-2, false⟩ := by decide
theorem test_mulh_signed : after (exec (.mulh (g 2) (g 0) (g 1)) (regs3 (-1) 2 0)) (g 2) = some ⟨-1, false⟩ := by decide
theorem test_mulhu_unsigned : after (exec (.mulhu (g 2) (g 0) (g 1)) (regs3 (-1) 2 0)) (g 2) = some ⟨1, false⟩ := by decide
/-- R47: z discards the result and leaves q. -/
theorem test_add_to_z : after (exec (.add Reg.z (g 0) (g 1)) (regs3 1 2 0)) Reg.q = some ⟨0, false⟩ := by decide
/-- R125: a count of 64 shifts by 0. -/
theorem test_shl_count : after (exec (.shl (g 2) (g 0) (g 1)) (regs3 5 64 0)) (g 2) = some ⟨5, false⟩ := by decide
theorem test_sari : after (exec (.sari (g 2) (g 0) 63) (regs3 0x8000000000000000#64 0 0)) (g 2) = some ⟨-1, false⟩ := by decide
/-- R129: 0b101 and 0b11 give 0xF; 2^63 and 2 give CLMULH 1. -/
theorem test_clmul : after (exec (.clmul (g 2) (g 0) (g 1)) (regs3 5 3 0)) (g 2) = some ⟨0xF, false⟩ ∧
    after (exec (.clmulh (g 2) (g 0) (g 1)) (regs3 0x8000000000000000#64 2 0)) (g 2) = some ⟨1, false⟩ := by decide
/-- R130: the pair of the table of spec/07. -/
theorem test_li_lih : after (exec (.li (g 1) 0xDB710641) st) (g 1) = some ⟨0xFFFFFFFFDB710641#64, false⟩ ∧
    after (exec (.lih (g 1) (g 1) 1) (regs3 0 0xFFFFFFFFDB710641#64 0)) (g 1) = some ⟨0x00000001DB710641#64, false⟩ := by decide
/-- R128: the example replaces bits [23:16]. -/
theorem test_insr : after (exec (.insr (g 1) (g 0) (g 1) 16 8) (regs3 0xAB (-1) 0)) (g 1) = some ⟨0xFFFFFFFFFFABFFFF#64, false⟩ := by decide
/-- R116: poison of either operand; R133: SEL takes that of the selected one. -/
theorem test_poison : after (exec (.add (g 2) (g 0) (g 1)) (withRegs [(10, ⟨1, true⟩), (11, ⟨2, false⟩)])) (g 2) = some ⟨3, true⟩ ∧
    after (exec (.sel (g 2) (g 0) (g 1) 0) (withRegs [(10, ⟨1, true⟩), (11, ⟨2, false⟩)])) (g 2) = some ⟨2, false⟩ := by decide
/-- R136: the counter wraps, and z discards the new value. -/
theorem test_cadd : (meAfter (exec (.cadd Reg.z 1 0xFFFFFFFF) st)).map (fun t => (t.c1, t.reg Reg.q)) = some (0xFFFFFFFF, Val.zero) := by decide
/-- 1.5 + 2.25 = 3.75; 1/3 rounds to even; FEXP2 of 1 is 2 exactly. -/
theorem test_fp : (fpAdd .rne 0x3FC00000 0x40100000).1 = 0x40700000 ∧ (fpRcp 0x40400000).1 = 0x3EAAAAAB ∧
    (fpMul .rne 0x3F800000 0x7F800000).1 = 0x7F800000 ∧ (fpAdd .rne 0x7F800000 0xFF800000).1 = 0x7FC00000 := by decide
/-- R105: the lowest of two matching entries; R103: an entry never written matches no key. -/
theorem test_winner : ({ Table.free with active := [(3, ⟨0, 0, 1⟩), (5, ⟨0, 0, 2⟩)] } : Table).winner 7 = some 3 ∧
    Table.free.winner 0 = none := by decide
/-- R10: span 3 of core (x 24, y 0) and back. -/
theorem test_span_numbers : spanOf 24 = 3 ∧ coreOfSpan 3 0 = 24 ∧ spanOf (8 * 128) = 16 := by decide
/-- R335: the walk of the page tables above. -/
theorem test_walk : (st.walk 0 0x200010).map (fun h => (h.addr, h.level)) = some (0x102008, 3) ∧ st.walk 0 0x400000 = none := by decide
/-- R163, R261: a load issued and then performed. -/
theorem test_store_load :
    (match exec (.st (g 0) (g 1) .sp .b32 4 .normal) (regs3 0x100 0xA1B2C3D4 0) with
     | .next t => (match exec (.accessPerformed 0 0 0) t with
       | .next u => ((u.spanAt 0).sp.read 0x104 4, (u.spanAt 0).sp.read 0x100 4)
       | _ => (0, 0))
     | _ => (0, 0)) = (0xA1B2C3D4, 0) := by decide
/-- R244: a free mutex is taken; R242: the last arrival completes the phase. -/
theorem test_mutex : (match exec (.mtxlock (g 2) 3) st with
    | .next t => (t.mutexAt 0 3).owner
    | _ => none) = some (0, 0) := by decide
/-- R314: TRAP of a thread of a gang without a trap block: TRAPPED with cause and code. -/
theorem test_trap : (meAfter (exec (.trap 0x1234) st)).map (fun t => (t.stat, t.cause, t.tval)) =
    some (.trapped, Cause.software, 0x1234) := by decide
/-- R372: the CRC-32 of the nine digits, the check value of the reflected polynomial. -/
theorem test_crc : crc32 [0x31, 0x32, 0x33, 0x34, 0x35, 0x36, 0x37, 0x38, 0x39] = 0xCBF43926#32 := by
  decide +kernel
/-- R386: the digest of the three bytes "abc" (the first example of GB/T 32905). -/
theorem test_sm3 : sm3 [0x61, 0x62, 0x63] = bytesBE 32 0x66c7f0f462eeedd9d1f2d46bdc10e4e24167c4875cf2f7a2297da02b8f4ba8e0 := by
  decide +kernel
/-- R374: a stream of equal words is shortest in MODE 2, and decodes back. -/
theorem test_compress : decompress 4 16 (compress 4 [7, 7]) = ([7, 7], some true) := by decide
/-- R59, R61: step fetches, decodes and runs the placed word: ADDI, and NOP. -/
theorem test_step_runs : (match step (State.reset.withFetchWord 64 0x212CB00000000005) with
    | .next t => (t.thread 0 63).reg (g 1)
    | _ => Val.zero) = ⟨5, false⟩ := by decide
theorem test_step_illegal : (match step (State.reset.withFetchWord 64 0x6D00000000000000) with
    | .next t => ((t.thread 0 63).stat, (t.thread 0 63).cause, (t.thread 0 63).tval)
    | _ => (.free, 0, 0)) = (.trapped, Cause.illegalOp, 0x6D00000000000000#64) := by decide
/-- R87, R88: an instruction that has retired leaves its thread in ISSUED; its next word is fetched there, and then it is READY with it. -/
theorem test_fetch_next : (match step (State.reset.withFetchWord 64 0x212CB00000000005) with
    | .next t => ((t.thread 0 63).stat, (t.thread 0 63).wait, (match step { t with agenda := [.issue 0 63] } with
      | .next u => ((u.thread 0 63).stat, (u.thread 0 63).code)
      | _ => (.free, none)))
    | _ => (.free, .none, .free, none)) = (.issued, .stall .fetch, .ready, some 0x0200000000000000#64) := by decide +kernel
/-- R88, R336: a fetch of an untranslated word traps out of ISSUED, with the word's address. -/
theorem test_fetch_fault : (match step { withMe (fun t => { t with wait := .stall .fetch, pcBlk := 0x7FFFFFF0 }) with agenda := [.issue 0 0] } with
    | .next t => ((t.thread 0 0).stat, (t.thread 0 0).cause, (t.thread 0 0).tval)
    | _ => (.free, 0, 0)) = (.trapped, Cause.pageFault, 0x3FFFFFF90#64) := by decide +kernel
/-- R385: from reset the next step verifies the firmware, which an empty board does not have (log 8). -/
theorem test_reset_step : (match step State.reset with
    | .next t => (t.mgmt.phase, t.mgmt.berr)
    | _ => (.off, 0)) = (.fail, 1) 
    := by rfl

/-! ## Witnesses: states and operands that meet the hypotheses of each statement, clause by clause -/

/-- A supervisor thread in context 0 of core 0. -/
def sup : State := withMe (fun t => { t with owner := .sup, priv := true })

/-- BitFieldAndCarrylessResults: the largest field at the lowest place; each way out of range. -/
theorem witness_BitField :
    (1 ≤ (64 : BitVec 7).toNat ∧ (64 : BitVec 7).toNat ≤ 64 ∧ (0 : BitVec 6).toNat + (64 : BitVec 7).toNat ≤ 64) ∧
    ((0 : BitVec 7).toNat = 0 ∧ 64 < (65 : BitVec 7).toNat ∧ 64 < (63 : BitVec 6).toNat + (2 : BitVec 7).toNat ∧
      trapsPlainly st Cause.range = true) := by decide

/-- ClassesOrderAndRounding: an infinity is no NaN, the encoding above it is one. -/
theorem witness_ClassAndOrder : (0x7F800000 < 2 ^ 32 ∧ ¬ 0x7F800000 < 0x7F800000 % 2 ^ 31) ∧
    (0xFF800001 < 2 ^ 32 ∧ 0x7F800000 < 0xFF800001 % 2 ^ 31) := by decide

/-- ClassesOrderAndRounding: the smallest subnormal quantum. -/
theorem witness_Rounding : (-173 : Int) ≤ -149 ∧ (-149 : Int) ≤ -149 := by decide

/-- A state in which the team's second context is taken too. -/
def full : State := st.modThread 0 1 (fun t => { t with stat := .ready })

/-- ThreadStart: a context free for the team, and none. -/
theorem witness_ThreadStart : (st.me.out = [] ∧ st.posting = false ∧ st.freeContext = some 1) ∧
    (full.me.out = [] ∧ full.posting = false ∧ full.freeContext = none) := by decide

/-- SpecialRegisters: a thread of a gang in a group and in none, and a supervisor thread. -/
theorem witness_SpecialRegisters :
    (st.gangOf st.me = some gang0 ∧ st.me.gang? = some 0 ∧ gang0.group = none) ∧
    ((withGang (fun x => { x with group := some 5 })).gangOf st.me = some { gang0 with group := some 5 }) ∧
    sup.gangOf sup.me = none := by decide

/-- SoftwareTrapBreakpointAndStop: a gang that does not debug, and one that does. -/
theorem witness_SoftwareTrap : trapsPlainly st.lastWord Cause.software = true ∧
    (∀ x, st.gangOf st.me = some x → x.debug = false ∧ x.stat ≠ .aborting) ∧
    (let s := withGang (fun x => { x with debug := true })
     ∃ x, s.gangOf s.me = some x ∧ x.debug = true ∧ x.stat ≠ .aborting) := by
  refine ⟨by decide, ?_, { gang0 with debug := true }, by decide⟩
  intro x h
  have e : some gang0 = some x := h
  cases e
  decide

/-- A thread that has trapped. -/
def trapped (c : BitVec 8) (f : Gang → Gang) : State :=
  (withMe (fun t => { t with stat := .trapped, cause := c })).modGang 0 f

/-- TrapEntryAndDelivery: a plain trap, an aborting gang; a thread that is not trapped, a kernel with a trap block, a cause that
no trap block takes. -/
theorem witness_TrapEntry : trapsPlainlyAt st 0 0 Cause.range = true ∧
    (let s := withGang (fun x => { x with stat := .aborting })
     s.gangOf (s.thread 0 0) = some { gang0 with stat := .aborting }) ∧
    (st.thread 0 0).stat ≠ .trapped ∧
    (let s := trapped Cause.range (fun x => { x with trap := 0x40000 })
     (s.thread 0 0).stat = .trapped ∧ s.gangOf (s.thread 0 0) = some { gang0 with trap := 0x40000 } ∧
       userRecoverable (s.thread 0 0).cause = true ∧ (s.thread 0 0).ih = false) ∧
    (let s := trapped Cause.pageFault id
     (s.thread 0 0).stat = .trapped ∧ userRecoverable (s.thread 0 0).cause = false) := by decide

/-- A thread in its trap block that came from a word of the block at 0x200000. -/
def inTrap (off : Nat) : State := withMe (fun t => { t with ih := true, tpc := pcWord 0x40000 off })

/-- TrapReturn: outside a trap block; inside, from the last word and from past the end. -/
theorem witness_TrapReturn : (st.me.ih = false ∧ trapsPlainly st Cause.illegalOp = true) ∧
    (∃ u, (inTrap 1).me.ih = true ∧ (inTrap 1).blockLength 0 (some 0) 0x40000 = .ok (2, u) ∧
      ((inTrap 1).me.tpc.extractLsb' 32 10).toNat < 2 ∧ trapsPlainly u Cause.range = true) ∧
    2 ≤ ((inTrap 1).me.tpc.extractLsb' 32 10).toNat + 1 := by
  refine ⟨by decide, ⟨_, by decide, rfl, by decide, by decide⟩, by decide⟩

/-- ContextEvents: a trap to take, a halt asked for, a DONE context; a fill with room, of a register that was written back too,
and into a full cache. -/
theorem witness_ContextEvents :
    (let s := withMe (fun t => { t with stat := .ready, async := some (Cause.journalFull, 0) })
     (s.thread 0 0).async = some (Cause.journalFull, 0) ∧ (s.thread 0 0).stat = .ready ∧ (s.thread 0 0).ih = false ∧
       trapsPlainlyAt s 0 0 Cause.journalFull = true) ∧
    (let s := withMe (fun t => { t with stat := .ready, haltReq := true })
     (s.thread 0 0).haltReq = true ∧ (s.thread 0 0).stat = .ready) ∧
    (let s := withMe (fun t => { t with stat := .done })
     (s.thread 0 0).stat = .done ∧ (s.thread 0 0).out = [] ∧ (∀ p, p ∈ s.posts → p.by_ ≠ some (0, 0))) ∧
    (let s := withSpan (fun x => { x with mutexes := [(15, ⟨some (0, 0), [(0, 1)], false⟩)] })
     (s.mutexAt (spanOf 0) 15).owner = some (0, 0)) ∧
    (let s := (withMe (fun t => { t with stat := .ready })).modThread 0 1 (fun t => { t with stat := .ready })
     s.issuerOn 0 = some 0 ∧ (s.coreAt 0).unissued = [] ∧ s.ready (s.thread 0 1) = true) ∧
    (let s := ((withMe (fun t => { t with stat := .ready })).modThread 0 1 (fun t => { t with stat := .ready })).modCore 0 (fun x =>
       { x with unissued := [1] })
     s.issuerOn 0 = some 1 ∧ s.ready (s.thread 0 1) = true) ∧
    (let s := (withMe (fun t => { t with stat := .trapped })).modThread 0 1 (fun t => { t with stat := .trapped })
     s.admits (.trapDelivery 0 0) = true ∧ (s.thread 0 1).stat = .trapped) ∧
    (let s := withCore (fun x => { x with evicted := [0] })
     (s.thread 0 0).stat ≠ .free ∧ ¬ 0 ∈ (s.coreAt 0).resident ∧ (s.coreAt 0).resident.length < 2048 ∧ 0 ∈ (s.coreAt 0).evicted ∧
       s.recordOf 0 0 = some 0x40000000) := by
  refine ⟨by decide, by decide, ⟨by decide, by decide, nofun⟩, by decide, by decide +kernel, by decide +kernel, by decide +kernel,
    by decide⟩

/-- ContextEvents: the fill of g1 into a full cache whose oldest entry is g0 of context 0. -/
theorem witness_ContextEvents_full :
    ∃ (s : State) (l : List Nat), (s.thread 0 0).stat ≠ .free ∧ (s.coreAt 0).resident = l ++ [0] ∧ ¬ 0 ∈ l ∧
      ¬ 1 ∈ (s.coreAt 0).resident ∧ (s.coreAt 0).resident.length = 2048 ∧
      s.willWrite 0 0 = false ∧
      s.recordOf 0 (0 / 64) = some 0x40000000 ∧ 0x40000000 + 448 ≤ Config.cwinBase := by
  have facts (r : List Nat) : ∃ s : State, (s.thread 0 0).stat = .issued ∧ (s.coreAt 0).resident = r ∧ s.willWrite 0 0 = false ∧
      s.recordOf 0 0 = some 0x40000000 := ⟨withCore (fun x => { x with resident := r }), rfl, rfl, (by decide +kernel : st.willWrite 0 0 = false), rfl⟩
  have none (n : Nat) (h : n < 2) : ¬ n ∈ (List.range 2047).map (· + 2) := by
    intro x
    obtain ⟨y, -, e⟩ := List.mem_map.1 x
    omega
  obtain ⟨s, a, b, c, d⟩ := facts ((List.range 2047).map (· + 2) ++ [0])
  refine ⟨s, (List.range 2047).map (· + 2), by rw [a]; decide, b, none 0 (by decide), ?_, ?_, c, d, by decide⟩
  · rw [b, List.mem_append, List.mem_singleton]
    exact fun x => x.elim (none 1 (by decide)) (by decide)
  · rw [b, List.length_append, List.length_map, List.length_range, List.length_singleton]

/-- TableInstructions: the team's first table, an index register at 63 and at 64, a poisoned value, an action with a reserved bit, a
busy table, and a number that the team does not have. -/
theorem witness_TableInstructions :
    (st.teamTable 0 = some 0 ∧ (st.tableAt 0 0).busy = none ∧ (st.reg (g 0)).p = false ∧
      (st.reg (g 0)).v.extractLsb' 55 9 = 0) ∧
    (let s := regs3 (2 ^ 55) 63 64
     s.teamTable 0 = some 0 ∧ (s.tableAt 0 0).busy = none ∧ (s.reg (g 1)).v.toNat < 64 ∧ 64 ≤ (s.reg (g 2)).v.toNat ∧
       (s.reg (g 0)).p = false ∧ (s.reg (g 0)).v.extractLsb' 55 9 ≠ 0 ∧ trapsPlainly s Cause.range = true) ∧
    (let s := withRegs [(10, ⟨0, true⟩)]
     s.teamTable 0 = some 0 ∧ (s.tableAt 0 0).busy = none ∧ (s.reg (g 0)).p = true ∧ trapsPlainly s Cause.poisonConsumed = true) ∧
    (let s := withCore (fun x => { x with tables := [(0, { Table.free with owner := .gang 0, busy := some (0, true) })] })
     s.teamTable 0 = some 0 ∧ (s.tableAt s.core 0).busy = some (0, true) ∧ 0 ≤ s.clock) ∧
    st.teamTable 1 = none ∧ trapsPlainly st Cause.tableIdx = true := by decide

/-- A state whose table 0 has one entry. -/
def entry (e : TEntry) (f : Thread → Thread) (c : Bool) : State :=
  (withCore (fun x => { x with tables := [(0, { Table.free with owner := .gang 0, active := [(0, e)] })], cancel := c })).modMe f

/-- NextResolvesLookup: a cancel that nothing routes, poison that nothing routes, no winner, and a winner. -/
theorem witness_NextResolvesLookup :
    (let u := (withGang (fun x => { x with stat := .aborting })).lastWord
     u.aborting u.core u.ctx = true) ∧
    (let u := (entry ⟨0, 0, 0⟩ (fun t => { t with tp := true }) true).lastWord
     u.aborting u.core u.ctx = false ∧ u.teamTable 0 = some 0 ∧ (u.buildKey Reg.z).getLsbD 12 = true ∧
       (u.tableAt u.core 0).winner (u.buildKey Reg.z) = some 0 ∧
       ((u.tableAt u.core 0).active.get TEntry.never 0).mask.getLsbD 12 = false) ∧
    (let u := (entry ⟨0x3000, 0x3000, 0⟩ (fun t => { t with tp := true, hashOk := false }) true).lastWord
     (u.buildKey Reg.z).getLsbD 12 = true ∧ (u.buildKey Reg.z).getLsbD 13 = true ∧
       (u.tableAt u.core 0).winner (u.buildKey Reg.z) = some 0 ∧
       ((u.tableAt u.core 0).active.get TEntry.never 0).mask.getLsbD 12 = true ∧
       ((u.tableAt u.core 0).active.get TEntry.never 0).mask.getLsbD 13 = true) ∧
    (BitVec.ofNat 64 (2 ^ 53 + 2 ^ 52)).getLsbD 53 = true ∧ (BitVec.ofNat 64 (2 ^ 52)).getLsbD 53 = false ∧ st.me.tnt = false ∧
    (let u := (entry TEntry.never id true).lastWord
     u.aborting u.core u.ctx = false ∧ u.teamTable 0 = some 0 ∧ (u.buildKey Reg.z).getLsbD 12 = true ∧
       (u.tableAt u.core 0).winner (u.buildKey Reg.z) = none) ∧
    (let u := (entry ⟨0, 0, 0⟩ (fun t => { t with tp := true }) false).lastWord
     u.aborting u.core u.ctx = false ∧ u.teamTable 0 = some 0 ∧ (u.buildKey Reg.z).getLsbD 12 = false ∧
       (u.buildKey Reg.z).getLsbD 13 = true ∧ (u.tableAt u.core 0).winner (u.buildKey Reg.z) = some 0 ∧
       ((u.tableAt u.core 0).active.get TEntry.never 0).mask.getLsbD 13 = false ∧ trapsPlainly u Cause.poisonConsumed = true) ∧
    (let u := (entry TEntry.never (fun t => { t with hashOk := false }) false).lastWord
     (u.buildKey Reg.z).getLsbD 12 = false ∧ (u.buildKey Reg.z).getLsbD 13 = false ∧
       (u.tableAt u.core 0).winner (u.buildKey Reg.z) = none ∧ trapsPlainly u Cause.noMatch = true) ∧
    (let u := (entry ⟨0, 0, 0⟩ (fun t => { t with hashOk := false }) false).lastWord
     (u.buildKey Reg.z).getLsbD 12 = false ∧ (u.buildKey Reg.z).getLsbD 13 = false ∧
       (u.tableAt u.core 0).winner (u.buildKey Reg.z) = some 0) := by
  refine ⟨?_, ?_, ?_, ?_, ?_, ?_, ?_, ?_, ?_, ?_⟩ <;> decide +kernel

/-- An answer that is not an error and satisfies a test. -/
def okWith {ε α : Type} (r : Except ε α) (f : α → Bool) : Bool := match r with
  | .ok y => f y
  | .error _ => false

theorem okWith_ok {ε α : Type} {r : Except ε α} {f : α → Bool} (h : okWith r f = true) : ∃ y, r = .ok y ∧ f y = true := by
  match r, h with
  | .ok y, h => exact ⟨y, rfl, h⟩

/-- The translation of an address of a page that a test may show to succeed. -/
theorem global_ok {s : State} {use : MemUse} {ea ad : Nat}
    (h : okWith (s.checkGlobal use ea) (fun y => decide (y.1 = ad) && !y.2.inReplay) = true) :
    ∃ u, s.checkGlobal use ea = .ok (ad, u) ∧ u.inReplay = false := by
  obtain ⟨⟨x, u⟩, e, h⟩ := okWith_ok h
  simp only [Bool.and_eq_true, decide_eq_true_eq, Bool.not_eq_true'] at h
  exact ⟨u, by rw [e, h.1], h.2⟩

/-- SignatureCheck: the end of the worked block with a forced mismatch, with a hash that differs and with a broken hash, and the
header of that block, of class 0, which a mask may name or not. -/
theorem witness_SignatureCheck :
    (let x := (withMe (fun t => { t with hashOk := true, forceMis := true, written := 1 <<< 10 })).me
     (x.hashOk = true ∧ (x.forceMis = true ∨ foldHash x.hash x.word ≠ x.hdr1.extractLsb' 32 32)) ∧ g 0 ≠ 0 ∧
       x.written.getLsbD (g 0).toNat = true ∧ x.written.getLsbD (g 1).toNat = false) ∧
    (let x := (withMe (fun t => { t with hashOk := true })).me
     x.hashOk = true ∧ x.forceMis = false ∧ foldHash x.hash x.word ≠ x.hdr1.extractLsb' 32 32) ∧
    (let x := (withMe (fun t => { t with hashOk := false, forceMis := true })).me
     ¬ (x.hashOk = true ∧ (x.forceMis = true ∨ foldHash x.hash x.word ≠ x.hdr1.extractLsb' 32 32))) ∧
    st.me.stat = .issued ∧
    (let s1 := (st.modThread 0 0 (fun t =>
      { t with pcBlk := 0x40000, pcOff := 0, loaded := false, entering := some 1, hash := hashStart, hashOk := true,
               written := 0, haltAt := none, code := none, stat := .issued, held := none, wait := .stall .fetch, age := st.clock })).touchCore 0
      [unitOfThread 0] none
     okWith (s1.fetchCode 0 (s1.tenantOf (s1.thread 0 0)) (8 * (0x40000 : Half).toNat)) (fun y =>
       decide (y.1.extractLsb' 54 10 ≠ 0) && okWith (y.2.fetchCode 0 (y.2.tenantOf (s1.thread 0 0)) (8 * (0x40000 : Half).toNat + 8))
         (fun z => decide ((z.1.extractLsb' 12 4).toNat = 0))) = true) := by
  refine ⟨by decide, by decide, by decide, by decide, by decide +kernel⟩

/-- AccessInstructionsIssue: the last word of the scratchpad, and a word of a page. -/
theorem witness_AccessInstructionsIssue :
    (let s := regs3 0x1BFFF8 1 0
     Accepted s .load .sp (g 0) 0 8 false 0x1BFFF8 s ∧ Accepted s .store .sp (g 0) 0 8 (s.reg (g 1)).p 0x1BFFF8 s ∧
       Accepted s .atomic .sp (g 0) 0 8 (s.reg (g 1)).p 0x1BFFF8 s) ∧
    (let s := regs3 0x200000 1 0
     (∃ u, Accepted s .load .gl (g 0) 0 8 false 0x400000 u) ∧ (∃ u, Accepted s .store .gl (g 0) 0 8 (s.reg (g 1)).p 0x400000 u) ∧
       ∃ u, Accepted s .atomic .gl (g 0) 0 8 (s.reg (g 1)).p 0x400000 u) := by
  refine ⟨⟨⟨by decide, by decide, by decide, by decide, rfl, rfl⟩, ⟨by decide, by decide, by decide, by decide, rfl, rfl⟩,
    ⟨by decide, by decide, by decide, by decide, rfl, rfl⟩⟩, ?_, ?_, ?_⟩
  · exact (global_ok (s := regs3 0x200000 1 0) (use := .load) (ea := 0x200000) (ad := 0x400000) (by decide +kernel)).imp
      (fun u h => ⟨by decide, by decide, by decide, h.1, .inl rfl⟩)
  · exact (global_ok (s := regs3 0x200000 1 0) (use := .store) (ea := 0x200000) (ad := 0x400000) (by decide +kernel)).imp
      (fun u h => ⟨by decide, by decide, by decide, h.1, .inr ⟨h.2, by decide⟩⟩)
  · exact (global_ok (s := regs3 0x200000 1 0) (use := .atomic) (ea := 0x200000) (ad := 0x400000) (by decide +kernel)).imp
      (fun u h => ⟨by decide, by decide, by decide, h.1, .inr ⟨h.2, by decide⟩⟩)

/-- AccessInstructionsIssue: nothing guarded is met; a release that has an earlier store to wait for, a post, and one store that it
may guard. -/
theorem witness_AccessInstructionsIssue_order :
    let x := Access.plain .store .sp 0 16 (16, 1) 8 0 Val.zero
    let y := Access.plain .store .sp 0 8 (8, 1) 8 0 Val.zero
    (st.guardedFrom (.thread st.core st.ctx) (·.conflicts x) = none ∧ st.me.out = [] ∧ st.posting = false) ∧
    (let u := withMe (fun t => { t with out := [y] })
     (∃ z ∈ u.me.out, z.writes = true ∧ z.guardedFor .sys = false) ∧ u.me.out = [y] ∧ u.posting = false ∧ y.kind = .store ∧
       y.guard = none ∧ y.acq = false ∧ y.overlaps x = false ∧ y.space ≠ .cx ∧
       u.guardedFrom (.thread u.core u.ctx) (·.conflicts x) = none ∧ u.guardedFrom (.thread u.core u.ctx) (·.conflicts y) = none) ∧
    ({ st with posts := [⟨some 0, some 0, some (0, 0), none, 1, 3, 9⟩] } : State).posting = true := by decide

/-- AccessChecksTrapInOrder, clause by clause: the checks before translation. -/
theorem witness_AccessChecks :
    (let s := withRegs [(10, ⟨0, true⟩)]
     (s.reg (g 0)).p = true ∧ trapsPlainly s Cause.poisonConsumed = true) ∧
    ((st.reg (g 0)).p = false ∧ trapsPlainly st Cause.access = true) ∧
    (let s := regs3 7 0 0
     (s.reg (g 0)).p = false ∧ ((s.reg (g 0)).v + (0 : BitVec 24).signExtend 64).toNat % 8 ≠ 0 ∧ trapsPlainly s Cause.misaligned = true) ∧
    (let s := regs3 0x1C0000 0 0
     ((s.reg (g 0)).v + (0 : BitVec 24).signExtend 64).toNat % 8 = 0 ∧
       spaceSize .sp < ((s.reg (g 0)).v + (0 : BitVec 24).signExtend 64).toNat + 8 ∧ trapsPlainly s Cause.range = true) ∧
    (let s := regs3 (5 * 1024) 0 0
     ((s.reg (g 0)).v + (0 : BitVec 24).signExtend 64).toNat + 8 ≤ spaceSize .cx ∧ (s.thread s.core (5 * 1024 / 1024)).owner ≠ s.me.owner) ∧
    (let s := regs3 0x1000000000000#64 0 0
     2 ^ 48 ≤ ((s.reg (g 0)).v + (0 : BitVec 24).signExtend 64).toNat) := by decide

/-- The state with an entry for the page at 0x400000, g0 pointing into it. -/
def paged (e : Nat) : State := { regs3 0x400000 1 0 with mem := mem0.write 0x102010 8 e }

/-- The cause with which translation refuses an access of the running thread. -/
def refusedWith (s : State) (r : Rights) : Option (BitVec 8) :=
  match s.coreTranslate s.core (s.tenantOf s.me) 0x400000 r with
  | .error c => some c
  | .ok _ => none

/-- AccessChecksTrapInOrder: no page; a page in transit, a read-only one, one without W; an address that a supervisor thread finds
unpopulated. -/
theorem witness_AccessChecks_pages :
    (refusedWith (paged 0) .read = some Cause.pageFault ∧ (paged 0).walk 0 0x400000 = none ∧ tlbFind (paged 0).myCore.tlb 0 0x400000 = none ∧
      (paged 0).tenantOf (paged 0).me = some 0) ∧
    ((paged 0x60003E).walk 0 0x400000).map (fun h => (h.entry.extractLsb' 4 2).toNat) = some 3 ∧
    (((paged 0x60002E).walk 0 0x400000).map (fun h => (h.entry.extractLsb' 4 2).toNat) = some 2 ∧
      refusedWith (paged 0x60002E) .write = some Cause.pageFault) ∧
    (((paged 0x60000A).walk 0 0x400000).map (fun h => ((h.entry.extractLsb' 4 2).toNat, h.entry.getLsbD 2)) = some (0, false) ∧
      refusedWith (paged 0x60000A) .write = some Cause.access) ∧
    (let s := (regs3 0x0500000000000000 0 0).modMe (fun t => { t with owner := .sup })
     s.tenantOf s.me = none ∧ s.populated 0x050000000000 = false) := by decide +kernel

/-- AccessChecksTrapInOrder: a page of the counter window, which holds the core (0, 0) that the tenant has and the core (8, 0) that it
has not. -/
theorem witness_AccessChecks_window :
    let s : State := { paged 0x04000000000E with tenants := [(0, { tenant0 with sw := 1, sh := 1 })] }
    okWith (s.coreTranslate s.core (s.tenantOf s.me) 0x400000 .read) (fun y => inCwin y.1 &&
      y.2.inSubmesh (s.tenantOf s.me) ((y.1 - Config.cwinBase) / 2048)) = true ∧
    okWith (s.coreTranslate s.core (s.tenantOf s.me) (0x400000 + 8 * 2048) .read) (fun y => inCwin y.1 &&
      !y.2.inSubmesh (s.tenantOf s.me) ((y.1 - Config.cwinBase) / 2048)) = true := by decide +kernel

/-- AccessChecksTrapInOrder: a page that is written in a replayable superstep and outside one, with poisoned data. -/
theorem witness_AccessChecks_stores :
    let s := paged 0x60000E
    okWith (s.coreTranslate s.core (s.tenantOf s.me) 0x400000 .write) (fun y => !inCwin y.1 && !y.2.inReplay &&
      trapsPlainly y.2 Cause.poisonConsumed) = true ∧
    (let r := s.modGang 0 (fun x => { x with replay := true })
     okWith (r.coreTranslate r.core (r.tenantOf r.me) 0x400000 .write) (fun y => !inCwin y.1 && y.2.inReplay &&
       trapsPlainly y.2 Cause.replayStore)) = true := by decide +kernel

/-- An access of a kind to the word at 8 of the scratchpad. -/
def spAccess (k : AccKind) : Access :=
  { kind := k, space := .sp, place := 0, addr := 8, bytes := 8, page := (8, 1), dest := g 1, toQ := true, data := ⟨5, false⟩, cmp := 0,
    acq := false, rel := false, scope := .sys, guard := none, taint := false }

/-- A thread with one outstanding access. -/
def pending (k : AccKind) : State := withMe (fun t => { t with stat := .ready, out := [spAccess k] })

/-- Whether an access of a thread is the first of its outstanding ones, ready, and meets nothing guarded. -/
def mayPerform (s : State) (x : Access) : Bool :=
  decide ((s.thread 0 0).out[0]? = some x) && x.ready [] && (s.guardedFrom (.thread 0 0) (·.conflicts x)).isNone

/-- StoreChangesOnlyItsBytes, LoadDeliversMemory, AtomicsAndFullEmptyWords: an access that is ready, to the scratchpad and to global
memory; the destination z and another. -/
theorem witness_Accesses :
    mayPerform (pending .store) (spAccess .store) = true ∧ mayPerform (pending (.load false)) (spAccess (.load false)) = true ∧
    (mayPerform (pending (.amo .add)) (spAccess (.amo .add)) = true ∧ ((pending (.amo .add)).spanAt 0).sp.poison 8 = false) ∧
    (mayPerform (pending .cas) (spAccess .cas) = true ∧ ((pending .cas).spanAt 0).sp.poison 8 = false) ∧
    [AccKind.store, .load true, .amo .max, .cas].all (fun k =>
      let x : Access := { spAccess k with space := .gl, addr := 0x400008, page := (0x200000, 2 ^ 21) }
      mayPerform (withMe (fun t => { t with stat := .ready, out := [x] })) x && !inCwin x.addr && !st.mem.poison x.addr &&
        decide (x.addr + x.bytes ≤ Config.cwinBase)) = true ∧
    (let s := (pending .cas).modSpan 0 (fun x => { x with sp := x.sp.setPoison 8 true })
     mayPerform s (spAccess .cas) = true ∧ (s.spanAt 0).sp.poison 8 = true) := by decide +kernel

/-- LoadDeliversMemory: the last counter of core 1 through its window, a word of a context record, and a pending store of the bytes
that a load reads. -/
theorem witness_LoadDeliversMemory :
    (let x : Access := { spAccess (.load false) with space := .gl, addr := Config.cwinBase + 2048 * 1 + 8 * 255 }
     mayPerform (withMe (fun t => { t with stat := .ready, out := [x] })) x = true) ∧
    (let x : Access := { spAccess (.load false) with space := .cx, addr := 1024 * 1 + 8 * 53 }
     mayPerform (withMe (fun t => { t with stat := .ready, out := [x] })) x = true) ∧
    (let s := withCore (fun x => { x with evicted := [64 * 1 + 53] })
     64 * 1 + 53 ∈ (s.coreAt 0).evicted ∧ s.recordOf 0 1 = some 0x40000400) ∧
    (let y := spAccess .store
     let x := spAccess (.load true)
     let s := withMe (fun t => { t with stat := .ready, out := [y, x] })
     (s.thread 0 0).out[1]? = some x ∧ x.ready [y] = true ∧ x.forward [y] = some y ∧ y.overlaps x = true ∧
       s.guardedFrom (.thread 0 0) (·.conflicts x) = none) := by decide +kernel

/-- AtomicsAndFullEmptyWords: a full word, and an empty one, that nothing waits for. -/
theorem witness_FullEmptyWords :
    (let s := regs3 8 5 0
     Accepted s .fullEmpty .sp (g 0) 0 8 false 8 s ∧ ((s.spanAt 0).overflow = [] ∧ s.mustFollow .sp 8 8 = false ∧ s.isFull 0 8 = true ∧
       s.oldestSlot 0 8 true = none ∧ s.me.out = [] ∧ s.posting = false ∧ s.aborting s.core s.ctx = false ∧
       s.cancelled s.core s.ctx = false ∧
       s.guardedFrom (.thread s.core s.ctx) (·.overlaps (Access.plain .store .sp s.core 8 (0, 0) 8 0 Val.zero)) = none)) ∧
    (let s := (regs3 8 5 0).modSpan 0 (fun x => { x with empties := [(1, true)] })
     Accepted s .fullEmpty .sp (g 0) 0 8 false 8 s ∧ ((s.spanAt 0).overflow = [] ∧ s.mustFollow .sp 8 8 = false ∧ s.isFull 0 8 = false ∧
       s.oldestSlot 0 8 false = none ∧ s.me.out = [] ∧ s.posting = false ∧ s.aborting s.core s.ctx = false ∧
       s.cancelled s.core s.ctx = false)) := by
  refine ⟨⟨?_, by decide⟩, ⟨?_, by decide⟩⟩ <;> exact ⟨by decide, by decide, by decide, by decide, rfl, rfl⟩

/-- FencesScopesAndPrefetch: nothing held, a store held by .ww, which a narrower scope guards, and a post; a clean base and a poisoned
one. -/
theorem witness_FenceAndPrefetch :
    (st.me.out.any (fun x => ((8 : BitVec 4).getLsbD 3) && x.writes) = false ∧ st.posting = false) ∧
    (let s := withMe (fun t => { t with out := [spAccess .store] })
     s.me.out.any (fun x => ((8 : BitVec 4).getLsbD 3) && x.writes) = true ∧ (spAccess .store).guardedFor .sys = false ∧
       (spAccess .store).space ≠ .cx ∧ (spAccess .store).guard = none ∧
       s.guardedFrom (.thread s.core s.ctx) (·.conflicts (spAccess .store)) = none ∧ s.posting = false) ∧
    (st.reg (g 0)).p = false ∧
    (let s := withRegs [(10, ⟨0, true⟩)]
     (s.reg (g 0)).p = true ∧ trapsPlainly s Cause.poisonConsumed = true) := by decide

/-- FencesScopesAndPrefetch: two contexts of a core, each of a gang; and a load that meets the store that its neighbour's fence.core
guards. -/
theorem witness_Guards :
    let y : Access := { spAccess .store with guard := some .core }
    let x := spAccess (.load false)
    let s := (withMe (fun t => { t with stat := .ready, out := [x] })).modThread 0 1 (fun t => { t with stat := .ready, out := [y] })
    s.gangOf (s.thread 0 0) = some gang0 ∧ s.gangOf (s.thread 0 1) = some gang0 ∧ (s.thread 0 0).out[0]? = some x ∧ x.ready [] = true ∧
      s.guardedFrom (.thread 0 0) (·.conflicts x) = some (0, 1, 0) ∧ (s.thread 0 1).out[0]? = some y ∧
      s.guardedFrom (.thread 0 1) (·.conflicts y) = none ∧
      (s.performAt 0 1 0).guardedFrom (.thread 0 0) (·.conflicts x) = none := by decide +kernel

/-- A ring descriptor word: FP32 or INT32 (type 5) elements in the scratchpad, 2^n slots of 32. -/
def ringWord (base n type : Nat) : Word := BitVec.ofNat 64 (base + 2 ^ 21 + n * 2 ^ 24 + type * 2 ^ 34)

/-- A state whose handles 0 to 2 hold FP32 elements and 3 INT32 elements, with p slots filled. -/
def withRings (p : Half) : State :=
  (regs3 0 0 0).modCore 0 (fun x => { x with rings := [(0, ⟨ringWord 0 1 0, p, 0⟩), (1, ⟨ringWord 0x1000 1 0, p, 0⟩),
    (2, ⟨ringWord 0x2000 1 0, p, 0⟩), (3, ⟨ringWord 0x3000 1 5, p, 0⟩)] })

/-- RingInstructions: a bad descriptor, an unbound handle, a count without room, and each instruction free to act. -/
theorem witness_RingInstructions :
    ((Machine.Ring.mk 1 0 0).valid = false ∧ trapsPlainly (regs3 1 0 0) Cause.ringConfig = true ∧ st.ringAt 7 = Machine.Ring.unbound) ∧
    (let s := withRings 1
     (s.reg (g 1)).p = false ∧ (s.ringAt 0).desc ≠ 0 ∧ (s.ringAt 0).slots - (s.ringAt 0).filled < 2 ∧ (s.ringAt 0).filled < 2 ∧
       1 ≤ (s.ringAt 0).slots - (s.ringAt 0).filled ∧ 1 ≤ (s.ringAt 0).filled ∧ trapsPlainly s Cause.range = true ∧
       s.me.owner ≠ .none ∧ s.me.out = [] ∧ s.posting = false ∧ (Machine.Ring.mk (ringWord 0 1 0) 0 0).valid = true ∧ s.ringBusy 0 = false) := by decide +kernel

/-- Whether the premises of VectorInstructionsStart hold of an instruction in a state, and whether its streams have what they
need. -/
def vectorReady (s : State) (i : Instr) : Bool × Bool :=
  let f := vform i
  let m := State.vcount s.me f
  let named := f.streams m
  let clean (r : Option Reg) : Bool := match r with
    | some r => !(s.reg r).p
    | none => true
  let aligned : Bool := match f.base, named.head? with
    | some r, some x => decide ((s.reg r).v.toNat % (s.ringAt x.h).size = 0)
    | _, _ => true
  (clean f.base && clean f.count && aligned && decide (m ≤ 65535) && (f.base.isNone || !f.sp || decide (m ≤ 4096)) &&
      named.all (fun x => decide ((s.ringAt x.h).desc ≠ 0) && x.rule.ok (s.ringAt x.h).type &&
        decide ((s.ringAt x.h).slotsFor x.m ≤ (s.ringAt x.h).slots)),
    named.all (fun x => let r := s.ringAt x.h
      decide (r.slotsFor x.m ≤ if x.out then r.slots - r.filled else r.filled)))

/-- VectorInstructionsStart: with one of two slots filled every instruction finds what it needs for one element; with no slot
filled no input does; a parked one that RING_WAIT_START may start, in the lowest context. -/
theorem witness_VectorInstructionsStart :
    (let G := g 0
     [Instr.vadd 0 1 2 1 G .mode, .vsub 0 1 2 1 G .mode, .vmul 0 1 2 1 G .mode, .vfma 0 1 2 1 1 G .mode, .vmax 0 1 2 1 G .mode,
       .vmin 0 1 2 1 G .mode, .vexp2 0 1 1 G .mode, .vrcp 0 1 1 G .mode, .vrsq 0 1 1 G .mode, .vcvt 0 1 1 G .mode,
       .vscale 0 1 1 G .mode, .vredsum G 1 1 G .mode, .vredmax G 1 1 G, .vcmp G .lt 3 1 2 0 1 G, .vsel 0 1 2 3 1 G .mode,
       .vbits .mul 0 1 3 G 1 G .mode, .vgath 0 3 G true 1 G, .vscat false 1 3 G true 1 G .mode, .vfillc false 0 G 1 G .mode,
       .viota 0 G G 1 .mode].all (fun i => (vectorReady (withRings 1) i).1 && (vectorReady (withRings 1) i).2)) = true ∧
    vectorReady (withRings 0) (.vadd 0 1 2 1 (g 0) .mode) = (true, false) ∧
    (withRings 0).pendingStatus 0 0 = none ∧
    (let s := (withRings 1).modMe (fun t => { t with stat := .parked, wait := .ring, held := some (.vadd 0 1 2 1 (g 0) .mode) })
     (s.thread 0 0).stat = .parked ∧ (s.thread 0 0).wait = .ring ∧ (s.thread 0 0).held = some (.vadd 0 1 2 1 (g 0) .mode) ∧
     ((vform (.vadd 0 1 2 1 (g 0) .mode)).streams (State.vcount (s.thread 0 0) (vform (.vadd 0 1 2 1 (g 0) .mode)))).all
       (State.streamReady (s.ringsOf 0 0)) = true ∧ s.mayIssue (s.thread 0 0) = true) := by decide +kernel

/-- The handles of a job: FP32 elements in words of their own, with room for one in each. -/
def jobRings : SMap Machine.Ring := [(0, ⟨ringWord 0 1 0, 1, 0⟩), (1, ⟨ringWord 0x1000 1 0, 1, 0⟩), (2, ⟨ringWord 0x2000 1 0, 1, 0⟩),
  (3, ⟨ringWord 0x3000 1 5, 1, 0⟩)]

/-- VectorResults: the output of handle 0 has room for the one element of its slot, and the inputs stand in other words; a table in
the ABUF with an index of 0 at its first element and past its last. -/
theorem witness_VectorResults_places :
    let r (h : Nat) := jobRings.get Machine.Ring.unbound h
    let o := r 0
    (o.valid = true ∧ 1 ≤ o.slots * o.elems) ∧
    ((List.range 4).all (fun h => (r h).valid && (h == 0 || decide ((r h).elemAddr (r h).c 0 / 8 ≠ o.elemAddr o.p 0 / 8))) = true) ∧
    (let e (a : Word) : Int := a.toNat + signedNat (8 * (r 3).size) (st.velem 0 (r 3) 0).1 * o.size
     (0 ≤ e 0 ∧ e 0 + o.size ≤ spaceSize .ab ∧ (0 : Word).toNat % o.size = 0 ∧ Space.ab ≠ o.space) ∧
     ¬ (0 ≤ e (BitVec.ofNat 64 (spaceSize .ab)) ∧ e (BitVec.ofNat 64 (spaceSize .ab)) + o.size ≤ spaceSize .ab) ∧
       (BitVec.ofNat 64 (spaceSize .ab)).toNat % o.size = 0) ∧
    trapsPlainlyAt st 0 0 Cause.range = true := by decide +kernel

/-- VectorResults: an instruction of one element that has started. -/
theorem witness_VectorResults (i : Instr) :
    let job : VecJob := ⟨0, i, 1, Val.zero, Val.zero, jobRings⟩
    ((withCore (fun x => { x with vec := [job] })).coreAt 0).vec = job :: [] ∧ job.ins = i ∧ job.n = 1 ∧
      (withCore (fun x => { x with vec := [job] })).vectorMeets 0 job = false := ⟨rfl, rfl, rfl, rfl⟩

/-- VectorResults: an instruction that writes a byte which a store of its thread, outstanding, writes. -/
theorem witness_VectorResults_waits :
    let job : VecJob := ⟨0, .vadd 0 1 2 1 (g 0) .mode, 1, Val.zero, Val.zero, jobRings⟩
    let s := (withCore (fun x => { x with vec := [job] })).modMe (fun t =>
      { t with out := [Access.plain .store .sp 0 128 (128, 1) 8 0 Val.zero] })
    (s.coreAt 0).vec = job :: [] ∧ s.vectorMeets 0 job = true := by decide +kernel

/-- DenseProductElements: a latch of BFP8 whose block is one, and one of BF16; a rank of lists that is in order. -/
theorem witness_DenseProductElements :
    (match tileBlock Memory.empty 0 7 0 0 with
      | .bfp _ _ _ => true
      | .bf16 _ => false) = true ∧
    (match tileBlock Memory.empty 0 0 0 0 with
      | .bfp _ _ _ => false
      | .bf16 _ => true) = true ∧
    (List.range 32).Nodup ∧ 0 ∈ List.range 32 ∧ ¬ 0 ∈ [1] ∧ 0xFFDF + 31 ≤ 0xFFFE ∧ listEntries [] 0 = [] := by decide +kernel

/-- A state with an operation in the sequence. -/
def withOp (op : MatOp) : State := withCore (fun x => { x with mx := { x.mx with seq := [⟨0, op, 0, false⟩] } })

/-- Sixteen cores with an accepted MMA2 each. -/
def mma2Row (at_ : Nat) : State :=
  { st with cores := (List.range 16).map (fun c => (c, { Core.idle with
      threads := [(0, { thread0 with wait := .stall .partner, held := some (.mma2 (g 0) 1 false 9 0) })],
      mx := { Matrix.start with seq := [⟨0, .mma2 (g 0) 1 false 9 0, at_, false⟩] } })) }

/-- MatrixAcceptance: a gang with the matrix unit, a paired one, and operands in range. -/
theorem witness_MatrixAcceptance :
    (let s := regs3 0x100 0x80 0x200000
     let m := s.myCore.mx
     s.matrixGang = some gang0 ∧ (∀ x ∈ s.me.out, x.space = .gl ∨ x.space = .cb ∨ x.space = .cx) ∧ m.latchWaits true = false ∧ m.latchWaits false = false ∧ m.inFlight < 4 ∧ (s.reg (g 0)).v.toNat % 256 = 0 ∧
     (s.reg (g 0)).v.toNat + tileBytes m.atEnd.fb ≤ Config.abSize ∧ s.pendingStatus s.core s.ctx = none ∧ m.seq = [] ∧
     256 * 9 + tileBytes m.atEnd.fa ≤ Config.wbSize ∧ 256 * 9 + sparseBytes m.atEnd.fa ≤ Config.wbSize ∧
     (m.atEnd.fa = 0 ↔ m.atEnd.t0 = 0) ∧ m.accepted 1 = 0 ∧ m.completed 1 = 0 ∧ 0 ≤ (m.completed 1 - 0).toInt ∧
     s.reg (g 2) = ⟨BitVec.ofNat 64 (2 ^ 21 + 0), false⟩ ∧ 256 * 9 + 1024 * fmtBytes .f32 ≤ Config.abSize ∧
     (s.reg (g 1)).v.toNat % 128 = 0 ∧ (s.reg (g 1)).v.toNat + 128 ≤ Config.abSize ∧ (s.reg (g 0)).v.toNat + 31 ≤ 0xFFFE) ∧
    ((withGang (fun x => { x with paired := true })).matrixGang = some { gang0 with paired := true }) ∧
    tkLegal 4 = true ∧ csLegal 4 = true ∧
    (let s := regs3 0 0 0
     s.reg (g 0) = ⟨BitVec.ofNat 64 (0 + 256 * 0), false⟩ ∧ 0 < (tkFields s.myCore.mx.tkAtEnd).k ∧
       (tkFields s.myCore.mx.tkAtEnd).one = false ∧ 0 < (s.myCore.mx.csAtEnd.extractLsb' 0 5).toNat) ∧
    (let s := withCore (fun x => { x with mx := { x.mx with vi := [(1, 1)] } })
     (s.myCore.mx.accepted 1 - 0).toInt > 0 ∧ trapsPlainly s Cause.range = true ∧ s.myCore.mx.latchWaits false = false ∧
       (∀ j ∈ s.myCore.mx.seq, j.op.isMma2 = true → j.op.writes ≠ some 1)) ∧
    (let s := withOp (.mma2 (g 0) 1 false 9 0)
     s.tilePending 1 = true ∧ ¬ 0 < (s.myCore.mx.accepted 1 - 0).toInt ∧ s.pendingStatus s.core s.ctx = none ∧
       s.myCore.mx.latchWaits true = true) ∧
    ((st.myCore.mx.accepted 1 - 1).toInt < 0) ∧
    (let u := withMe (fun t => { t with wait := .stall .version, held := some (.azero 1 1) })
     u.me.stat = .issued ∧ u.me.wait = .stall .version ∧ u.mayIssue u.me = true ∧ u.me.held = some (.azero 1 1)) := by decide +kernel

/-- MatrixAcceptance: a stale MMA2 of core 0 in a group whose other members have accepted theirs. -/
theorem witness_MatrixAcceptance_group :
    let s := { mma2Row 0 with gangs := [(0, { gang0 with paired := true })] }.modCore 0 (fun x => { x with
      mx := { x.mx with seq := [], vi := [(1, 1)] } })
    s.matrixGang = some { gang0 with paired := true } ∧ 0 < (s.myCore.mx.accepted 1 - 0).toInt ∧ trapsPlainly s Cause.range = true ∧
      (∀ r ∈ State.pairRow s.core, r ≠ s.core →
        ((s.coreAt r).mx.seq.filter (fun j => j.op.isMma2))[s.myCore.mx.seq.countP (fun j => j.op.isMma2)]? =
          some ⟨0, .mma2 (g 0) 1 false 9 0, 0, false⟩) := by decide +kernel

/-- MatrixCompletes: each operation at the head of its path, free to run. -/
theorem witness_MatrixCompletes :
    [MatOp.mfmt 0 0 0, .bload false 0, .mma 1 false 9 0, .mmas 1 false 9 0 0, .azero 1 0].all (fun op =>
      let m := ((withOp op).coreAt 0).mx
      decide (m.head false = some ⟨0, op, 0, false⟩) && m.free ⟨0, op, 0, false⟩) = true ∧
    [MatOp.aepi .f32 false none 1 9 0, .atopkInit 4, .atopkAcc 1 0 0, .acselInit 4, .acselAcc 1 0 0, .ardk (g 0) .stat 0 0,
      .ardk (g 0) .csel 0 0, .ardk (g 0) .topk 0 0, .ardkClr (g 0) 1].all (fun op =>
      let m := ((withOp op).coreAt 0).mx
      decide (m.head true = some ⟨0, op, 0, false⟩) && m.free ⟨0, op, 0, false⟩) = true := by decide +kernel

/-- The members of a group at their MMA2, the last of them accepted 2^20 cycles after the others, and the count ended. -/
def lateRow : State :=
  (((mma2Row 0).modCore 15 (fun x => { x with mx := { x.mx with seq := [⟨0, .mma2 (g 0) 1 false 9 0, 2 ^ 20, false⟩] } })).modGang 0
    (fun x => { x with live := 2 ^ 20 }))

/-- R182, R353: after a cancel a wait for a version that an accepted MMA will bring goes on, and one for a later version ends. -/
theorem test_cancel_version_waits : (
    let s := (withOp (.mma 1 false 9 0)).modCore 0 (fun x => { x with cancel := true })
    match exec (.awaitv 1 1) s, exec (.awaitv 1 2) s with
    | .next t, .next u => (t.me.wait, u.me.wait)
    | _, _ => (.none, .none)) = (.stall .version, .stall .fetch) := by decide +kernel
/-- R189: the group operation does not happen, and those that accepted within the count trap; the late one waits for a group formed afresh. -/
theorem test_late_member : (match exec (.mma2GroupOp 0) lateRow, exec (.mma2Timeout 0) lateRow with
    | .next t, .next u => (decide (t.me.stat = .trapped), (u.thread 0 0).cause, (u.thread 14 0).cause, (u.coreAt 15).mx.seq.length)
    | _, _ => (true, 0, 0, 0)) = (false, Cause.pairTimeout, Cause.pairTimeout, 1) := by decide +kernel

/-- RotationAndGroupSteps: a ring of one whose member is there; a group whose 16 members are, in time, and with one too late; and a member
whose partners stay away past the count. -/
theorem witness_RotationAndGroupSteps :
    (let s := withOp (.brot false)
     s.trussRing 0 = [0] ∧ ∀ r ∈ s.trussRing 0, s.atHead r (MatOp.isBrot false) = true) ∧
    (let s := mma2Row 0
     ∀ r ∈ State.pairRow 0, s.atHead r MatOp.isMma2 = true ∧ s.firstJob r MatOp.isMma2 = some ⟨0, .mma2 (g 0) 1 false 9 0, 0, false⟩) ∧
    (let s := (withOp (.mma2 (g 0) 1 false 9 0)).modGang 0 (fun x => { x with live := 2 ^ 20 })
     s.firstJob 0 MatOp.isMma2 = some ⟨0, .mma2 (g 0) 1 false 9 0, 0, false⟩ ∧ 0 + 2 ^ 20 ≤ s.liveCycles 0 ∧
       s.firstJob 1 MatOp.isMma2 = none ∧ 1 ∈ State.pairRow 0 ∧
       ∀ r ∈ State.pairRow 0, trapsPlainlyAt s r 0 Cause.pairTimeout = true) ∧
    (let s := lateRow
     s.firstJob 0 MatOp.isMma2 = some ⟨0, .mma2 (g 0) 1 false 9 0, 0, false⟩ ∧ 0 + 2 ^ 20 ≤ s.liveCycles 0 ∧
       s.firstJob 15 MatOp.isMma2 = some ⟨0, .mma2 (g 0) 1 false 9 0, 2 ^ 20, false⟩ ∧
       ∀ r ∈ State.pairRow 0, s.atHead r MatOp.isMma2 = true ∧ trapsPlainlyAt s r 0 Cause.pairTimeout = true) ∧
    (let s := (withOp (.brot false)).modGang 0 (fun x => { x with live := 2 ^ 20, ring := 2 })
     s.trussRing 0 = [0, 1] ∧ s.firstJob 0 (MatOp.isBrot false) = some ⟨0, .brot false, 0, false⟩ ∧ 0 + 2 ^ 20 ≤ s.liveCycles 0 ∧
       s.firstJob 1 (MatOp.isBrot false) = none ∧
       ∀ r ∈ s.trussRing 0, trapsPlainlyAt s r 0 Cause.pairTimeout = true) := by decide +kernel
/-! ### Requests, messages, counters, events -/

/-- The address word of a byte of span 0's scratchpad. -/
def spWord (a : Nat) : Word := BitVec.ofNat 64 (2 ^ 48 + a)

/-- A state whose scratchpad holds words from byte 0 on. -/
def withBlock (l : List Word) : State :=
  (regs3 0 0 0).modSpan 0 (fun x => { x with sp := (List.range l.length).foldl (fun m i => m.write (8 * i) 8 (l.getD i 0).toNat) x.sp })

/-- Whether the premises of KicksStartAndDrain hold of a kind of request whose block is at byte 0 of the scratchpad. -/
def kickReady (s : State) (kind : ReqKind) : Bool :=
  !(s.reg (g 0)).p && s.me.out.isEmpty && !s.posting &&
    okWith ((s.meetBlock .sp (s.reg (g 0)).v).readBlock .sp (s.reg (g 0)).v) (fun y => let u := y.2.2
      !y.2.1 && (firstBad (fieldsOk kind y.1)).isNone && (u.placeOutside (u.tenantOf u.me) kind y.1).isNone &&
        (u.ownCheck (u.tenantOf u.me) kind y.1).isNone && !u.foreignDst kind y.1 && decide (u.mailUsed u.core < 64))

/-- KicksStartAndDrain: a request of every kind, one to global memory in a replayable superstep, a source in global memory of a user
thread, which the tenant's tables map; a mailbox without room; a streamer with room and one without; kicks that have
not posted. -/
theorem witness_KicksStartAndDrain :
    (kickReady (withBlock [spWord 0x1000, spWord 0x2000, 8]) .copy = true ∧
      kickReady (withBlock [spWord 0x1000, spWord 0x2000, 1, 0x10]) .conv = true ∧
      kickReady (withBlock [spWord 0x1000, spWord 0x2000, 1, 0, spWord 0x3000]) .script = true ∧
      kickReady (withBlock [0x4000000000000#64, spWord 0x2000, 32, 1]) (.sela true) = true ∧
      kickReady (withBlock [spWord 0x1000, 0x200000, 8, 0x10000000]) .remPut = true ∧
      kickReady (withBlock [spWord 0x1000, 0x200000, 8, 0x10000000]) .remAddmx = true) ∧
    (let s := (withBlock [spWord 0x1000, 0x200000, 8]).modGang 0 (fun x => { x with replay := true })
     kickReady s .copy = true ∧ s.inReplay = true ∧ (0x200000 : Word).extractLsb' 48 3 = 0) ∧
    (let s := withBlock [0x200000, spWord 0x2000, 8]
     kickReady s .copy = true ∧ locOf 0x200000 = some ⟨.gl, 0, 0x200000⟩ ∧ s.tenantOf s.me = some 0 ∧ (s.walk 0 0x200000).isSome = true) ∧
    (let s := (withBlock [spWord 0x1000, spWord 0x2000, 8]).modCore 0 (fun x => { x with reserved := 64 })
     64 ≤ s.mailUsed 0 ∧ s.pendingStatus 0 0 = none) ∧
    (let v := withMe (fun t => { t with wait := .stall .mailroom, held := some (.xcopy (g 1) (g 0) 1 7) })
     v.me.stat = .issued ∧ v.me.wait = .stall .mailroom ∧ v.mayIssue v.me = true) ∧
    st.me.kicks = [] ∧ (withMe (fun t => { t with kicks := [1] })).me.kicks ≠ [] := by decide +kernel

/-- A copy of a word within the scratchpad of span 0. -/
def copyReq : Req :=
  { kind := .copy, blk := [spWord 0x1000, spWord 0x2000, 8], ticket := 1, tag := 7, core := 0, ctx := 0, gang := some 0,
    tenant := some 0, rm := 0, sc := 0, host := none, step := 0 }

theorem witness_StreamerStarts :
    (let s := withSpan (fun x => { x with queue := [copyReq] })
     (s.spanAt 0).queue = copyReq :: [] ∧ (s.spanAt 0).running.length < 8 ∧ copyReq.kind ≠ .remPut ∧ copyReq.kind ≠ .remAddmx) ∧
    (let s := withSpan (fun x => { x with queue := [copyReq], running := List.replicate 8 copyReq })
     (s.spanAt 0).queue = copyReq :: [] ∧ 8 ≤ (s.spanAt 0).running.length) := by decide +kernel

/-- RequestsComplete: a copy within the scratchpad, and one of a supervisor thread to global memory. -/
theorem witness_RequestsComplete_copy :
    (let s := withSpan (fun x => { x with running := [copyReq] })
     (s.spanAt 0).running[0]? = some copyReq ∧ locOf (blkWord copyReq.blk 0) = some ⟨.sp, 0, 0x1000⟩ ∧
       locOf (blkWord copyReq.blk 1) = some ⟨.sp, 0, 0x2000⟩ ∧
       (blkWord copyReq.blk 2).extractLsb' 0 32 = BitVec.ofNat 32 (8 * 1) ∧ 0x2000 + 8 * 1 ≤ spaceSize .sp ∧ 0x1000 + 8 * 1 ≤ 0x2000) ∧
    (let q : Req := { copyReq with blk := [spWord 0x1000, 0x400000, 8], gang := none, tenant := none }
     locOf (blkWord q.blk 1) = some ⟨.gl, 0, 0x400000⟩ ∧
       (List.range 8).all (fun j => st.populated (0x400000 + j) && !inCwin (0x400000 + j)) = true ∧
       (st.localMem .sp 0).poison 0x1000 = false) := by decide +kernel

/-- RequestsComplete: a conversion of one element; a script of one MOVE of two elements, its step at byte 0 of the scratchpad; a
selection from the accumulators into an area of one entry. -/
theorem witness_RequestsComplete_others :
    (let b : List Word := [spWord 0x1000, spWord 0x2000, 1, 0x10]
     SFmt.ofCode ((blkWord b 3).extractLsb' 0 4).toNat = .scalar .f32 ∧
       (∃ td, SFmt.ofCode ((blkWord b 3).extractLsb' 4 4).toNat = .scalar td) ∧ (blkWord b 2).extractLsb' 0 32 = BitVec.ofNat 32 1) ∧
    (let b : List Word := [spWord 0x1000, spWord 0x2000, 1, 0, spWord 0]
     let s := withBlock [BitVec.ofNat 64 (3 + 2 * 2 ^ 4 + 4 * 2 ^ 20)]
     let step : Word := BitVec.ofNat 64 ((s.localMem .sp 0).read 0 8)
     (blkWord b 2).extractLsb' 0 6 = 1 ∧ locOf (blkWord b 4) = some ⟨.sp, 0, 0⟩ ∧ 8 ≤ spaceSize .sp ∧
       (s.localMem .sp 0).anyPoison 0 8 = false ∧
       stepOk [step] 0 (decide (blkWord b 5 ≠ 0) && (locOf (blkWord b 5)).isSome) = true ∧ step.extractLsb' 0 4 = 3 ∧
       (step.extractLsb' 4 16).toNat = 2 ∧ (step.extractLsb' 20 24).toInt = 4) ∧
    (let b : List Word := [0x4000000000000, spWord 0x2000, 32, 1]
     locOf (blkWord b 0) = some ⟨.cb, 0, 0⟩ ∧ ((blkWord b 2).extractLsb' 0 15).toNat = 32 ∧ ((blkWord b 3).extractLsb' 0 9).toNat = 1 ∧
       4 * 32 ≤ spaceSize .cb ∧ 0x2000 + (16 + 8 * 1) ≤ spaceSize .sp) := by
  refine ⟨⟨by decide, ⟨_, rfl⟩, by decide⟩, by decide +kernel, by decide +kernel⟩

/-- MessageInstructions: a target in the sub-mesh, an arrival with room and without, a message that matches and none, a
notification. -/
theorem witness_MessageInstructions :
    let m : Msg := ⟨5, 7⟩
    let f : MsgFlight := ⟨0, 0, false, some 0, some 0, 0, m⟩
    (let s := regs3 1 9 0
     (s.reg (g 0)).v.toNat < 2 ^ 14 ∧ s.inSubmesh (s.tenantOf s.me) 1 = true ∧ s.inReplay = false ∧ s.me.out = [] ∧ s.posting = false) ∧
    (let s : State := { withMe (fun t => { t with wait := .stall .answer, held := some (.msend (g 1) (g 0) (g 2) 7) }) with msgs := [f] }
     s.msgs[0]? = some f ∧ (s.spanAt (spanOf f.target)).tenant = f.tenant ∧ (s.thread f.core f.ctx).wait = .stall .answer ∧
       (s.thread f.core f.ctx).held = some (.msend (g 1) (g 0) (g 2) 7) ∧ s.mailUsed f.target < 64 ∧ s.refusesMail f.target = false ∧
       64 ≤ (s.modCore 0 (fun x => { x with reserved := 64 })).mailUsed f.target) ∧
    (let s := (regs3 0 0 0).modCore 0 (fun x => { x with mail := [m] })
     (s.mailFor s.core s.ctx).find? (fun x => x.matches 0 0) = some m) ∧
    (st.mailFor 0 0).find? (fun x => x.matches 0 0) = none ∧ st.pendingStatus 0 0 = none ∧
    (let s : State := { st with notes := [m] }
     s.notes = m :: [] ∧ s.supMail.length < 64) := by decide +kernel

/-- CounterFileInstructions: an operand in range, posts that arrive and that are dropped, from a thread and from outside; a counter
before and at its target; a post of the thread itself to the counter and a load of it through the window; a post behind another of its
record. -/
theorem witness_CounterFileInstructions :
    (let s := regs3 (1 + 3 * 2 ^ 14) 9 0
     (s.reg (g 0)).v.toNat < 2 ^ 22 ∧ s.inSubmesh (s.tenantOf s.me) ((s.reg (g 0)).v.toNat % 2 ^ 14) = true ∧ s.inReplay = false ∧
       s.me.out = [] ∧ s.posting = false) ∧
    (let p : PostFlight := ⟨some 0, some 0, none, none, 1, 3, 9⟩
     let q : PostFlight := ⟨some 1, none, none, some 7, 1, 3, 9⟩
     let s : State := { st with posts := [p, q] }
     s.posts[0]? = some p ∧ p.rec_ = none ∧ (∀ x ∈ s.posts.take 1, x.rec_ ≠ q.rec_) ∧ (s.spanAt (spanOf p.core)).tenant = p.tenant ∧ (s.coreAt p.core).threads = [] ∧
       s.posts[1]? = some q ∧ q.tenant ≠ none ∧ (s.spanAt (spanOf q.core)).tenant ≠ q.tenant) ∧
    ((st.spanAt (spanOf 1)).tenant = some 0 ∧ (st.spanAt (spanOf 8)).tenant ≠ some 0) ∧
    (let s := regs3 3 1 0
     (s.reg (g 0)).v.toNat < 256 ∧ (s.counterAt s.core 3 - 1).toInt < 0 ∧ 0 ≤ (s.counterAt s.core 3 - 0).toInt ∧
       (s.meetWindow (.thread s.core s.ctx) s.core 3).pendingStatus s.core s.ctx = none ∧ s.posts = [] ∧
       s.mustFollow .gl (State.windowAddr s.core 3) 8 = false ∧
       (s.modMe (fun t => { t with out := [Access.plain (.load false) .gl 0 (State.windowAddr 0 3) (0, 1) 8 0 Val.zero] })).mustFollow .gl
         (State.windowAddr s.core 3) 8 = true) ∧
    (let q : PostFlight := ⟨some 1, none, none, some 7, 1, 3, 9⟩
     let s : State := { st with posts := [q, q] }
     s.posts[1]? = some q ∧ ¬ (q.rec_ = none ∨ ∀ x ∈ s.posts.take 1, x.rec_ ≠ q.rec_)) ∧
    (let s : State := { regs3 3 1 0 with posts := [⟨some 0, some 0, some (0, 0), none, 0, 3, 9⟩] }
     ∃ p ∈ s.posts, p.by_ = some (s.core, s.ctx) ∧ p.core = s.core ∧ p.idx = 3) := by decide +kernel

/-- EventUnitInstructions: a barrier of two cores at its first and its last arrival, a line at its target and before, waits that
have timed out, a mutex that is free, another's and the thread's own. -/
theorem witness_EventUnitInstructions :
    (let bars : SMap Bar := [(0, ⟨1, 2, 0, 1⟩), (1, ⟨1, 2, 1, 0⟩)]
     let mutexes : SMap Mutex := [(0, ⟨some (0, 0), [], false⟩), (1, ⟨some (0, 1), [], false⟩)]
     let s := (regs3 0 1 0).modSpan 0 (fun x => { x with bars := bars, lines := [(0, 1)], mutexes := mutexes })
     s.me.out = [] ∧ s.posting = false ∧ (s.barAt 0 0).count ≠ 0 ∧ (s.barAt 0 0).mask.getLsbD (coreOffset s.core) = true ∧
       (s.barAt 0 0).arr + 1 = (s.barAt 0 0).count ∧ (s.barAt 0 1).arr + 1 ≠ (s.barAt 0 1).count ∧
       0 ≤ (s.lineAt 0 0 - (s.reg (g 1)).v.extractLsb' 0 32).toInt ∧ (s.lineAt 0 1 - (s.reg (g 1)).v.extractLsb' 0 32).toInt < 0 ∧
       1 ≤ ((s.barAt 0 1).p - (s.reg (g 0)).v.extractLsb' 0 16).toInt ∧
       ((s.barAt 0 1).p - (s.reg (g 1)).v.extractLsb' 0 16).toInt < 1 ∧ s.pendingStatus s.core s.ctx = none ∧
       1 ≤ (s.reg (g 1)).v.toNat ∧ (s.reg (g 1)).v.toNat ≤ 4096 ∧ (s.barAt 0 1).arr = 0 ∧
       (s.mutexAt 0 0).owner = some (s.core, s.ctx) ∧ (s.mutexAt 0 1).owner = some (0, 1) ∧ (s.mutexAt 0 2).owner = none ∧
       trapsPlainly s Cause.access = true) ∧
    (let s : State := { withMe (fun t => { t with stat := .parked, wait := .bar (g 1) 0 0 (some 5) }) with clock := 6 }
     s.clock > 5 ∧ (s.thread 0 0).stat = .parked ∧ (s.thread 0 0).wait = .bar (g 1) 0 0 (some 5)) ∧
    (let s : State := { withMe (fun t => { t with stat := .parked, wait := .line (g 1) 0 1 (some 5) }) with clock := 6 }
     s.clock > 5 ∧ (s.thread 0 0).stat = .parked ∧ (s.thread 0 0).wait = .line (g 1) 0 1 (some 5)) := by decide +kernel

/-- The gang's one thread stands at the collective, and its span has reported. -/
def arrivedAt (want : Option Bool) : State :=
  (withMe (fun t => { t with stat := .parked, wait := .collective (g 1) want })).modSpan 0 (fun x => { x with reported := true })

/-- CollectivesAndStall. -/
theorem witness_CollectivesAndStall :
    (st.gangOf st.me = some gang0 ∧ st.me.out = [] ∧ st.posting = false ∧ gang0.replay = false ∧ st.pendingStatus st.core st.ctx = none) ∧
    (let s := arrivedAt (some true)
     (s.spanAt 0).gang = some 0 ∧ (∀ c ∈ spanCores 0, c ∈ gang0.cores → (s.coreAt c).mx.seq = []) ∧
       (∀ x ∈ s.threadsOn 0 (spanCores 0), (s.thread x.1 x.2).live = true → (s.thread x.1 x.2).arrived = true) ∧
       s.gangAt 0 = some gang0 ∧ gang0.stat = .running ∧ gang0.rolling = false ∧
       (s.threadsOn 0 gang0.cores).filter (fun x => (s.thread x.1 x.2).live) = [(0, 0)] ∧ (s.thread 0 0).arrived = true ∧
       (∀ n ∈ gang0.spans, (s.spanAt n).reported = true) ∧ (s.thread 0 0).wait = .collective (g 1) (some true)) ∧
    (let s := ((arrivedAt none).modGang 0 (fun x => { x with replay := true })).modCore 0 (fun x =>
       { x with mx := { x.mx with seq := [⟨1, .mma 1 false 9 0, 0, false⟩] } })
     (s.spanAt 0).gang = some 0 ∧ s.gangAt 0 = some { gang0 with replay := true } ∧ 0 ∈ spanCores 0 ∧ 0 ∈ gang0.cores ∧
       (s.coreAt 0).mx.seq ≠ [] ∧
       ∀ x ∈ s.threadsOn 0 (spanCores 0), (s.thread x.1 x.2).live = true → (s.thread x.1 x.2).arrived = true) ∧
    (let s := (arrivedAt none).modGang 0 (fun x => { x with stall := 100 })
     s.gangAt 0 = some { gang0 with stall := 100 } ∧ gang0.stallT ≤ 100 ∧ (s.stallReason 0 0).isSome = true ∧
       (∀ x ∈ s.threadsOn 0 gang0.cores, (s.thread x.1 x.2).owner = .gang 0)) := by decide +kernel

/-- RollbackRestoresTheSnapshot: a requested rollback with a thread that waits for a version, one whose store must come first, one
gang that has come to a halt, and one that has not. -/
theorem witness_Rollback :
    let r : Gang := { gang0 with rolling := true, replay := true, snap := some ⟨[], [], []⟩ }
    (let s := (withMe (fun t => { t with wait := .stall .version })).modGang 0 (fun _ => r)
     s.gangAt 0 = some r ∧ r.rolling = true ∧ State.withdraws (s.thread 0 0) = true) ∧
    (let s := (withMe (fun t => { t with wait := .stall .order })).modGang 0 (fun _ => r)
     State.mustRetire (s.thread 0 0) = true ∧ (s.coreAt 0).mx.seq = []) ∧
    (let s := (withMe (fun t => { t with stat := .ready })).modGang 0 (fun _ => r)
     r.snap = some ⟨[], [], []⟩ ∧ (([] : List (Nat × Word)).all (fun e => decide (e.1 + 8 ≤ Config.cwinBase))) = true ∧ r.abortLate = false ∧ s.halted 0 r = true ∧ (s.coreAt 0).threads.all (fun e => decide (e.2.owner ≠ .sup)) = true) ∧
    (let s := (withMe (fun t => { t with wait := .stall .vector })).modGang 0 (fun _ => r)
     s.halted 0 r = false) := by decide +kernel

/-- The gang is sibling 0 of group slot 0, whose group has two siblings, with a threshold of 1 or 2. -/
def withGroup (t : Nat) (stat : BStat) : State :=
  { (regs3 1 0 0).modGang 0 (fun x => { x with group := some 0 }) with groups := [(0, { Group.free with stat := stat, n := 2, t := t })] }

/-- GroupAndDrawInstructions: votes that decide and that do not, operands of GCANCEL and GSTAT, a cancel under way, a convoy
that is short and one that is not, a thread that waits to draw. -/
theorem witness_GroupAndDraw :
    (let s := withGroup 2 .opened
     State.groupIndex { gang0 with group := some 0 } = some 0 ∧ s.gangOf s.me = some { gang0 with group := some 0 } ∧
       ((s.groupAt 0).vote 0 1 false).1.stat = .opened ∧ ((s.groupAt 0).vote 0 1 false).1.cxl.getLsbD 0 = false ∧
       s.pendingStatus s.core s.ctx = none ∧ (s.reg (g 0)).v.toNat < 2 ^ (s.groupAt 0).n ∧ s.me.out = [] ∧ s.posting = false) ∧
    (let s := withGroup 1 .opened
     ((s.groupAt 0).vote 0 1 false).1.stat ≠ .opened) ∧
    (let s := withGroup 2 .opened
     s.tenantOf s.me = some 0 ∧ (s.reg (g 1)).v = BitVec.ofNat 64 (0 + 0 * 2 ^ 16) ∧ (s.groupAt (64 * 0 + 0)).stat ≠ .free ∧
       0 < (s.groupAt 0).n ∧ (s.groupAt 0).n ≤ 2 ∧ trapsPlainly s Cause.range = true ∧ (s.groupAt 1).stat = .free) ∧
    (let s : State := { st with cancels := [⟨0, 0⟩] }
     s.cancels.find? (fun x => decide (x.core = 0)) = some ⟨0, 0⟩ ∧ s.holder 0 = some 0 ∧ (s.gangAt 0).any Gang.onCores = true) ∧
    Gang.onCores { gang0 with stat := .restoring } = false ∧
    (let s := regs3 1 2 0
     (s.reg (g 0)).v.toNat < 2 ^ 24 ∧ (s.reg (g 1)).v.toNat < 2 ^ 32 ∧ s.convoyBefore < 4 ∧ s.cancelled s.core s.ctx = false) ∧
    (let s := (withGroup 2 .opened).modMyCore (fun x => { x with cancel := true })
     s.cancelled s.core s.ctx = true ∧ s.gangOf s.me = some { gang0 with group := some 0 }) ∧
    (let s := withCore (fun x => { x with convoy := [0, 1, 2, 3, 4] })
     4 ≤ ({ s with ctx := 4 } : State).convoyBefore) ∧
    (let s := (withCore (fun x => { x with drawQ := [0] })).modMe
       (fun t => { t with stat := .parked, wait := .draw, held := some (.draw (g 1) (g 0) (g 2) true) })
     0 ∈ (s.coreAt 0).drawQ ∧ (∀ j ∈ (s.coreAt 0).drawQ, 0 ≤ j) ∧ (s.thread 0 0).wait = .draw ∧
       (s.thread 0 0).held = some (.draw (g 1) (g 0) (g 2) true)) := by decide +kernel
/-! ### Launches, pages, the supervisor, the scheduler -/

/-- Page tables and memory with a kernel descriptor at 0x201000, launch records at 0x202000 and 0x202040, a shared page at
0x400000, a host ring at 0x500000 with one record, and a list at 0x203000. -/
def memR : Memory :=
  [(0x401000, 0x40000), (0x401008, 0x40), (0x402000, 0x201000), (0x402008, 0x200000), (0x402038, 0xFFFFFFFF),
    (0x402040, 0x204000 + 2 ^ 48), (0x402078, 0xFFFFFFFF), (0x404000, 2 ^ 48 + 0x1000), (0x404008, 2 ^ 48 + 0x2000), (0x404010, 8),
    (0x402080, 0x203000 + 2 ^ 50), (0x4020B8, 0xFFFFFFFF), (0x102010, 0x60001E), (0x500000, 0x201000), (0x500008, 0x200000),
    (0x500038, 0xFFFFFFFF)].foldl (fun m e => m.write e.1 8 e.2) mem0

/-- The words of a launch record by its physical address. -/
def recordAt (pa : Nat) : List Word := (List.range 8).map (fun i => BitVec.ofNat 64 (memR.read (pa + 8 * i) 8))

/-- The state with that memory. -/
def stR (x y z : Word) : State := { regs3 x y z with mem := memR }

/-- LAUNCH of the record at 0x202000: it passes its checks; in an aborting gang, in a replayable superstep and with a full queue
too. -/
theorem witness_LaunchAndTrigger :
    let test (f : Gang → Gang) (p : Gang → Bool) : Bool :=
      let s := (stR 0x202000 0 0).modGang 0 f
      s.me.out.isEmpty && !s.posting && !(s.reg (g 0)).p && decide ((s.reg (g 0)).v.toNat % 64 = 0) &&
        okWith ((s.meetAs .device (fun _ => true)).checkGlobal .load (s.reg (g 0)).v.toNat) (fun y => let u := y.2
          decide (u.me.gang? = some 0) && trapsPlainly u Cause.queueFull && (match u.gangOf u.me with
            | some x => p x && okWith (u.checkRecord x.tenant ((List.range 8).map (fun i => u.physWord (y.1 + 8 * i)))
                ((List.range 8).any (fun i => u.physPoison (y.1 + 8 * i))) true) (fun _ => true)
            | none => false))
    test id (fun x => decide (x.stat ≠ .aborting) && decide (x.devq.length + x.heldRec.length < 16) && !x.replay) = true ∧
    test (fun x => { x with replay := true }) (fun x => decide (x.stat ≠ .aborting) && x.replay) = true ∧
    test (fun x => { x with devq := List.range 16 }) (fun x => decide (16 ≤ x.devq.length + x.heldRec.length)) = true := by
  refine ⟨?_, ?_, ?_⟩ <;> decide +kernel

theorem witness_LaunchAborting :
    let s := (stR 0x202000 0 0).modGang 0 (fun x => { x with stat := .aborting })
    okWith ((s.meetAs .device (fun _ => true)).checkGlobal .load 0x202000) (fun y => let u := y.2
      (match u.gangOf u.me with
        | some x => decide (x.stat = .aborting) && okWith (u.checkRecord x.tenant ((List.range 8).map (fun i => u.physWord (y.1 + 8 * i)))
            ((List.range 8).any (fun i => u.physPoison (y.1 + 8 * i))) true) (fun _ => true)
        | none => false)) = true ∧
    (∀ x, st.gangOf st.me = some x → x.replay = false) ∧
    (withGang (fun x => { x with replay := true })).gangOf st.me = some { gang0 with replay := true } := by
  refine ⟨by decide +kernel, ?_, by decide⟩
  intro x h
  have e : some gang0 = some x := h
  cases e
  rfl

/-- The shared page at 0x400000 as a reference. -/
def page0 : PageRef := ⟨0x400000, 2 ^ 21, 0x102010⟩

/-- PageInstructions: a poisoned operand; a page not yet referred to, one referred to once and twice. -/
theorem witness_PageReferences :
    let test (refs : List PageRef) (n : Nat) : Bool :=
      let s : State := { (stR 0x400010 0 0).modGang 0 (fun x => { x with refs := refs }) with
        mem := memR.write 0x102010 8 (0x60001E + n * 2 ^ 48) }
      okWith (s.pageRead 0x400010) (fun u =>
        u.me.out.isEmpty && !u.posting && !u.inReplay && decide (u.me.gang? = some 0) && (match u.gangOf u.me, u.pageOf 0 0x400010 with
          | some x, some (p, e) => decide (p = page0) && decide (x.refs = refs) && decide ((e.extractLsb' 4 2).toNat = 1) &&
              decide ((e.extractLsb' 48 16).toNat = n) && decide (((u.physWord p.entry).extractLsb' 48 16).toNat = n) &&
              decide (p.entry + 8 ≤ Config.cwinBase)
          | _, _ => false))
    test [] 0 = true ∧ test [page0] 1 = true ∧ test [page0] 2 = true ∧
    (let s := withRegs [(10, ⟨0, true⟩)]
     (s.reg (g 0)).p = true ∧ trapsPlainly s Cause.poisonConsumed = true) := by
  refine ⟨?_, ?_, ?_, ?_⟩ <;> decide +kernel

/-- Invalidations, a table entry of the first level, and the last invalidation in flight of either kind, which may complete. -/
theorem witness_PageInstructions :
    (let s := stR 0x400000 0 0
     (s.reg (g 0)).v.toNat < 2 ^ 52 ∧ s.me.out = [] ∧ s.posting = false ∧ s.invals.length < 16 ∧ (s.reg (g 1)).v.toNat < 2 ^ 22 ∧
       s.inSubmesh (some ((s.reg (g 0)).v.extractLsb' 48 4).toNat) ((s.reg (g 1)).v.toNat % 2 ^ 14) = true ∧
       (s.reg (g 1)).v.extractLsb' 0 2 = 0 ∧ s.tenantAt 0 = some tenant0 ∧
       s.entryAddr 0x400000 [1, 2, 3, 4] 1 tenant0.root = some 0x100000 ∧ 0x100000 + 8 ≤ Config.cwinBase) ∧
    (let i : Inval := ⟨0, some 0x400000, false, some 5, false⟩
     let j : Inval := ⟨0, some 0x400000, false, none, true⟩
     let s : State := { st with invals := List.replicate 15 i ++ [j] }
     s.invals[14]? = some i ∧ s.invals[15]? = some j ∧ s.quiet i = true ∧ s.quiet j = true) := by decide +kernel

/-- A supervisor thread with registers, and a halted thread of the gang in context 1. -/
def supSt (x y : Word) : State :=
  ((((stR x y 0).modMe (fun t => { t with owner := .sup, priv := true })).modThread 0 1 (fun _ =>
    { thread0 with stat := .halted, tpc := 0x40000 }))).modGang 0 id

/-- ContextSaveAndLoad: a thread that is halted and one that is not; a running gang, one that is not, a swapped one whose place is
free and is not, and one that is rolled back. -/
theorem witness_ContextSaveAndLoad :
    (let s := supSt (2 ^ 14) 0
     s.me.out = [] ∧ s.posting = false ∧ s.me.stat = .issued ∧ (s.reg (g 0)).v.toNat < 2 ^ 31 ∧ s.target (s.reg (g 0)).v = .found 0 1 ∧
       (s.thread 0 1).stat = .halted ∧ s.recordOf 0 1 = some 0x40000000 ∧ 0x40000000 + 1024 ≤ Config.cwinBase) ∧
    (let s := (supSt (2 ^ 14) 0).modThread 0 1 (fun t => { t with stat := .ready })
     s.target (s.reg (g 0)).v = .found 0 1 ∧ (s.thread 0 1).stat ≠ .halted) ∧
    (let s := supSt 0 0
     (s.reg (g 0)).v = BitVec.ofNat 64 0 ∧ s.gangAt 0 = some gang0 ∧ gang0.stat = .running ∧ gang0.rolling = false ∧ (s.reg (g 1)).v.toNat < 2 ^ 22 ∧
       (s.acceptPreempt 0 gang0 []).isSome = true ∧ (s.acceptPreempt 0 gang0 [0]).isSome = true) ∧
    (let x : Gang := { gang0 with stat := .swapped, image := some ⟨[], [], []⟩ }
     let s := ((supSt 0 0).modGang 0 (fun _ => x)).modSpan 0 (fun y => { y with gang := none })
     s.gangAt 0 = some x ∧ x.stat ≠ .running ∧ x.stat = .swapped ∧ x.rolling = false ∧ s.canRestore 0 x = true ∧
       (s.modSpan 0 (fun y => { y with gang := some 1 })).canRestore 0 x = false) ∧
    (let x : Gang := { gang0 with rolling := true }
     ((supSt 0 0).modGang 0 (fun _ => x)).gangAt 0 = some x ∧ x.rolling = true) ∧
    (thread0.pcOff < 1024 ∧ thread0.tpc.toNat < 2 ^ 42 ∧ thread0.rmode &&& 0x3F03 = thread0.rmode) := by
  refine ⟨by decide +kernel, by decide +kernel, by decide +kernel, by decide +kernel, by decide +kernel, by decide +kernel⟩

/-- InjectAndSret: a word of the scratchpad and of HBM, a target that is found, done, guarded and missing; a halted thread whose
block can be read, inside it and past its end; a gang with a trap block and without, a missing gang. -/
theorem witness_InjectAndSret :
    (let s := supSt (spWord 8) 0
     s.me.out = [] ∧ s.posting = false ∧ s.me.stat = .issued ∧
       locOf (spWord 8) = some ⟨.sp, 0, 8⟩ ∧ s.injectable ⟨.sp, 0, 8⟩ = true ∧ s.injectable ⟨.gl, 0, 8⟩ = true ∧ inCwin 8 = false) ∧
    (let s := supSt (2 ^ 14) 0
     s.target (2 ^ 14) = .found 0 1 ∧ s.target (2 ^ 14 + 2 ^ 20 + 2 ^ 30) = .guarded ∧ s.target (2 ^ 15) = .missing ∧
       (s.thread 0 1).stat = .halted ∧
       okWith (s.blockLength 0 (s.tenantOf (s.thread 0 1)) ((s.thread 0 1).tpc.extractLsb' 0 32)) (fun y => decide (y.1 = 2)) = true ∧
       ((s.thread 0 1).tpc.extractLsb' 32 10).toNat < 2 ∧ s.gangOf (s.thread 0 1) = some gang0 ∧ gang0.trap = 0 ∧
       (s.thread 0 1).gang? = some 0 ∧ s.gangAt 0 = some gang0 ∧ gang0.stat = .running ∧ gang0.rolling = false ∧ s.gangAt 1 = none) ∧
    (let s := (supSt (2 ^ 14) 0).modThread 0 1 (fun t => { t with tpc := 0x40000 + 2 ^ 33 })
     2 ≤ ((s.thread 0 1).tpc.extractLsb' 32 10).toNat) ∧
    (let s := (supSt (2 ^ 14) 0).modGang 0 (fun x => { x with trap := 0x40000 })
     s.gangOf (s.thread 0 1) = some { gang0 with trap := 0x40000 } ∧ (s.thread 0 1).ih = false) ∧
    (let s := (supSt (2 ^ 14) 0).modThread 0 1 (fun t => { t with stat := .done })
     s.target (2 ^ 14) = .found 0 1 ∧ (s.thread 0 1).stat = .done) := by
  refine ⟨by decide +kernel, by decide +kernel, by decide +kernel, by decide +kernel, by decide +kernel⟩

/-- A tenant record: one span, its page table at 0x100000, a pool of 1 MiB at 0x40000000, and at 0x300040 an expert entry. -/
def memT : Memory :=
  [(0x300000, 0), (0x300008, 0x100000), (0x300010, 0x40000000), (0x300018, 1), (0x300040, 0), (0x300048, 1 + 31 * 2 ^ 24)].foldl
    (fun m e => m.write e.1 8 e.2) Memory.empty

/-- TenantAndLocationTables: a busy tenant, one that is not, with a record that overlaps and one that does not, and an entry. -/
theorem witness_TenantAndLocationTables :
    (let s : State := { supSt 1 0x300000 with mem := memT }
     let words := (List.range 8).map (fun i => s.physWord (0x300000 + 8 * i))
     s.me.out = [] ∧ s.posting = false ∧ s.meetAs .device (fun _ => true) = s ∧ (s.reg (g 0)).v = BitVec.ofNat 64 1 ∧ s.tenantBusy 0 = true ∧ s.tenantBusy 1 = false ∧
       (s.reg (g 1)).v.toNat % 64 = 0 ∧ s.populatedRange 0x300000 64 = true ∧
       ((List.range 8).all (fun i => !s.physPoison (0x300000 + 8 * i) && (tenantOk words).getD i true)) = true ∧
       s.overlapsTenant 1 (tenantFrom words) = true ∧
       ({ s with tenants := [] } : State).overlapsTenant 1 (tenantFrom words) = false) ∧
    (let s : State := { supSt 1 0x300040 with mem := memT }
     (s.reg (g 1)).v.toNat % 16 = 0 ∧ s.meetGlobal .device 0x300040 16 = s ∧ s.populated 0x300040 = true ∧ s.physPoison 0x300040 = false ∧ s.physPoison 0x300048 = false ∧
       State.badEntry (s.physWord 0x300040) (s.physWord 0x300048) = none ∧ (s.physWord 0x300048).getLsbD 31 = false) := by
  refine ⟨by decide +kernel, by decide +kernel⟩

/-- A device in READY with a tenant and a host queue that holds one record. -/
def dev (f : HostQueue → HostQueue) : State :=
  { State.reset with
    mgmt := { Mgmt.reset with phase := .ready }, mem := memR, tenants := [(0, tenant0)],
    queues := [(0, f { HostQueue.reset with qbase := 0x500000, logsz := 2, en := true, qprod := 1 })],
    spans := [(0, { Span.idle with tenant := some 0 })] }

/-- HostQueueRegisters: values with EN clear and set, a size in range and the first on either side, a QPROD past the capacity and
within it. -/
theorem witness_HostQueueRegisters :
    (0 : Word).getLsbD 16 = false ∧ (0x10001 : Word).getLsbD 16 = true ∧ ((dev id).queueAt 0).en = true ∧
    ((dev (fun x => { x with en := false })).queueAt 0).en = false ∧ (dev id).mgmt.phase = .ready ∧ State.reset.mgmt.phase ≠ .ready ∧
    ((0x1000C : Word).extractLsb' 0 4).toNat = 12 ∧ ((0x1000D : Word).extractLsb' 0 4).toNat = 13 ∧
    ((dev id).queueAt 0).err = false ∧ 2 ^ ((dev id).queueAt 0).logsz < ((5 : Half) - ((dev id).queueAt 0).qcons).toNat ∧
    ((4 : Half) - ((dev id).queueAt 0).qcons).toNat ≤ 2 ^ ((dev id).queueAt 0).logsz := by decide +kernel

/-- A record in the pool. -/
def rec0 (pa : Nat) (behind : List Word) : FRec :=
  { mkRecord (recordAt pa ++ behind) 0 0 with q := some (0, 0), since := some 0 }

/-- SchedulerSteps, the fetch: a good record, one of KIND 5, and an index past the capacity. -/
theorem witness_RecordFetch :
    (let s := dev id
     s.mgmt.phase = .ready ∧ (s.queueAt 0).qcons ≠ (s.queueAt 0).qprod ∧ s.unadmitted 0 < 16 ∧
       okWith (s.checkRecord 0 ((List.range 8).map (fun i => s.physWord (0x500000 + 8 * i)))
         ((List.range 8).any (fun i => s.physPoison (0x500000 + 8 * i))) false) (fun _ => true) = true) ∧
    (let s := dev (fun x => { x with qbase := 0x600000 })
     okWith (s.checkRecord 0 ((List.range 8).map (fun i => s.physWord (0x600000 + 8 * i)))
       ((List.range 8).any (fun i => s.physPoison (0x600000 + 8 * i))) false) (fun _ => true) = false) ∧
    (let s := dev (fun x => { x with qprod := 5 })
     2 ^ (s.queueAt 0).logsz < ((s.queueAt 0).qprod - (s.queueAt 0).qcons).toNat) := by
  refine ⟨by decide +kernel, by decide +kernel, by decide +kernel⟩

/-- SchedulerSteps, the rest: a record that has waited long enough; a kernel, a copy and a list that may be admitted; a copy
record that runs; a choice to pre-empt. -/
theorem witness_SchedulerSteps :
    (let r := rec0 0x402000 []
     let s : State := { dev id with pool := [r], clock := 2 ^ 24 }
     s.heads = [r] ∧ s.pool = [r] ∧ r.reserving = false ∧ r.dev = none ∧ r.list = none ∧ r.q.map (·.1) = some 0 ∧ r.passed = false ∧ r.since = some 0 ∧ 0 + 2 ^ 24 ≤ s.clock) ∧
    (let test (r : FRec) : Bool :=
       let s : State := { dev id with pool := [r] }
       decide ((s.candidates.filter (fun c => !s.keptOut s.heads c)).head? = some (.record r)) && decide (r.dev = none)
     test (rec0 0x402000 [0x40000, 0x40]) = true ∧ test (rec0 0x402040 (recordAt 0x404000)) = true ∧ test (rec0 0x402080 []) = true) ∧
    (recKind (recordAt 0x402000) = 0 ∧ recKind (recordAt 0x402040) = 1 ∧ recKind (recordAt 0x402080) = 4) ∧
    (let s : State := { dev id with copies := [rec0 0x402040 (recordAt 0x404000)] }
     s.copies.find? (fun c => c.seq = 0 && !c.sent) = some (rec0 0x402040 (recordAt 0x404000))) := by
  refine ⟨by decide +kernel, by decide +kernel, by decide +kernel, by decide +kernel⟩

theorem witness_AdmitKernel :
    (let r := rec0 0x402000 [0x40000, 0x40]
     let s : State := { dev id with pool := [r] }
     (s.admitKernel r).isSome) = true := by decide +kernel
/-- SchedulerSteps, the choice to pre-empt: a reserving record whose tenant has one span, held by a running gang of lower
priority. -/
theorem witness_PreemptChoice :
    (let r : FRec := { rec0 0x402000 [0x40000, 0x40] with prio := 1, reserving := true }
     let ts : SMap Tenant := [(0, { tenant0 with sw := 1, sh := 1 })]
     let spans : SMap Span := [(0, { Span.idle with tenant := some 0, gang := some 0 })]
     ({ dev id with pool := [r], tenants := ts, gangs := [(0, gang0)], spans := spans } : State).preemptChoice) = some [(0, gang0)] := by decide +kernel

/-! ### Lists, gangs, ports, the host, bring-up -/

/-- A list that stands at an entry of four words. -/
def listAt (e : List Word) (f : Walker → Walker) : State :=
  { dev id with
    walker := 1, walkers := [f ⟨1, 0, 0, recordAt 0x402080, 0, 0, 0x203000, [], [], []⟩],
    mem := (List.range e.length).foldl (fun m i => m.write (0x403000 + 8 * i) 8 (e.getD i 0).toNat) memR }

/-- A list whose entry has an OP. -/
def listReady (s : State) (n : Nat) : Bool :=
  match s.walker? with
  | some w => (match s.listEntry w with
    | some e => decide ((blkWord e 0).extractLsb' 0 4 = BitVec.ofNat 4 n)
    | none => false)
  | none => false

/-- ListEntries: an entry of each OP; LAUNCH of a record that passes and of one that does not. -/
theorem witness_ListEntries : listReady (listAt [1, 0x202000] id) 1 = true ∧ listReady (listAt [2 + 3 * 2 ^ 18, 1] id) 2 = true ∧
    listReady (listAt [3 + 2 ^ 8, 0x200000] id) 3 = true ∧ listReady (listAt [4, 0x203000] id) 4 = true ∧
    listReady (listAt [5, 0x203000] id) 5 = true ∧ listReady (listAt [6] (fun w => { w with stack := [0x203000] })) 6 = true ∧
    listReady (listAt [7 + 2 ^ 26, 1] id) 7 = true ∧ listReady (listAt [8] (fun w => { w with subs := [4] })) 8 = true ∧
    listReady (listAt [9, 0x200000] (fun w => { w with images := List.replicate 8 (0, []) })) 9 = true := by decide +kernel

/-- ListEntries: a post of the list to the counter of a WAITC, none to the word of a SKIPIF, a fence whose launches are done and one with
a post of its tenant's under way. -/
theorem witness_ListPosts :
    let p (r : Nat) : PostFlight := ⟨some 0, none, none, some r, 0, 3, 1⟩
    let s (r : Nat) : State := { listAt [2 + 3 * 2 ^ 18, 1] id with posts := [p r] }
    (∃ x ∈ (s 1).posts, x.rec_ = some 1 ∧ x.core = 0 ∧ x.idx = 3) ∧ (¬ ∃ x ∈ (s 2).posts, x.rec_ = some 1 ∧ x.core = 0 ∧ x.idx = 3) ∧
    (∀ x ∈ (s 1).posts, x.rec_ = none ∨ x.rec_ = some 1 ∨ x.tenant ≠ some 0) ∧
    ¬ ∀ x ∈ (s 2).posts, x.rec_ = none ∨ x.rec_ = some 1 ∨ x.tenant ≠ some 0 := by decide
theorem witness_ListLaunch : okWith ((dev id).checkRecord 0 (recordAt 0x402000) false false) (fun _ => true) = true ∧
    okWith ((dev id).checkRecord 0 ((recordAt 0x402000).set 4 (2 ^ 63)) false false) (fun _ => true) = false ∧
    ((dev id).tenantWords 0 0x202000 8).map (fun r => r.2) = some false := by decide +kernel

/-- A counter at its target and before it, inside and outside the sub-mesh. -/
theorem witness_ListWait : (dev id).inSubmesh (some 0) 0 = true ∧ ((dev id).counterAt 0 3 - 1).toInt < 0 ∧
    0 ≤ ((dev id).counterAt 0 3 - 0).toInt ∧
    ({ dev id with tenants := [(0, { tenant0 with sx := 1, sw := 1 })] } : State).inSubmesh (some 0) 0 = false := by decide +kernel

/-- The device with nothing in memory but page tables. -/
def bare (f : Memory → Memory) : State :=
  { dev id with mem := f (((Memory.empty.write 0x100000 8 0x101001).write 0x101000 8 0x102001).write 0x102008 8 0x40000E) }

/-- A table image that is clean, poisoned and untranslated. -/
def imageWords (s : State) (va : Nat) : Option (Bool × Bool) :=
  (s.tenantWords 0 va 192).map (fun r => (r.2, (List.range 64).all (fun i => decide ((blkWord r.1 (3 * i + 2)).extractLsb' 55 9 = 0))))
theorem witness_ListTable : imageWords (bare id) 0x201008 = some (false, true) := by decide +kernel
theorem witness_ListTable_poisoned : imageWords (bare (·.setPoison 0x401008 true)) 0x201008 = some (true, true) := by decide +kernel
theorem witness_ListTable_untranslated : imageWords (bare id) 0x10000000 = none := by decide +kernel

/-- ListEntries: a table image with a reserved bit in an action; a word of SKIPIF that is poisoned, one that is not translated, and one
that is there. -/
theorem witness_ListTable_reserved : imageWords (bare (fun m => m.write 0x401018 8 (2 ^ 63))) 0x201008 = some (false, false) := by
  decide +kernel
theorem witness_ListSkipif : ((bare id).tenantWords 0 0x200000 1).map (fun r => r.2) = some false ∧
    ((bare (·.setPoison 0x400000 true)).tenantWords 0 0x200000 1).map (fun r => r.2) = some true ∧
    ((bare id).tenantWords 0 0x10000000 1) = none ∧ ICond.ofBits ((BitVec.ofNat 64 3 : Word).extractLsb' 4 3) ≠ none := by decide +kernel

/-- GangLifecycle: a gang in each state of the statement. -/
theorem witness_GangLifecycle :
    (let x : Gang := { gang0 with stat := .starting }
     x.abortLate = false ∧ x.replay = false ∧ (withGang (fun _ => x)).gangAt 0 = some x) ∧
    (let x : Gang := { gang0 with stat := .draining }
     let s := (withGang (fun _ => x)).modMe (fun t => { t with stat := .free })
     s.gangAt 0 = some x ∧ s.gangRequests 0 = false ∧ s.posts = [] ∧ (∀ y ∈ s.threadsOn 0 x.cores, (s.thread y.1 y.2).stat = .free)) ∧
    (let x : Gang := { gang0 with stat := .halting }
     let s := (withGang (fun _ => x)).modMe (fun t => { t with stat := .ready })
     s.gangAt 0 = some x ∧ x.rolling = false ∧ s.halted 0 x = true ∧ x.replay = false) ∧
    (let x : Gang := { gang0 with stat := .halting, replay := true, snap := some ⟨[], [], []⟩ }
     let s := (withGang (fun _ => x)).modMe (fun t => { t with stat := .ready })
     s.gangAt 0 = some x ∧ x.rolling = false ∧ s.halted 0 x = true ∧ x.rolled = false ∧ x.snap = some ⟨[], [], []⟩) ∧
    (let x : Gang := { gang0 with stat := .swapping }
     (withGang (fun _ => x)).gangAt 0 = some x ∧ x.abortLate = false) ∧
    (let x : Gang := { gang0 with stat := .restoring, image := some ⟨[], [], []⟩ }
     (withGang (fun _ => x)).gangAt 0 = some x ∧ x.image = some ⟨[], [], []⟩ ∧ x.abortLate = false ∧ x.cxlLate = false) := by
  refine ⟨by decide +kernel, by decide +kernel, by decide +kernel, by decide +kernel, by decide +kernel, by decide +kernel⟩

/-- PortTraining: a port that may train and one before LINKUP; a port whose time is up and one a cycle before; capability records of a
right and a wrong version, with the port's own record accepted and not; a good flit in sequence, one that is not, a credit flit, and
a port at its last failed retry. -/
theorem witness_PortTraining :
    ((st.portAt 0).stat = .down ∧ (st.portAt 0).en = true ∧ st.mgmt.phase = .ready ∧ State.reset.mgmt.phase ≠ .linkup ∧
      State.reset.mgmt.phase ≠ .ready ∧ (State.reset.portAt 0).stat = .down) ∧
    (let s : State := { st with ports := [(0, { Port.reset with stat := .deskew }), (1, { Port.reset with stat := .equalise })] }
     (s.portAt 0).stat = .deskew ∧ (s.portAt 1).stat = .equalise ∧
       ({ s with clock := 939999 } : State).clock < (s.portAt 0).since + 940000 ∧
       (s.portAt 0).since + 940000 ≤ ({ s with clock := 940000 } : State).clock) ∧
    (let w : Word := 1 + 2 ^ 16
     let s : State := { st with ports := [(0, { Port.reset with stat := .exchange, inCaps := [w] })] }
     (s.portAt 0).stat = .exchange ∧ (s.portAt 0).inCaps.head? = some w ∧ w.extractLsb' 0 16 = 1 ∧
       w.extractLsb' 16 16 ≠ s.devnum ∧ (2 : Word).extractLsb' 0 16 ≠ 1 ∧ (s.portAt 0).unacked = [] ∧
       flitType (mkFlit 5 0 (wordBytes [1, 0, 0, 0, 0, 0, 0])) = 5) ∧
    (let f := mkFlit 3 0 (wordBytes [1, 8, 0, 0, 0, 0, 0])
     let c := mkFlit 4 0 (wordBytes [1, 0, 0, 0, 0, 0, 0])
     flitGood f = true ∧ flitSeq f = Port.reset.rxSeq ∧ flitType f = 3 ∧ flitSeq f ≠ 1 ∧ flitGood c = true ∧
       flitSeq c = Port.reset.rxSeq ∧ flitType c = 4 ∧ Port.reset.fails < 16 ∧ 16 ≤ ({ Port.reset with fails := 16 } : Port).fails) := by
  refine ⟨by decide +kernel, by decide +kernel, by decide +kernel, by decide +kernel⟩

/-- A device with an ACTIVE port that maps tenant 0. -/
def portUp (f : Port → Port) : State := { st with ports := [(0, f { Port.reset with stat := .active, tmapv := 1 })] }

/-- RemoteRequests: a write of one word that has come in, and the acknowledgement of a request. -/
theorem witness_RemoteRequests :
    (let hdr : List Word := [0x200010, 8, 7]
     let s := portUp (fun x => { x with inReqs := [(hdr, List.replicate 8 5)] })
     let h := Header.ofWords hdr
     (s.portAt 0).stat = .active ∧ (s.portAt 0).inReqs.head? = some (hdr, List.replicate 8 5) ∧ h.cmp = false ∧ h.exp = false ∧
       h.addmx = false ∧ h.len = 8 ∧ h.addr % 8 = 0 ∧ 8 ≤ (List.replicate 8 (5 : Byte)).length ∧
       okWith (s.spanTranslate (State.portSpan 0) (some h.tenant) h.addr .write) (fun y => decide (y.1 = 0x400010)) = true ∧
       inCwin 0x400010 = false) ∧
    (let q : Req := { copyReq with kind := .remPut }
     let s := portUp (fun x => { x with inAcks := [(4, 8)], reqs := [⟨4, q, 0, none⟩] })
     (s.portAt 0).inAcks.head? = some (4, 8) ∧ (s.portAt 0).fwd.find? (fun f => decide (f.num = (4 : Word).extractLsb' 0 32)) = none ∧
       (s.portAt 0).reqs.find? (fun r => decide (r.num = (4 : Word).extractLsb' 0 32)) = some ⟨4, q, 0, none⟩ ∧ q.host = none) := by
  refine ⟨by decide +kernel, by decide +kernel⟩

/-- HostAccesses: the last byte of HBM, the first past it, and the ends of the host's own memory. -/
theorem witness_HostAccesses :
    ({ st with cxlUp := true } : State).cxlUp = true ∧ Config.hbmEnd - 1 + 1 ≤ Config.hbmEnd ∧ Config.hbmEnd < Config.hbmEnd + 1 ∧
    Config.hbmEnd < Config.hostBase ∧ Config.hostBase ≤ Config.hostEnd - 1 ∧ Config.hostEnd - 1 + 1 ≤ Config.hostEnd ∧
    Config.hostEnd < Config.hostEnd - 1 + 2 := by decide

/-- BringUp: the phase of each clause. -/
theorem witness_BringUp :
    [Phase.power, .fwverify, .memtrain, .sraminit, .linkup].all (fun p =>
      decide (({ State.reset with mgmt := { Mgmt.reset with phase := p } } : State).mgmt.phase = p)) = true ∧
    State.reset.board.badUnit = none ∧ State.reset.board.host = false := by decide

/-- Management: a scrub at the last line of HBM, a pause that may begin and one within the interval, a power interval that is
due, a die at its limit, a quote under way and none, a logged address. -/
theorem witness_Management :
    (st.mgmt.phase = .ready ∧ st.mgmt.scr ≠ 0 ∧ Config.hbmEnd - 1 < Config.hbmEnd ∧ st.mgmt.recalAt.find? 303 = none ∧
      st.mgmt.rcl ≤ 10 ∧ st.mgmt.busy = false ∧ st.mgmt.phase ≠ .fail ∧ st.mgmt.phase ≠ .off) ∧
    (let s : State := { st with clock := 94000, mgmt := { st.mgmt with recalAt := [(5, 0)] } }
     s.mgmt.recalAt.find? 5 = some 0 ∧ s.clock < 0 + 376000 ∧ s.mgmt.powerAt + 94000 ≤ s.clock ∧ 1 ≤ s.mgmt.duty ∧ s.mgmt.duty ≤ 16 ∧
       (let pred := List.replicate 14 4200 ++ [4201, 4201]
        pred.getD (14 - 1) 0 ≤ s.mgmt.pcap ∧ s.mgmt.pcap < pred.getD (15 - 1) 0 ∧ s.mgmt.pcap < pred.getD (16 - 1) 0 ∧
          s.mgmt.duty ≤ 14 + 4)) ∧
    (let s : State := { st with mgmt := { st.mgmt with temps := [115, 0, 0, 0], busy := true, elog := [64] } }
     115 ≤ s.mgmt.temps.getD 0 0 ∧ s.mgmt.busy = true ∧ s.mgmt.elog = 64 :: [] ∧ s.mgmt.phase ≠ .fail) ∧
    ({ st with mgmt := { st.mgmt with phase := .fail } } : State).mgmt.phase = .fail := by
  refine ⟨by decide +kernel, by decide +kernel, by decide +kernel, by decide +kernel⟩

/-! ### Decoding and stepping -/

/-- A thread whose fetched word is w, the first of a block of n words. -/
def withWord (w : Word) (n : Nat) (priv : Bool) : State :=
  withMe (fun t => { t with word := w, hdr0 := BitVec.ofNat 64 (n * 2 ^ 54), priv := priv })

/-- DecodeFailures: an unassigned opcode, a block end out of its place, a reserved field, a privileged word of a user thread, a
word that may run. -/
theorem witness_DecodeFailures :
    (let s := withWord 0x6D00000000000000 2 false
     s.me.stat = .issued ∧ s.me.held = none ∧ s.me.wait = .none ∧ trapsPlainly s Cause.illegalOp = true ∧
       trapsPlainly s Cause.privileged = true) ∧
    (withMe (fun t => { t with wait := .stall .fetch })).me.wait ≠ .none ∧
    (let s := withWord 0x0200000000000000 2 false
     s.me.pcOff + 1 ≠ s.me.blockLen ∧ s.me.word.extractLsb' 56 8 = 0x02) ∧
    (let s := withWord 0x202CA28000000001 2 false
     s.me.pcOff + 1 ≠ s.me.blockLen ∧ s.me.word.extractLsb' 56 8 ≠ 0x01 ∧ s.me.word.extractLsb' 56 8 ≠ 0x02 ∧
       s.me.word.extractLsb' 56 8 ≠ 0x05 ∧ (s.me.word.extractLsb' 56 8).extractLsb' 4 4 ≠ 0xE) ∧
    (let s := withWord 0xE130E3CC00000000 2 false
     (s.me.word.extractLsb' 56 8).extractLsb' 4 4 = 0xE ∧ s.me.priv = false) ∧
    (withWord 0xE130E3CC00000001 2 true).me.priv = true := by decide +kernel
theorem witness_DecodeFailures_words : decode 0x6D00000000000000 = .error .unassigned ∧
    (∀ i, decode 0x202CA28000000001 ≠ .ok i) ∧ decode 0xE130E3CC00000000 = .ok (.pgmap (g 2) (g 4) (g 5) 4 true) ∧
    (∀ i, decode 0xE130E3CC00000001 ≠ .ok i) ∧ decode 0x202CA28000000000 = .ok (.add (g 1) (g 0) (g 0)) := by
  refine ⟨rfl, fun i => nofun, rfl, fun i => nofun, rfl⟩

/-- The running thread READY at the word of ADD, the next choice to issue in it, and what the core's register cache holds. -/
def atAdd (resident : List Nat) (out : List Access) : State :=
  { (withMe (fun t => { t with stat := .ready, out := out })).modCore 0 (fun x => { x with resident := resident }) with
    agenda := [.issue 0 0] }

/-- The premises of StepRunsDecoded up to the word of an instruction, and whether others that wait for its table, what holds it back, the
registers it reads and the registers it writes are as told. -/
def issues (i : Instr) (s : State) (behind held reads writes : Bool) : Bool :=
  let s0 := (choose s).2.advance 1
  let sc : State := { s0 with core := 0, ctx := 0 }
  let s1 := sc.joinConvoy 0 0
  decide ((choose s).1 = .issue 0 0) && !s0.stopped && s1.mayIssue s1.me && decide (s1.me.stat = .ready) && !s1.me.haltReq &&
    s1.me.async.isNone && s1.me.code.isNone && s1.me.loaded && decide (s1.me.pcOff < s1.me.blockLen) &&
    okWith (s1.fetchCode 0 (s1.tenantOf s1.me) (8 * (s1.me.pcBlk.toNat + 2 + s1.me.pcOff))) (fun y =>
      let s2 := (((y.2.countCycles 0 0 (issueCycles (y.1.extractLsb' 56 8))).modMe (fun t =>
        { t with stat := .issued, code := none, word := y.1, held := none, wait := .none })).touchCore 0 [unitOfThread 0] (some (0, 0))).modMe
          (fun t => { t with held := some i })
      decide (encode i = some y.1) && !isEnder y.1 && !isPrivileged y.1 && (s2.tableBehind i none == behind) && ((holdBack s2.me y.1).isSome == held) &&
        (s2.hasResident (entriesOf 0 (sources y.1)) == reads) && (s2.hasResident (entriesOf 0 (dests y.1)) == writes) &&
        (((entriesOf 0 (dests y.1)).foldl (fun x e => x.cacheRegister 0 e) s2).hasResident (entriesOf 0 (dests y.1)))) &&
    decide (s1.me.pcOff + 1 ≠ s1.me.blockLen) && decide (sc.issuerOn 0 = some 0)

/-- The word of ADD issues. -/
def addIssues (s : State) (held reads writes : Bool) : Bool := issues (.add (g 1) (g 0) (g 0)) s false held reads writes

/-- StepRunsDecoded: the word of ADD with every register resident, with the one it writes missing, with the one it reads missing, and
behind a load of the register it reads; an event that is admitted and meets nothing guarded; a tick; a device in FAIL. -/
theorem witness_StepRunsDecoded :
    addIssues (atAdd [0, 1] []) false true true = true ∧ addIssues (atAdd [0] []) false true false = true ∧
    addIssues (atAdd [1] []) false false true = true ∧
    addIssues (atAdd [0, 1] [{ spAccess (.load false) with dest := g 0 }]) true true true = true ∧
    (let s : State := { st with agenda := [.event (.registerFill 0 0 0)] }
     (choose s).1 = .event (.registerFill 0 0 0) ∧ ((choose s).2.advance 1).admits (.registerFill 0 0 0) = true) ∧
    (let s : State := { st with agenda := [.tick 7] }
     (choose s).1 = .tick 7) ∧
    (let s : State := { st with agenda := [.issue 0 0], mgmt := { st.mgmt with phase := .fail } }
     (choose s).1 = .issue 0 0 ∧ ((choose s).2.advance 1).stopped = true) := by
  refine ⟨by decide +kernel, by decide +kernel, by decide +kernel, by decide +kernel, by decide +kernel, by decide +kernel,
    by decide +kernel⟩

/-- StepRunsDecoded: TBCOMMIT while another context waits for its table; a context that another of its core comes before; a thread that holds
its word; threads in ISSUED whose next word can and cannot be fetched. -/
theorem witness_StepRunsDecoded_order :
    (let s := (atAdd [0, 1] []).modThread 0 1 (fun t =>
       { t with stat := .issued, wait := .stall .table, held := some (.tbw 0 (.imm 0) .key (g 0)) })
     issues (.tbcommit (g 1) 0) { s with mem := mem0.write 0x400010 8 0x122C000000000000 } true false true true) = true ∧
    (let s := ((atAdd [0, 1] []).modThread 0 1 (fun t => { t with stat := .ready })).modMe (fun t => { t with age := 1 })
     let sc : State := { (choose s).2.advance 1 with core := 0, ctx := 0 }
     (choose s).1 = .issue 0 0 ∧ ((choose s).2.advance 1).stopped = false ∧ sc.mayIssue sc.me = true ∧ sc.me.stat = .ready ∧
       sc.me.haltReq = false ∧ sc.me.async = none ∧ sc.issuerOn 0 = some 1) ∧
    (let s := (atAdd [0, 1] []).modMe (fun t => { t with code := some 0x202CA28000000000 })
     (({ (choose s).2.advance 1 with core := 0, ctx := 0 } : State).joinConvoy 0 0).me.code = some 0x202CA28000000000) ∧
    (let f (s : State) (ok : Bool) : Bool :=
       let sc : State := { (choose s).2.advance 1 with core := 0, ctx := 0 }
       let r := sc.fetchCode 0 (sc.tenantOf sc.me) (8 * (sc.me.pcBlk.toNat + 2 + sc.me.pcOff))
       decide ((choose s).1 = .issue 0 0) && !sc.stopped && sc.mayIssue sc.me && decide (sc.me.stat = .issued) && sc.me.held.isNone &&
         decide (sc.me.wait = .stall .fetch) && sc.me.loaded && decide (sc.me.pcOff < sc.me.blockLen) &&
         (match r with
           | .ok _ => ok
           | .error _ => !ok)
     let s := (atAdd [0, 1] []).modMe (fun t => { t with stat := .issued, wait := .stall .fetch })
     f s true = true ∧ f (s.modMe (fun t => { t with pcBlk := 0x7FFFFFF0 })) false = true) := by decide +kernel
theorem witness_StepRunsDecoded_list :
    (let s : State := { listAt [4, 0x203000] id with agenda := [.list 1 .listJump] }
     (choose s).1 = .list 1 .listJump ∧ ((choose s).2.advance 1).admits .listJump = true) := by decide +kernel

/-- EncodingRoundTrip and DecodingIsCanonical: a well-formed instruction and its word. -/
theorem witness_Encoding : (Instr.add (g 1) (g 0) (g 0)).wellFormed = true ∧
    encode (.add (g 1) (g 0) (g 0)) = some 0x202CA28000000000 := by decide +kernel
theorem witness_Decoding : decode 0x202CA28000000000 = .ok (.add (g 1) (g 0) (g 0)) := rfl

/-- InvariantKept: a step from reset. -/
theorem witness_InvariantKept : Inv State.reset ∧ ∃ t, step State.reset = .next t := ⟨rfl, _, rfl⟩

end Sys2Proof.Tests
end

/-! # The scalar instructions (spec/07): what each leaves in the state, and what each computes

First one rule for each shape that a scalar instruction has, then the values of the functions on words, then the statements. -/

section

namespace Sys2Proof.Machine

/-! ## The shapes of scalar instructions -/

/-- An instruction that writes a value to a register and retires. -/
theorem gives_of_finish {i : Instr} {s : State} {d : Reg} {v : Word} {p : Bool} (h : exec i s = .next (s.finish d ⟨v, p⟩)) :
    Gives i s d v p := ⟨_, h, finish_result s d ⟨v, p⟩⟩

/-- D := f(A, B). -/
theorem gives_of_binop {i : Instr} {s : State} {d a b : Reg} {f : Word → Word → Word} {v : Word}
    (h : exec i s = .next (s.binop f d a b)) (hv : f (s.reg a).v (s.reg b).v = v) :
    Gives i s d v ((s.reg a).p || (s.reg b).p) := hv ▸ gives_of_finish h

/-- D := f(A, immediate). -/
theorem gives_of_immop {i : Instr} {s : State} {d a : Reg} {f : Word → Word → Word} {imm v : Word}
    (h : exec i s = .next (s.immop f d a imm)) (hv : f (s.reg a).v imm = v) : Gives i s d v (s.reg a).p :=
  hv ▸ gives_of_finish h

/-- D := f(A). -/
theorem gives_of_unop {i : Instr} {s : State} {d a : Reg} {f : Word → Word} {v : Word}
    (h : exec i s = .next (s.unop f d a)) (hv : f (s.reg a).v = v) : Gives i s d v (s.reg a).p := hv ▸ gives_of_finish h

/-- An instruction that writes predicates from operands of poison p and retires. -/
theorem makes_of_preds {i : Instr} {s : State} {p : Bool} {q : Thread → BitVec 8}
    (h : exec i s = .next ((s.modMe (fun t => ({ t with preds := q t } : Thread).taintFlag p)).retire)) :
    Makes i s { s.me with preds := q s.me, tp := s.me.tp || p } := ⟨_, h, retires s _ rfl⟩

/-- pN := b. -/
theorem makes_of_predop {i : Instr} {s : State} {n : BitVec 3} {b p : Bool} (h : exec i s = .next (s.predop n b p)) :
    Makes i s { s.me with preds := withBit s.me.preds n.toNat b, tp := s.me.tp || p } := makes_of_preds h

/-- pN := b where no register is read: the poison flag stays. -/
theorem makes_of_predop_clean {i : Instr} {s : State} {n : BitVec 3} {b : Bool} (h : exec i s = .next (s.predop n b false)) :
    Makes i s { s.me with preds := withBit s.me.preds n.toNat b } := by
  have m := makes_of_predop h
  rwa [Bool.or_false] at m

/-- An instruction that raises a trap, where the gang does not turn it into something else. -/
theorem traps_of_raiseTrap {i : Instr} {s : State} {cause : BitVec 8} {tval : Word}
    (h : exec i s = .next (s.raiseTrap cause tval)) (plain : trapsPlainly s cause = true) : Traps i s cause tval :=
  ⟨_, h, raiseTrap_trapped s cause tval plain⟩

/-! ## Products and quotients (R121, R123) -/

theorem mulHigh_eq (x y : Word) : mulHigh x y = (x.signExtend 128 * y.signExtend 128).extractLsb' 64 64 := by
  have product : x.signExtend 128 * y.signExtend 128 = BitVec.ofInt 128 (x.toInt * y.toInt) := (BitVec.ofInt_mul ..).symm
  rw [product, mulHigh]
  generalize x.toInt * y.toInt = z
  apply BitVec.eq_of_toNat_eq
  simp only [BitVec.extractLsb'_toNat, BitVec.toNat_ofInt, Nat.shiftRight_eq_div_pow]
  omega

theorem mulHighU_eq (x y : Word) : mulHighU x y = (x.setWidth 128 * y.setWidth 128).extractLsb' 64 64 := by
  have bound : x.toNat * y.toNat < 2 ^ 128 :=
    Nat.lt_of_lt_of_eq (Nat.mul_lt_mul'' x.isLt y.isLt) (Nat.pow_add 2 64 64).symm
  apply BitVec.eq_of_toNat_eq
  rw [mulHighU, BitVec.extractLsb'_toNat, BitVec.toNat_mul, BitVec.toNat_setWidth_of_le (by decide),
    BitVec.toNat_setWidth_of_le (by decide), BitVec.toNat_ofNat, Nat.shiftRight_eq_div_pow, Nat.mod_eq_of_lt bound]

theorem divS_eq (x y : Word) : divS x y = if y = 0 then BitVec.allOnes 64 else x.sdiv y := by
  have quotient : BitVec.ofInt 64 (x.toInt.tdiv y.toInt) = x.sdiv y :=
    BitVec.eq_of_toInt_eq (by rw [BitVec.toInt_ofInt, BitVec.toInt_sdiv])
  rw [divS, quotient]; rfl

theorem divU_eq (x y : Word) : divU x y = if y = 0 then BitVec.allOnes 64 else x / y := by
  have quotient : BitVec.ofNat 64 (x.toNat / y.toNat) = x / y := by rw [← BitVec.toNat_udiv, BitVec.ofNat_toNat, BitVec.setWidth_eq]
  rw [divU, quotient]; rfl

theorem remS_eq (x y : Word) : remS x y = if y = 0 then x else x.srem y := by
  rw [remS, ← BitVec.toInt_srem, BitVec.ofInt_toInt]

theorem remU_eq (x y : Word) : remU x y = if y = 0 then x else x % y := by
  rw [remU, ← BitVec.toNat_umod, BitVec.ofNat_toNat, BitVec.setWidth_eq]

/-! ## Shifts and rotations (R125) -/

theorem countOf_eq (y : Word) : countOf y = y.toNat % 64 := by
  rw [countOf, natBits, bits, BitVec.extractLsb'_toNat, Nat.shiftRight_zero]

/-- A count of six bits in an instruction word counts as it stands. -/
theorem countOf_zext (n : BitVec 6) : countOf (zext n) = n.toNat := by
  rw [countOf_eq, zext, BitVec.toNat_setWidth_of_le (by decide), Nat.mod_eq_of_lt n.isLt]

theorem rol_eq (x y : Word) : rol x y = x.rotateLeft y.toNat := by rw [rol, countOf_eq, BitVec.rotateLeft_def]

theorem rol_zext (x : Word) (n : BitVec 6) : rol x (zext n) = x.rotateLeft n.toNat := by
  rw [rol, countOf_zext, BitVec.rotateLeft_def, Nat.mod_eq_of_lt n.isLt]

/-! ## Minimum, maximum and magnitude (R126, R127) -/

/-- A condition and a weaker one select the same value, where what lies between them makes both values equal. -/
theorem ite_eq_ite_of_imp {α : Type} {p q : Prop} [Decidable p] [Decidable q] {u v : α} (weaker : p → q)
    (same : q → ¬ p → u = v) : (if p then u else v) = if q then u else v := by
  by_cases hp : p
  · rw [if_pos hp, if_pos (weaker hp)]
  · by_cases hq : q
    · rw [if_neg hp, if_pos hq, same hq hp]
    · rw [if_neg hp, if_neg hq]

/-- Values that are not apart in signed order are equal. -/
theorem eq_of_toInt_le_of_not_lt {x y : Word} (le : x.toInt ≤ y.toInt) (notLt : ¬ x.toInt < y.toInt) : x = y :=
  BitVec.eq_of_toInt_eq (Int.le_antisymm le (Int.not_lt.1 notLt))

/-- Values that are not apart in unsigned order are equal. -/
theorem eq_of_toNat_le_of_not_lt {x y : Word} (le : x.toNat ≤ y.toNat) (notLt : ¬ x.toNat < y.toNat) : x = y :=
  BitVec.eq_of_toNat_eq (Nat.le_antisymm le (Nat.not_lt.1 notLt))

theorem minS_eq (x y : Word) : minS x y = if x.toInt ≤ y.toInt then x else y := by
  simp only [minS, BitVec.slt_iff_toInt_lt]
  exact ite_eq_ite_of_imp Int.le_of_lt eq_of_toInt_le_of_not_lt

theorem maxS_eq (x y : Word) : maxS x y = if x.toInt ≤ y.toInt then y else x := by
  simp only [maxS, BitVec.slt_iff_toInt_lt]
  exact ite_eq_ite_of_imp Int.le_of_lt fun le notLt => (eq_of_toInt_le_of_not_lt le notLt).symm

theorem minU_eq (x y : Word) : minU x y = if x.toNat ≤ y.toNat then x else y := by
  simp only [minU, BitVec.ult_iff_lt, BitVec.lt_def]
  exact ite_eq_ite_of_imp Nat.le_of_lt eq_of_toNat_le_of_not_lt

theorem maxU_eq (x y : Word) : maxU x y = if x.toNat ≤ y.toNat then y else x := by
  simp only [maxU, BitVec.ult_iff_lt, BitVec.lt_def]
  exact ite_eq_ite_of_imp Nat.le_of_lt fun le notLt => (eq_of_toNat_le_of_not_lt le notLt).symm

theorem absS_eq (x : Word) : absS x = BitVec.ofNat 64 x.toInt.natAbs := by
  rw [absS, BitVec.slt_eq_decide, show (0 : Word).toInt = 0 from rfl, ← BitVec.ofInt_natCast]
  by_cases h : x.toInt < 0
  · rw [decide_eq_true h, if_pos rfl, Int.ofNat_natAbs_of_nonpos (Int.le_of_lt h), BitVec.ofInt_neg, BitVec.ofInt_toInt]
    exact BitVec.zero_sub x
  · rw [decide_eq_false h, if_neg (by decide), Int.natAbs_of_nonneg (Int.not_lt.1 h), BitVec.ofInt_toInt]

/-! ## Counts of bits (R127) -/

/-- The zeros above the highest set bit. -/
theorem clz_spec (x : Word) :
    ∃ n, n ≤ 64 ∧ x.toNat < 2 ^ (64 - n) ∧ (n < 64 → 2 ^ (63 - n) ≤ x.toNat) ∧ clz x = BitVec.ofNat 64 n := by
  by_cases h : x = 0
  · exact ⟨64, Nat.le_refl _, by simp [h], fun n => absurd n (by decide), by simp [clz, h]⟩
  · have nonzero : x.toNat ≠ 0 := fun e => h (BitVec.eq_of_toNat_eq e)
    have highest : x.toNat.log2 < 64 := (Nat.log2_lt nonzero).2 x.isLt
    refine ⟨63 - x.toNat.log2, by omega, ?_, fun _ => ?_, if_neg h⟩
    · rw [show 64 - (63 - x.toNat.log2) = x.toNat.log2 + 1 by omega]; exact Nat.lt_log2_self
    · rw [show 63 - (63 - x.toNat.log2) = x.toNat.log2 by omega]; exact Nat.log2_self_le nonzero

/-- Every bit below the lowest set bit is clear; without a set bit the answer is the width. -/
theorem lowest_spec {w : Nat} (x : BitVec w) :
    lowest x ≤ w ∧ (∀ i, i < lowest x → x.getLsbD i = false) ∧ (lowest x < w → x.getLsbD (lowest x) = true) := by
  unfold lowest
  cases h : (List.range w).find? (fun i => x.getLsbD i) with
  | none =>
    rw [List.find?_range_eq_none] at h
    exact ⟨Nat.le_refl _, fun i hi => by simpa using h i hi, fun hw => absurd hw (Nat.lt_irrefl w)⟩
  | some n =>
    obtain ⟨set, bound, below⟩ := List.find?_range_eq_some.1 h
    exact ⟨Nat.le_of_lt (List.mem_range.1 bound), fun i hi => by simpa using below i hi, fun _ => set⟩

theorem popc_eq (x : Word) : popc x = BitVec.ofNat 64 ((List.range 64).filter (fun i => x.getLsbD i)).length := by
  rw [popc, popcount, List.countP_eq_length_filter]

/-! ## Reversed orders (R127) -/

theorem getLsbD_brev (x : Word) {i : Nat} (h : i < 64) : (brev x).getLsbD i = x.getLsbD (63 - i) := by
  rw [brev, BitVec.getLsbD_reverse, BitVec.getMsbD_eq_getLsbD, decide_eq_true h, Bool.true_and]

@[simp] theorem length_bytesOf (n v : Nat) : (bytesOf n v).length = n := by
  induction n generalizing v with
  | zero => rfl
  | succ n ih => rw [bytesOf, List.length_cons, ih]

/-- Byte i of a number. -/
theorem getElem?_bytesOf {n i : Nat} (v : Nat) (h : i < n) : (bytesOf n v)[i]? = some (BitVec.ofNat 8 (v / 256 ^ i)) := by
  induction n generalizing v i with
  | zero => exact absurd h (Nat.not_lt_zero i)
  | succ n ih =>
    cases i with
    | zero => simp [bytesOf]
    | succ i => rw [bytesOf, List.getElem?_cons_succ, ih _ (Nat.lt_of_succ_lt_succ h), Nat.div_div_eq_div_mul, Nat.pow_succ']

theorem ofBytes_lt (l : List Byte) : ofBytes l < 256 ^ l.length := by
  induction l with
  | nil => exact Nat.one_pos
  | cons b r ih =>
    have hb := b.isLt
    rw [ofBytes, List.length_cons, Nat.pow_succ]
    omega

/-- Byte i of the number that bytes hold. -/
theorem ofBytes_div_mod {l : List Byte} {i : Nat} {b : Byte} (h : l[i]? = some b) : ofBytes l / 256 ^ i % 256 = b.toNat := by
  induction l generalizing i with
  | nil => simp at h
  | cons c r ih =>
    have hc := c.isLt
    cases i with
    | zero =>
      obtain rfl : c = b := by simpa using h
      rw [ofBytes]; omega
    | succ i =>
      have rest : ofBytes (c :: r) / 256 = ofBytes r := by rw [ofBytes]; omega
      rw [Nat.pow_succ', ← Nat.div_div_eq_div_mul, rest]
      exact ih (by simpa using h)

theorem extractLsb'_bswap (x : Word) {i : Nat} (h : i < 8) :
    (bswap x).extractLsb' (8 * i) 8 = x.extractLsb' (56 - 8 * i) 8 := by
  have byte : (bytesOf 8 x.toNat).reverse[i]? = some (BitVec.ofNat 8 (x.toNat / 256 ^ (7 - i))) := by
    rw [List.getElem?_reverse (by simpa using h), length_bytesOf]
    exact getElem?_bytesOf _ (by omega)
  have bound : ofBytes (bytesOf 8 x.toNat).reverse < 2 ^ 64 := by simpa using ofBytes_lt (bytesOf 8 x.toNat).reverse
  have pow (n : Nat) : 2 ^ (8 * n) = 256 ^ n := Nat.pow_mul 2 8 n
  apply BitVec.eq_of_toNat_eq
  rw [BitVec.extractLsb'_toNat, BitVec.extractLsb'_toNat, bswap, BitVec.toNat_ofNat, Nat.mod_eq_of_lt bound,
    Nat.shiftRight_eq_div_pow, Nat.shiftRight_eq_div_pow, show 56 - 8 * i = 8 * (7 - i) by omega, pow, pow]
  exact (ofBytes_div_mod byte).trans (BitVec.toNat_ofNat ..)

/-! ## Bit fields (R128) -/

theorem fieldOk_iff {pos width : Nat} : fieldOk pos width = true ↔ 1 ≤ width ∧ width ≤ 64 ∧ pos + width ≤ 64 := by
  simp [fieldOk, and_assoc]

/-- The signed value of the bits of a vector is its value in two's complement. -/
theorem signedNat_toNat {n : Nat} (x : BitVec n) : signedNat n x.toNat = x.toInt := by
  have half : x.toNat < 2 ^ (n - 1) ↔ 2 * x.toNat < 2 ^ n := by
    cases n with
    | zero => simp [BitVec.of_length_zero]
    | succ n => rw [Nat.add_sub_cancel, Nat.pow_succ]; omega
  rw [signedNat, BitVec.toInt_eq_toNat_cond, Nat.mod_eq_of_lt x.isLt]
  simp only [half]

theorem extr_eq (sign : Bool) (pos width : Nat) (x : Word) :
    extr sign pos width x =
      if sign then ((x >>> pos).setWidth width).signExtend 64 else ((x >>> pos).setWidth width).setWidth 64 := by
  have field : x.toNat / 2 ^ pos % 2 ^ width = ((x >>> pos).setWidth width).toNat := by
    rw [BitVec.toNat_setWidth, BitVec.toNat_ushiftRight, Nat.shiftRight_eq_div_pow]
  rw [extr, field, signedNat_toNat, BitVec.ofNat_toNat]; rfl

theorem getLsbD_maskAt (w lo n i : Nat) : (maskAt w lo n).getLsbD i = decide (i < w ∧ lo ≤ i ∧ i < lo + n) := by
  rw [maskAt, BitVec.getLsbD_ofNat, Nat.testBit_mul_two_pow, Nat.testBit_two_pow_sub_one, ← Bool.decide_and, ← Bool.decide_and]
  exact decide_eq_decide.2 (by omega)

theorem getLsbD_insr (pos width : Nat) (x y : Word) {i : Nat} (h : i < 64) :
    (insr pos width x y).getLsbD i = if pos ≤ i ∧ i < pos + width then x.getLsbD (i - pos) else y.getLsbD i := by
  simp only [insr, BitVec.getLsbD_or, BitVec.getLsbD_and, BitVec.getLsbD_not, BitVec.getLsbD_shiftLeft, getLsbD_maskAt, h,
    decide_true, Bool.true_and, true_and]
  by_cases inside : pos ≤ i ∧ i < pos + width
  · rw [decide_eq_true inside, if_pos inside, decide_eq_false (Nat.not_lt.2 inside.1)]; simp
  · rw [decide_eq_false inside, if_neg inside]; simp

/-! EXTR and INSR test the limits of their field. -/

theorem exec_extr_inside {s : State} {d a : Reg} {sign : Bool} {pos : BitVec 6} {width : BitVec 7}
    (h : fieldOk pos.toNat width.toNat = true) :
    exec (.extr d a sign pos width) s = .next (s.unop (extr sign pos.toNat width.toNat) d a) :=
  congrArg Host.Outcome.next (if_pos h)

theorem exec_extr_outside {s : State} {d a : Reg} {sign : Bool} {pos : BitVec 6} {width : BitVec 7}
    (h : ¬ fieldOk pos.toNat width.toNat = true) :
    exec (.extr d a sign pos width) s = .next (s.raiseTrap Cause.range s.me.word) :=
  congrArg Host.Outcome.next (if_neg h)

theorem exec_insr_inside {s : State} {d a b : Reg} {pos : BitVec 6} {width : BitVec 7}
    (h : fieldOk pos.toNat width.toNat = true) :
    exec (.insr d a b pos width) s = .next (s.binop (insr pos.toNat width.toNat) d a b) :=
  congrArg Host.Outcome.next (if_pos h)

theorem exec_insr_outside {s : State} {d a b : Reg} {pos : BitVec 6} {width : BitVec 7}
    (h : ¬ fieldOk pos.toNat width.toNat = true) :
    exec (.insr d a b pos width) s = .next (s.raiseTrap Cause.range s.me.word) :=
  congrArg Host.Outcome.next (if_neg h)

/-! ## Carry-less products (R129) -/

/-- The parity of the pairs of set bits of x and of the low n bits of y whose positions add up to i. -/
def clCoefficient (x y : Word) (n i : Nat) : Bool :=
  decide ((List.range n).countP (fun j => decide (j ≤ i) && (x.getLsbD (i - j) && y.getLsbD j)) % 2 = 1)

/-- One more bit of y adds the pair that it makes with x. -/
theorem clCoefficient_succ (x y : Word) (n i : Nat) :
    clCoefficient x y (n + 1) i = (clCoefficient x y n i ^^ (decide (n ≤ i) && (x.getLsbD (i - n) && y.getLsbD n))) := by
  unfold clCoefficient
  rw [List.range_succ, List.countP_append, List.countP_singleton]
  cases decide (n ≤ i) && (x.getLsbD (i - n) && y.getLsbD n) with
  | false => simp
  | true =>
    rw [if_pos rfl, Bool.xor_true, ← decide_not]
    exact decide_eq_decide.2 (by omega)

theorem testBit_clProduct (x y : Word) (n i : Nat) : (clProduct x.toNat y n).testBit i = clCoefficient x y n i := by
  induction n with
  | zero => simp [clProduct, clCoefficient]
  | succ n ih =>
    rw [clCoefficient_succ, clProduct, bit]
    cases y.getLsbD n with
    | false => simpa using ih
    | true => simp [Nat.testBit_xor, Nat.testBit_shiftLeft, ih, BitVec.getLsbD]

theorem getLsbD_clmul (x y : Word) {i : Nat} (h : i < 64) : (clmul x y).getLsbD i = clCoefficient x y 64 i := by
  rw [clmul, BitVec.getLsbD_ofNat, decide_eq_true h, Bool.true_and, testBit_clProduct]

theorem getLsbD_clmulh (x y : Word) {i : Nat} (h : i < 64) : (clmulh x y).getLsbD i = clCoefficient x y 64 (i + 64) := by
  rw [clmulh, BitVec.getLsbD_ofNat, decide_eq_true h, Bool.true_and, Nat.testBit_div_two_pow, testBit_clProduct]

/-! ## Predicates (R132 to R135) -/

/-- A bit vector with one bit written. -/
theorem getLsbD_withBit {w : Nat} (x : BitVec w) (n : Nat) (b : Bool) {i : Nat} (h : i < w) :
    (withBit x n b).getLsbD i = if i = n then b else x.getLsbD i := by
  have one : (BitVec.ofNat w (2 ^ n)).getLsbD i = decide (i = n) := by
    rw [BitVec.getLsbD_ofNat, Nat.testBit_two_pow, decide_eq_true h, Bool.true_and]
    exact decide_eq_decide.2 eq_comm
  cases b with
  | true =>
    rw [withBit, if_pos rfl, BitVec.getLsbD_or, one]
    by_cases e : i = n <;> simp [e]
  | false =>
    rw [withBit, if_neg Bool.false_ne_true, BitVec.getLsbD_and, BitVec.getLsbD_not, one, decide_eq_true h, Bool.true_and]
    by_cases e : i = n <;> simp [e]

/-- The same, with what is written given by an equation. -/
theorem getLsbD_withBit_of_eq {w : Nat} {x : BitVec w} {n i : Nat} {b v : Bool} (e : b = v) (h : i < w) :
    (withBit x n b).getLsbD i = if i = n then v else x.getLsbD i := e ▸ getLsbD_withBit x n b h

theorem getLsbD_pmovPreds (old mask : BitVec 8) (x : Word) {i : Nat} (h : i < 8) :
    (pmovPreds old mask x).getLsbD i = if mask.getLsbD i then x.getLsbD i else old.getLsbD i := by
  simp only [pmovPreds, bits, BitVec.getLsbD_or, BitVec.getLsbD_and, BitVec.getLsbD_not, BitVec.getLsbD_extractLsb', h,
    decide_true, Bool.true_and, Nat.zero_add]
  cases mask.getLsbD i <;> simp

theorem plogBit_eq (table : BitVec 4) (pa pb : Bool) : plogBit table pa pb = table.getLsbD (2 * pa.toNat + pb.toNat) := by
  cases pa <;> cases pb <;> rfl

/-- A condition holds as R132 says, on signed values (toInt) or unsigned ones (toNat). -/
theorem icond_eq (c : ICond) (x y : Word) : icond c x y = match c with
    | .eq => decide (x = y)
    | .ne => decide (x ≠ y)
    | .lt => decide (x.toInt < y.toInt)
    | .ge => decide (x.toInt ≥ y.toInt)
    | .ltu => decide (x.toNat < y.toNat)
    | .geu => decide (x.toNat ≥ y.toNat) := by
  cases c with
  | eq => rfl
  | ne => rfl
  | lt => exact BitVec.slt_eq_decide
  | ge => rw [icond, BitVec.slt_eq_decide, ← decide_not]; exact decide_eq_decide.2 Int.not_lt
  | ltu => exact BitVec.ult_eq_decide
  | geu => rw [icond, BitVec.ult_eq_decide, ← decide_not]; exact decide_eq_decide.2 Nat.not_lt

/-! ## The statements -/

/-- Settles O1: each instruction is a D := f(A, B), and f is the operation of the statement. -/
theorem integerArithmeticResults : Obligations.IntegerArithmeticResults := by
  intro s d a b
  exact ⟨gives_of_binop rfl rfl, gives_of_binop rfl rfl, gives_of_binop rfl rfl,
    gives_of_binop rfl (mulHigh_eq ..), gives_of_binop rfl (mulHighU_eq ..),
    gives_of_binop rfl (divS_eq ..), gives_of_binop rfl (divU_eq ..),
    gives_of_binop rfl (remS_eq ..), gives_of_binop rfl (remU_eq ..)⟩

/-- Settles O2: as O1, with the counts of the register forms modulo 64 and those of the immediate forms as they stand. -/
theorem logicAndShiftResults : Obligations.LogicAndShiftResults := by
  intro s d a b imm n
  refine ⟨gives_of_binop rfl rfl, gives_of_binop rfl rfl, gives_of_binop rfl rfl,
    gives_of_immop rfl rfl, gives_of_immop rfl rfl, gives_of_immop rfl rfl, gives_of_immop rfl rfl,
    gives_of_binop (f := shl) rfl ?_, gives_of_binop (f := shr) rfl ?_, gives_of_binop (f := sar) rfl ?_,
    gives_of_binop rfl (rol_eq ..),
    gives_of_immop (f := shl) rfl ?_, gives_of_immop (f := shr) rfl ?_, gives_of_immop (f := sar) rfl ?_,
    gives_of_immop rfl (rol_zext ..)⟩
  · rw [shl, countOf_eq]
  · rw [shr, countOf_eq]
  · rw [sar, countOf_eq]
  · rw [shl, countOf_zext]
  · rw [shr, countOf_zext]
  · rw [sar, countOf_zext]

/-- Settles O3: the values by their equations, the counts and the reversed orders by the property that pins them. -/
theorem selectionAndBitCountResults : Obligations.SelectionAndBitCountResults := by
  intro s d a b
  obtain ⟨n, bound, above, highest, zeros⟩ := clz_spec (s.reg a).v
  obtain ⟨width, below, set⟩ := lowest_spec (s.reg a).v
  exact ⟨gives_of_binop rfl (minS_eq ..), gives_of_binop rfl (maxS_eq ..),
    gives_of_binop rfl (minU_eq ..), gives_of_binop rfl (maxU_eq ..), gives_of_unop rfl (absS_eq _),
    ⟨n, bound, above, highest, gives_of_unop rfl zeros⟩,
    ⟨lowest (s.reg a).v, width, below, set, gives_of_unop rfl rfl⟩, gives_of_unop rfl (popc_eq _),
    ⟨brev (s.reg a).v, fun _ => getLsbD_brev _, gives_of_unop rfl rfl⟩,
    ⟨bswap (s.reg a).v, fun _ => extractLsb'_bswap _, gives_of_unop rfl rfl⟩⟩

/-- Settles O4: within its limits a field gives the value of the statement, beyond them RANGE; the coefficients of a carry-less
product by induction on the bits of B. -/
theorem bitFieldAndCarrylessResults : Obligations.BitFieldAndCarrylessResults := by
  refine ⟨fun s d a b sign pos width => ⟨fun low high fits => ?_, fun limits plain => ?_⟩, fun s d a b => ?_⟩
  · have inside := fieldOk_iff.2 ⟨low, high, fits⟩
    exact ⟨gives_of_unop (exec_extr_inside inside) (extr_eq ..),
      insr pos.toNat width.toNat (s.reg a).v (s.reg b).v, fun _ => getLsbD_insr _ _ _ _, gives_of_binop (exec_insr_inside inside) rfl⟩
  · have outside : ¬ fieldOk pos.toNat width.toNat = true := by rw [fieldOk_iff]; omega
    exact ⟨traps_of_raiseTrap (exec_extr_outside outside) plain, traps_of_raiseTrap (exec_insr_outside outside) plain⟩
  · exact ⟨⟨clmul (s.reg a).v (s.reg b).v, fun _ => getLsbD_clmul _ _, gives_of_binop rfl rfl⟩,
      ⟨clmulh (s.reg a).v (s.reg b).v, fun _ => getLsbD_clmulh _ _, gives_of_binop rfl rfl⟩⟩

/-- Settles O6: what writes predicates changes them and the poison flag alone; PLOG reads no register, so it leaves the flag. -/
theorem predicateResults : Obligations.PredicateResults := by
  intro s d a b n pa pb imm table mask
  exact ⟨fun c => ⟨_, fun _ => getLsbD_withBit_of_eq (icond_eq c ..), makes_of_predop rfl⟩,
    fun c => ⟨_, fun _ => getLsbD_withBit_of_eq (icond_eq c ..), makes_of_predop rfl⟩,
    ⟨_, fun _ => getLsbD_withBit_of_eq (plogBit_eq ..), makes_of_predop_clean rfl⟩,
    ⟨_, fun _ => getLsbD_pmovPreds _ _ _, makes_of_preds (q := fun t => pmovPreds t.preds mask (s.reg a).v) rfl⟩,
    gives_of_finish rfl, gives_of_finish rfl⟩

end Sys2Proof.Machine
end
